-- ==== Sys2Proof/Word.lean ====
section
/-! DEFINITION. Word.lean: the words of the module's registers, descriptors and memories. -/
namespace Sys2Proof

/-- One byte of memory, of a descriptor or of a message. -/
abbrev Byte := BitVec 8

/-- One DW: a BAR0 register word (R416). -/
abbrev Word := BitVec 32

/-- A 64-bit value: a step number, an identifier, a seed. -/
abbrev DWord := BitVec 64

end Sys2Proof
end

