-- ==== Sys2Proof/Syntax.lean ====
section
/-! DEFINITION. Syntax.lean: the commands the module takes, one constructor for each row of spec/opcode_table.json, with its
operands. An operand that a measurement, a physical fault or another party supplies (a voltage, a failed unit, the bytes of a
message) is the command's own; everything else comes from the state. -/
namespace Sys2Proof

/-- A message as it arrives at a port: the header fields of R284, header bytes 24–55 (params), the body with the poison bit of
each byte's chunk, whether its class and its first and last flags agree with the tags, and whether its header chunk is poisoned. -/
structure Rx where
  port : Nat
  dst : Nat
  src : Nat
  cls : Nat
  sequenced : Bool
  seq : Nat
  step : Nat
  params : List Byte
  body : List (Byte × Bool)
  framed : Bool
  hdrPoison : Bool
deriving DecidableEq, Repr

/-- A parity checker that the swatch tests (R250): the read path of a pseudo-channel of a stack, a slice, a merge buffer, the scratchpad
of a physical tile, a table. -/
inductive Checker where
  | stack (mdie pc : Nat)
  | slice (mdie : Nat)
  | merge (mdie : Nat)
  | scratchpad (phys : Nat)
  | table (index : Nat)
deriving DecidableEq, Repr

/-- What a checker finds in a sector: the bytes whose parity fails, whether it delivers poison, and whether it counts a parity event. -/
structure Finding where
  bytes : List Nat
  poison : Bool
  event : Bool
deriving DecidableEq, Repr

/-- The findings of the swatch (R463): physical tiles, NMEs, stacks, slices and merge buffers that failed a test other than that of their
parity checkers, ports, the security root, and what the parity checkers find in the three patterns of R250, for each checker that does
not find what the patterns hold. -/
structure SwatchResult where
  tiles : List Nat
  nmes : List Nat
  hbm : List (Nat × Nat)
  slices : List Nat
  merges : List Nat
  ports : List Nat
  security : Bool
  checkers : List (Checker × List Finding)
deriving DecidableEq, Repr

/-- What a physical upset leaves in SRAM (R226, R228): failing parity in the bytes of a mask, in a sector of a table (kind and index), in
the merge entry of a sector, or in a stored sector of a slice or scratchpad. -/
inductive Strike where
  | table (kind index mask : Nat)
  | merge (sector mask : Nat)
  | stored (key mask : Nat)
deriving DecidableEq, Repr

/-- What link training finds at a port (R289): whether lanes are reversed, the lanes that locked, the partner's largest width, how many
choices of width and lane group failed order 5, and the partner's kind, address and module ID. -/
structure Trained where
  reversed : Bool
  locked : Nat
  partnerMax : Nat
  fails : Nat
  isSwitch : Bool
  addr : Nat
  id : Nat
deriving DecidableEq, Repr

/-- How a transaction of the host link arrives (R428, R429): good, poisoned, failing its IDE check, or malformed. -/
inductive Tlp where
  | good | poisoned | ide | malformed
deriving DecidableEq, Repr

/-- An error of the host link itself, which the port has seen since the link came up (R428). -/
inductive LinkError where
  | receiver | badTlp | replayNum | replayTimer | dataLink
deriving DecidableEq, Repr

/-- Who reads or writes a register, and how: the management core, or the driver with a request of `dws` DWs to BAR0, or to a place of BAR4
that is no doorbell (R416, R430). -/
inductive Request where
  | core
  | bar0 (dws : Nat) (tlp : Tlp)
  | bar4 (tlp : Tlp)
deriving DecidableEq, Repr

/-- What the host sets in configuration space before it enables the module as a bus master (R413, R415, R420, R428): the size of BAR2, the
bases of the three BARs, MSI-X Enable, the completion timeout range of Device Control 2 and the AER Uncorrectable Error Severity. -/
structure HostConfig where
  bar2Log2 : Nat
  bars : List Nat
  msixOn : Bool
  timeoutRange : Nat
  severity : Nat
deriving DecidableEq, Repr

/-- The path a management message arrives on (R477): MCTP over I3C, MCTP over PCIe VDM, the mailbox, DOE, or MGMT_MCTP from a
peer. -/
inductive Path where
  | i3c | vdm | mailbox | doe | peer (addr : Nat)
deriving DecidableEq, Repr

/-- The commands (spec/opcode_table.json). -/
inductive Instr where
  | powerOn (mainCv auxCv : Nat)
  | swatchEnd (r : SwatchResult)
  | conventionalReset
  | flr
  | d3hotEntry
  | d0Return
  | hostLinkDown (errors : List LinkError)
  | hostLinkUp (speed width : Nat)
  | mainInRange (cv : Nat)
  | mainQualified
  | mainLost (cv : Nat)
  | holdEntry
  | auxLost (cv : Nat)
  | auxReturned (cv : Nat)
  | bothInputsLost (cv : Nat)
  | inputOverVoltage (main : Bool) (cv : Nat)
  | thermalTrip (sensor : Nat)
  | tripRelease (mainCv auxCv : Nat)
  | forceOff
  | presenceBreak
  | forceAux
  | forceReturn
  | pllLockLoss (die : Nat)
  | capLoopTick (avg1ms avg100us : Nat)
  | thermalTick (temps : List Nat)
  | sensorSample (readings : List Nat)
  | healthTick
  | bar0RsRead (tag off : Nat) (req : Request)
  | registerWrite (off val be : Nat) (req : Request)
  | irqUnmask (source : Nat)
  | doorbell (ring val be : Nat) (tlp : Tlp)
  | ringEnable (ring val : Nat)
  | ringDisable (ring val : Nat)
  | ringResume (ring : Nat)
  | ringHeadWrite (ring val : Nat)
  | descriptorFetch (ring : Nat) (bytes : List Byte) (outcome : Nat)
  | patternLoad
  | gemm (ring : Nat)
  | segmentFill (tile : Nat) (ofB : Bool)
  | outputTilePost (tile : Nat)
  | queueEntryDrain (tile : Nat)
  | stream (ring : Nat)
  | cast (ring : Nat)
  | ladderMove (tile : Nat)
  | checkComputation (phys fault : Nat)
  | checkRepeat (phys fault : Nat)
  | thirdComputation (phys fault : Nat)
  | gather (ring : Nat)
  | scatter (ring : Nat)
  | routedScatter (ring : Nat)
  | routePlacement (first : Nat)
  | reduce (ring : Nat)
  | nmeGroupUpdate (mdie : Nat)
  | fill (ring : Nat)
  | copy (ring : Nat)
  | permuteMove
  | permuteActivate
  | permuteAdopt
  | fenceBarrier (ring : Nat)
  | fenceMoult
  | fencePark
  | txnBegin
  | txnEnd (ring : Nat)
  | cleanSend
  | commit
  | lifelineDrainEnd (host : Bool)
  | mirrorRecordCopy
  | fencePeerWaitExpiry
  | stepAbortSend
  | strandedRejoin
  | lifelineRestore
  | lifelineHostDrain
  | mark (ring : Nat)
  | wait (ring : Nat)
  | signal (ring : Nat)
  | bar2Read (tag addr len : Nat) (tlp : Tlp)
  | bar2Write (addr : Nat) (bytes : List Byte) (tlp : Tlp)
  | confirmationRead (mdie : Nat) (agrees : Bool)
  | rowRepair (mdie : Nat)
  | granuleRetirement
  | scrubRead (mdie upset : Nat) (strike : Option Strike)
  | mergeEntryIdle (mdie sector : Nat)
  | frameReceive (port : Nat) (bytes : List Byte)
  | nakRepeatTimer (port : Nat)
  | replayTimeout (port : Nat)
  | widthRequest (port width group seq : Nat)
  | widthAccept (port width group seq : Nat)
  | widthRequestTimeout (port : Nat)
  | portLinkDown (port cause : Nat)
  | portRetrain (port : Nat)
  | linkUp (port : Nat) (t : Trained)
  | trainingRetryTimer (port : Nat) (found : Option Trained)
  | ack (m : Rx)
  | ackSend (peer : Nat)
  | ackTimeout (peer cls : Nat)
  | peerSilenceTimeout (peer : Nat)
  | probeTimeout (peer : Nat)
  | probe (m : Rx)
  | helloTimer
  | hello (m : Rx)
  | welcome (m : Rx)
  | refuse (m : Rx)
  | leave (m : Rx)
  | state (m : Rx)
  | retraction (m : Rx)
  | rsum (m : Rx)
  | result (m : Rx)
  | rerunReq (m : Rx)
  | rerun (m : Rx)
  | gatherReq (m : Rx)
  | gatherReply (peer : Nat)
  | gatherData (m : Rx)
  | scatterData (m : Rx)
  | shardRefuse (m : Rx)
  | permuteData (m : Rx)
  | permuteDone (m : Rx)
  | routeCount (m : Rx)
  | routePlace (m : Rx)
  | routeData (m : Rx)
  | clean (m : Rx)
  | committing (m : Rx)
  | stepAbortMsg (m : Rx)
  | retractDone (m : Rx)
  | llBegin (m : Rx)
  | llData (m : Rx)
  | llEnd (m : Rx)
  | llFetch (m : Rx)
  | llNone (m : Rx)
  | mgmtMctp (m : Rx)
  | moduleReadCompletion (tag : Nat) (bytes : List Byte) (tlp : Tlp)
  | completionTimeout (tag : Nat)
  | mbxSend (val : Nat)
  | mbxAck
  | entdaa (addr : Nat)
  | setEndpointId (p : Path) (op eid : Nat)
  | getEndpointId (p : Path)
  | getEndpointUuid (p : Path)
  | getMctpVersionSupport (p : Path) (typ : Nat)
  | getMessageTypeSupport (p : Path)
  | getTid (p : Path)
  | setTid (p : Path) (tid : Nat)
  | getPldmVersion (p : Path) (typ : Nat)
  | getPldmTypes (p : Path)
  | getPldmCommands (p : Path) (typ : Nat)
  | getPdrRepositoryInfo (p : Path)
  | getPdr (p : Path) (handle : Nat)
  | getSensorReading (p : Path) (sensor : Nat)
  | getStateSensorReadings (p : Path) (sensor : Nat)
  | setNumericEffecterValue (p : Path) (effecter val : Nat)
  | getNumericEffecterValue (p : Path) (effecter : Nat)
  | setEventReceiver (p : Path) (mode eid : Nat)
  | queryDeviceIdentifiers (p : Path)
  | getFirmwareParameters (p : Path)
  | requestUpdate (p : Path) (maxSize components : Nat)
  | passComponentTable (p : Path) (comp flag : Nat)
  | updateComponent (p : Path) (comp size : Nat)
  | requestFirmwareData (p : Path) (data : List Byte)
  | transferComplete (p : Path)
  | verifyComplete (p : Path)
  | applyComplete (p : Path)
  | activateFirmware (p : Path) (selfContained : Bool)
  | getStatus (p : Path)
  | cancelUpdateComponent (p : Path)
  | cancelUpdate (p : Path)
  | keyRecord (p : Path) (bytes : List Byte)
  | debugChallenge (p : Path)
  | debugToken (p : Path) (bytes : List Byte)
  | debugRelock (p : Option Path)
  | peerAttest (p : Path) (body : List Byte)
  | readFlashRecords (p : Path)
  | spdmGetVersion (p : Path)
  | spdmGetCapabilities (p : Path) (req : List Byte)
  | spdmNegotiateAlgorithms (p : Path) (req : List Byte)
  | spdmGetDigests (p : Path)
  | spdmGetCertificate (p : Path) (slot off len : Nat)
  | spdmChallenge (p : Path) (req : List Byte)
  | spdmGetMeasurements (p : Path) (req : List Byte)
  | spdmKeyExchange (p : Path) (req : List Byte)
  | spdmFinish (p : Path) (req : List Byte)
  | spdmEndSession (p : Path) (sid : Nat)
  | spdmHeartbeat (p : Path) (sid : Nat)
  | spdmKeyUpdate (p : Path) (sid op tag : Nat)
  | spdmChunkSend (p : Path) (req : List Byte)
  | spdmChunkGet (p : Path) (handle seq : Nat)
  | spdmVendorDefinedRequest (p : Path) (sid : Nat) (req : List Byte)
  | spdmRespondIfReady (p : Path) (code token : Nat)
  | inputOutsideInRangeBand (main : Bool) (cv : Nat)
  | busMasterEnable (on : Bool) (c : HostConfig)
  | doeDiscovery (index : Nat)
deriving DecidableEq, Repr

end Sys2Proof
end

