-- ==== Sys2Proof/Decode.lean ====
section
/-! DEFINITION. Decode.lean: the module is a block and its command table gives no row any bits, so no word spells a command. -/
namespace Sys2Proof

/-- The command that a word of the opcode table spells: none, as spec/opcode_table.json gives no row a field. -/
def decodeTableWord (_nbits _w : Nat) : Option Instr := none

end Sys2Proof
end

