-- ==== Sys2Proof/Machine/Bits.lean ====
section
/-! DEFINITION. Bits.lean: byte order (R7), bit slices (R6), counters that stop at their limit, and the
indexed tables (`Tab`) in which the state holds its repeated units. -/
namespace Sys2Proof.Machine
open Sys2Proof

/-- Bit `i` of `n`, as a truth value. -/
def bitAt (n i : Nat) : Bool := n.testBit i

/-- `n[hi:lo]` of R6. -/
def slice (n hi lo : Nat) : Nat := (n / 2 ^ lo) % 2 ^ (hi + 1 - lo)

/-- A truth value as a bit. -/
def b2n (b : Bool) : Nat := if b then 1 else 0

/-- Little-endian value of a byte string (R7). -/
def leNat : List Byte → Nat
  | [] => 0
  | b :: bs => b.toNat + 256 * leNat bs

/-- The `k` little-endian bytes of `n` (R7). -/
def natLE : Nat → Nat → List Byte
  | 0, _ => []
  | k + 1, n => BitVec.ofNat 8 n :: natLE k (n / 256)

/-- `k` zero bytes. -/
def zeros (k : Nat) : List Byte := List.replicate k 0

/-- Byte `i` of a byte string; 0 beyond its end. -/
def byteAt (bs : List Byte) (i : Nat) : Nat := ((bs.drop i).headD 0).toNat

/-- The little-endian field of `k` bytes at byte `i`. -/
def field (bs : List Byte) (i k : Nat) : Nat := leNat ((bs.drop i).take k)

/-- `k` bytes from byte `i`, padded with zero bytes. -/
def sub (bs : List Byte) (i k : Nat) : List Byte :=
  let t := (bs.drop i).take k
  t ++ zeros (k - t.length)

/-- Pads a byte string with zero bytes to a multiple of `m`. -/
def padTo (m : Nat) (bs : List Byte) : List Byte := bs ++ zeros ((m - bs.length % m) % m)

/-- Value of an `n`-bit two's complement code. -/
def sext (n w : Nat) : Int := if w % 2 ^ n < 2 ^ (n - 1) then ((w % 2 ^ n : Nat) : Int) else ((w % 2 ^ n : Nat) : Int) - 2 ^ n

/-- The `n`-bit two's complement code of an integer, taken modulo `2 ^ n`. -/
def toCode (n : Nat) (z : Int) : Nat := (z % (2 ^ n : Int)).toNat

/-- `ceil (a ÷ b)`. -/
def ceilDiv (a b : Nat) : Nat := (a + b - 1) / b

/-- A counter of `w` bits that stops at its largest value. -/
def satAdd (w c n : Nat) : Nat := min (c + n) (2 ^ w - 1)

/-- Xor of two naturals. -/
def xorN (a b : Nat) : Nat := a ^^^ b

/-! ### Tables -/

/-- A table of units: index and record, indexes strictly rising. An index that is not listed holds its reset record. -/
abbrev Tab (α : Type) := List (Nat × α)

/-- The record of unit `i`, `d` being the reset record. -/
def tget {α : Type} (d : α) : Tab α → Nat → α
  | [], _ => d
  | (j, v) :: t, i => if j = i then v else tget d t i

/-- The record at an index, where the table has one. -/
def tlook {α : Type} (t : Tab α) (i : Nat) : Option α := (t.find? fun e => e.1 == i).map (·.2)

/-- The table with the record of unit `i` replaced. -/
def tset {α : Type} : Tab α → Nat → α → Tab α
  | [], i, a => [(i, a)]
  | (j, v) :: t, i, a =>
    if i < j then (i, a) :: (j, v) :: t
    else if i = j then (i, a) :: t
    else (j, v) :: tset t i a

/-- The table with the record of unit `i` changed by `f`. -/
def tmod {α : Type} (d : α) (t : Tab α) (i : Nat) (f : α → α) : Tab α := tset t i (f (tget d t i))

/-- The table without unit `i`, which then holds its reset record. -/
def tdel {α : Type} : Tab α → Nat → Tab α
  | [], _ => []
  | (j, v) :: t, i => if j = i then t else (j, v) :: tdel t i

/-- A table lists its indexes strictly rising. -/
def tabOk {α : Type} : Tab α → Bool
  | [] => true
  | [_] => true
  | (i, _) :: (j, v) :: t => decide (i < j) && tabOk ((j, v) :: t)

end Sys2Proof.Machine
end

