-- ==== Sys2Proof/Machine/Num.lean ====
section
/-! DEFINITION. Num.lean: exact values, the number formats of the chapter Number formats and rounding (R66 to R93), rounding
onto a grid, and the conversions between formats. Arithmetic is exact (R12); a value is rounded only where a rounding is named. -/
namespace Sys2Proof.Machine
open Sys2Proof

/-- An exact value with the specials of IEEE 754. `fin q` holds a nonzero rational. -/
inductive Num where
  | nan
  | inf (neg : Bool)
  | zero (neg : Bool)
  | fin (q : Rat)
deriving DecidableEq, Repr

/-- The value of an exact result `q`; a zero takes the given sign. -/
def numOf (q : Rat) (negZero : Bool := false) : Num := if q = 0 then .zero negZero else .fin q

/-- The rational value of a finite value; 0 for a special. -/
def Num.rat : Num → Rat
  | .fin q => q
  | _ => 0

/-- Sign bit of a value; NaN has none. -/
def Num.neg : Num → Bool
  | .nan => false
  | .inf n => n
  | .zero n => n
  | .fin q => decide (q < 0)

/-- Neither an infinity nor a NaN. -/
def Num.finite : Num → Bool
  | .nan => false
  | .inf _ => false
  | _ => true

/-- An infinity. -/
def Num.isInf : Num → Bool
  | .inf _ => true
  | _ => false

/-- `2 ^ e` for any integer `e`, exactly. -/
def pow2 (e : Int) : Rat :=
  match e with
  | .ofNat n => (2 ^ n : Nat)
  | .negSucc n => 1 / ((2 ^ (n + 1) : Nat) : Rat)

/-- `floor (log2 x)` of a positive rational. -/
def floorLog2 (x : Rat) : Int :=
  let k : Int := (Nat.log2 x.num.natAbs : Int) - (Nat.log2 x.den : Int)
  if pow2 k ≤ x then k else k - 1

/-- `ceil (log2 x)` of a positive rational. -/
def ceilLog2 (x : Rat) : Int :=
  let k := floorLog2 x
  if pow2 k = x then k else k + 1

/-- Absolute value. -/
def rabs (x : Rat) : Rat := if x < 0 then -x else x

/-- The floating formats of the table Format parameters (R66). S8 has no sign. -/
inductive Fmt where
  | f4 | f8e4 | f8e5 | b16 | w32 | s8
deriving DecidableEq, Repr

/-- Fraction field width `m`. -/
def fracBits : Fmt → Nat
  | .f4 => 1 | .f8e4 => 3 | .f8e5 => 2 | .b16 => 7 | .w32 => 23 | .s8 => 3

/-- Exponent field width. -/
def expBits : Fmt → Nat
  | .f4 => 2 | .f8e4 => 4 | .f8e5 => 5 | .b16 => 8 | .w32 => 8 | .s8 => 4

/-- Exponent bias. -/
def bias : Fmt → Int
  | .f4 => 1 | .f8e4 => 7 | .f8e5 => 15 | .b16 => 127 | .w32 => 127 | .s8 => 7

/-- Significand bits `p`. -/
def sigBits (f : Fmt) : Nat := fracBits f + 1

/-- Smallest exponent `emin`. -/
def emin (f : Fmt) : Int := 1 - bias f

/-- Largest finite value. -/
def maxFinite : Fmt → Rat
  | .f4 => 6
  | .f8e4 => 448
  | .f8e5 => 57344
  | .b16 => (2 - pow2 (-7)) * pow2 127
  | .w32 => (2 - pow2 (-23)) * pow2 127
  | .s8 => 448

/-- The code of the canonical NaN (R78): 0x7FC0 in B16, 0x7FC0_0000 in W32, 0x7F in F8E4, 0x7E in F8E5; F4 and S8 have none. -/
def nanCode : Fmt → Nat
  | .f4 => 0
  | .f8e4 => 0x7F
  | .f8e5 => 0x7E
  | .b16 => 0x7FC0
  | .w32 => 0x7FC00000
  | .s8 => 0xFF

/-- Formats with infinities (R76, R77, R81). -/
def hasInf : Fmt → Bool
  | .f8e5 | .b16 | .w32 => true
  | _ => false

/-- The value of a code (R66, R69, R75, R76, R77, R81). -/
def decodeF (f : Fmt) (code : Nat) : Num :=
  let m := fracBits f
  let w := expBits f
  let frac := slice code (m - 1) 0
  let e := slice code (m + w - 1) m
  let neg := f != .s8 && bitAt code (m + w)
  if hasInf f && e == 2 ^ w - 1 then (if frac = 0 then .inf neg else .nan)
  else if f = .f8e4 && e == 15 && frac == 7 then .nan
  else
    let mag : Rat :=
      if e = 0 then pow2 (emin f) * ((frac : Nat) : Rat) / ((2 ^ m : Nat) : Rat)
      else pow2 ((e : Int) - bias f) * (1 + ((frac : Nat) : Rat) / ((2 ^ m : Nat) : Rat))
    numOf (if neg then -mag else mag) neg

/-- The code of a value on the grid of the format (R66, R78). -/
def encodeF (f : Fmt) (x : Num) : Nat :=
  let m := fracBits f
  let w := expBits f
  let sgn (b : Bool) : Nat := if b then 2 ^ (m + w) else 0
  match x with
  | .nan => nanCode f
  | .inf n => if hasInf f then sgn n + (2 ^ w - 1) * 2 ^ m else nanCode f
  | .zero n => sgn n
  | .fin q =>
    let a := rabs q
    let e := floorLog2 a
    if e < emin f then sgn (decide (q < 0)) + (a / pow2 (emin f - (m : Int))).floor.toNat
    else sgn (decide (q < 0)) + (e + bias f).toNat * 2 ^ m + ((a / pow2 (e - (m : Int))).floor.toNat - 2 ^ m)

/-- A rounding mode: nearest even, or stochastic with its 16-bit draw `u` (R84, R85). -/
structure Rnd where
  stoch : Bool
  u : Nat
deriving DecidableEq, Repr

/-- Round to nearest, ties to even. -/
def rne : Rnd := ⟨false, 0⟩

/-- The two overflow modes (R88). -/
inductive Ovf where
  | sat | ieee
deriving DecidableEq, Repr

/-- procedure quantum (R84). -/
def quantum (f : Fmt) (x : Rat) : Rat :=
  let e := if x ≠ 0 ∧ emin f < floorLog2 (rabs x) then floorLog2 (rabs x) else emin f
  pow2 (e - (sigBits f : Int) + 1)

/-- Body of procedure round_grid for a given quantum `q` (R84, and R87 with `q` = 1). -/
def roundTo (q : Rat) (r : Rnd) (x : Rat) : Rat :=
  if x = 0 then x
  else
    let n := (x / q).floor
    let d := x / q - n
    if d = 0 then x
    else if r.stoch then
      let t := (d * 65536).floor.toNat
      if 65536 ≤ t + r.u then (n + 1) * q else n * q
    else if 1 / 2 < d ∨ (d = 1 / 2 ∧ n % 2 = 1) then (n + 1) * q
    else n * q

/-- procedure round_grid (R84). -/
def roundGrid (f : Fmt) (r : Rnd) (x : Rat) : Rat := roundTo (quantum f x) r x

/-- round_int (R87): the nearest integer, ties to even. -/
def roundInt (x : Rat) : Int := (roundTo 1 rne x).floor

/-- Integer rounding under a mode (R87). -/
def roundIntR (r : Rnd) (x : Rat) : Int := (roundTo 1 r x).floor

/-- A rounded result and whether it counts one saturation event (R88, R89). -/
structure Rounded where
  val : Num
  sat : Bool
deriving DecidableEq, Repr

/-- `round(x, f)` of R92: round_grid under the rounding mode, then R88 under the overflow mode; R86 gives a zero its sign and
R93 gives the non-finite inputs. A NaN or an infinity to F4 or S8 has no element code of its own (R93) and stays as it is. -/
def roundF (f : Fmt) (r : Rnd) (ov : Ovf) (x : Num) : Rounded :=
  match x with
  | .nan => ⟨.nan, false⟩
  | .inf n => ⟨if f = .f8e4 then .nan else .inf n, false⟩
  | .zero n => ⟨.zero n, false⟩
  | .fin q =>
    match ov with
    | .sat =>
      if maxFinite f < rabs q then ⟨.fin (if q < 0 then -maxFinite f else maxFinite f), true⟩
      else ⟨numOf (roundGrid f r q) (decide (q < 0)), false⟩
    | .ieee =>
      let g := roundGrid f r q
      if maxFinite f < rabs g then ⟨if f = .f8e4 then .nan else .inf (decide (q < 0)), false⟩
      else ⟨numOf g (decide (q < 0)), false⟩

/-- `round(x, W32, rne, ieee)`. -/
def w32 (x : Num) : Num := (roundF .w32 rne .ieee x).val

/-- `round(x, B16, rne, ieee)`. -/
def b16 (x : Num) : Num := (roundF .b16 rne .ieee x).val

/-! ### Exact operations with the specials of IEEE 754 (R139) -/

/-- Exact sum: a NaN, or infinities of both signs, give a NaN; two zeros of one sign keep it and every other zero sum is +0. -/
def Num.add : Num → Num → Num
  | .nan, _ => .nan
  | _, .nan => .nan
  | .inf a, .inf b => if a = b then .inf a else .nan
  | .inf a, _ => .inf a
  | _, .inf b => .inf b
  | .zero a, .zero b => .zero (a && b)
  | .zero _, y => y
  | x, .zero _ => x
  | .fin a, .fin b => numOf (a + b)

/-- Negation; a NaN stays canonical. -/
def Num.negate : Num → Num
  | .nan => .nan
  | .inf a => .inf (!a)
  | .zero a => .zero (!a)
  | .fin q => .fin (-q)

/-- Exact difference. -/
def Num.sub (x y : Num) : Num := x.add y.negate

/-- Exact product: infinity times zero is a NaN (R139). -/
def Num.mul : Num → Num → Num
  | .nan, _ => .nan
  | _, .nan => .nan
  | .inf _, .zero _ => .nan
  | .zero _, .inf _ => .nan
  | .inf a, y => .inf (a != y.neg)
  | x, .inf b => .inf (x.neg != b)
  | .zero a, y => .zero (a != y.neg)
  | x, .zero b => .zero (x.neg != b)
  | .fin a, .fin b => numOf (a * b)

/-- Exact quotient, with the specials of IEEE 754. -/
def Num.div : Num → Num → Num
  | .nan, _ => .nan
  | _, .nan => .nan
  | .inf _, .inf _ => .nan
  | .zero _, .zero _ => .nan
  | .inf a, y => .inf (a != y.neg)
  | x, .inf b => .zero (x.neg != b)
  | x, .zero b => .inf (x.neg != b)
  | .zero a, y => .zero (a != y.neg)
  | .fin a, .fin b => numOf (a / b)

/-- Product with a power of two, exactly. -/
def Num.scale2 (x : Num) (e : Int) : Num :=
  match x with
  | .fin q => numOf (q * pow2 e)
  | y => y

/-- Magnitude. -/
def Num.abs : Num → Num
  | .nan => .nan
  | .inf _ => .inf false
  | .zero _ => .zero false
  | .fin q => .fin (rabs q)

/-- The rank of a value on the line −∞ < finite < +∞ with −0 below +0: `cmp a b` is the sign of a − b. NaN is not ranked. -/
def Num.lt (x y : Num) : Bool :=
  match x, y with
  | .nan, _ => false
  | _, .nan => false
  | .inf a, .inf b => a && !b
  | .inf a, _ => a
  | _, .inf b => !b
  | .zero _, .zero _ => false
  | .zero _, .fin q => decide (0 < q)
  | .fin q, .zero _ => decide (q < 0)
  | .fin a, .fin b => decide (a < b)

/-- Equality of values: +0 equals −0, a NaN equals nothing. -/
def Num.eqv (x y : Num) : Bool :=
  match x, y with
  | .nan, _ => false
  | _, .nan => false
  | .zero _, .zero _ => true
  | a, b => decide (a = b)

/-! ### B16P pairs (R79, R80) -/

/-- A stored compensated pair: the codes of its high and low words. -/
structure Pair where
  hi : Nat
  lo : Nat
deriving DecidableEq, Repr

/-- The value of a pair (R79). -/
def pairVal (p : Pair) : Num :=
  let h := decodeF .b16 p.hi
  let l := decodeF .b16 p.lo
  if !h.finite then h else if !l.finite then .nan else h.add l

/-- procedure to_b16p, the low word rounded under `r` (R92); the table Non-finite inputs gives the specials (R93). -/
def toPair (r : Rnd) (x : Num) : Pair :=
  match x with
  | .nan => ⟨nanCode .b16, 0⟩
  | .inf n => ⟨encodeF .b16 (.inf n), 0⟩
  | y =>
    let hi := b16 y
    match hi with
    | .inf n => ⟨encodeF .b16 (.inf n), 0⟩
    | h => ⟨encodeF .b16 h, encodeF .b16 (roundF .b16 r .ieee (y.sub h)).val⟩

/-- The four bytes of a pair: bytes 0–1 the high word, bytes 2–3 the low word (R79). -/
def pairBytes (p : Pair) : List Byte := natLE 2 p.hi ++ natLE 2 p.lo

/-- A pair read from four bytes. -/
def pairOf (bs : List Byte) (i : Nat) : Pair := ⟨field bs i 2, field bs (i + 2) 2⟩

/-- The canonical form of R80: the high word is the nearest-even rounding of the value; a non-finite high word has low word 0. -/
def pairCanonical (p : Pair) : Bool :=
  let v := pairVal p
  if !(decodeF .b16 p.hi).finite then p.lo == 0 && (p.hi == nanCode .b16 || p.hi == 0x7F80 || p.hi == 0xFF80)
  else (decodeF .b16 p.hi).eqv (b16 v) || (v.eqv (.zero false) && (decodeF .b16 p.hi).eqv (.zero false))

/-! ### S8 and panel scales (R71, R74) -/

/-- Codes 0x7F and 0x80–0xFF are invalid (R71). -/
def s8Invalid (c : Nat) : Bool := decide (0x7F ≤ c)

/-- Value of a valid S8 code; 0 for the zero block (R71). -/
def s8Val (c : Nat) : Rat := (decodeF .s8 c).rat

/-- A panel scale is valid when it is positive, finite and normal (R74). -/
def panelScaleOk (c : Nat) : Bool :=
  !bitAt c 15 && decide (1 ≤ slice c 14 7) && decide (slice c 14 7 ≤ 254)

/-! ### Rounding a real number known by comparisons -/

/-- Rounds a positive real `v` onto W32 to nearest-even: `approx` lies close to `v`, and `le r` says whether `r ≤ v`,
`ge r` whether `v ≤ r`. Used for square roots and reciprocals, whose exact values are irrational. -/
def roundRealW32 (approx : Rat) (le ge : Rat → Bool) : Num :=
  let q := quantum .w32 approx
  let n0 := (approx / q).floor
  let n1 := if le ((n0 + 1) * q) then n0 + 1 else n0
  let n := if le (n1 * q) then n1 else n1 - 1
  let mid : Rat := (n + 1 / 2) * q
  let up := if le mid then (if ge mid then decide (n % 2 = 1) else true) else false
  let g : Rat := if up then (n + 1) * q else n * q
  if maxFinite .w32 < g then .inf false else numOf g

/-- `floor (sqrt n)` by Newton steps from above. -/
def isqrtLoop (n : Nat) : Nat → Nat → Nat
  | 0, x => x
  | k + 1, x =>
    let y := (x + n / x) / 2
    if y < x then isqrtLoop n k y else x

/-- Integer square root. -/
def isqrt (n : Nat) : Nat := if n = 0 then 0 else isqrtLoop n (Nat.log2 n + 8) (2 ^ (Nat.log2 n / 2 + 1))

/-- A rational close to the square root of a positive rational, from above 160 significant bits. -/
def sqrtApprox (x : Rat) : Rat :=
  let k : Int := 200 - floorLog2 x / 2
  ((isqrt (x * pow2 (2 * k)).floor.toNat : Nat) : Rat) / pow2 k

/-- Correctly rounded square root of a positive rational. -/
def sqrtW32 (x : Rat) : Num :=
  roundRealW32 (sqrtApprox x) (fun r => r ≤ 0 || r * r ≤ x) (fun r => 0 ≤ r && x ≤ r * r)

/-- Correctly rounded `1 ÷ (√x + e)` for rationals with `0 ≤ x`, `0 ≤ e` and a positive denominator. -/
def rsqrtPlusW32 (x e : Rat) : Num :=
  let s := if x = 0 then 0 else sqrtApprox x
  roundRealW32 (1 / (s + e)) (fun r => r ≤ 0 || (let t := 1 / r - e; 0 ≤ t && x ≤ t * t))
    (fun r => 0 < r && (let t := 1 / r - e; t < 0 || t * t ≤ x))

end Sys2Proof.Machine
end

