-- ==== Sys2Proof/Machine/Pat.lean ====
section
/-! DEFINITION. Pat.lean: the structure a loaded pattern gives the module, as data (R365 to R377). -/
namespace Sys2Proof.Machine
open Sys2Proof

/-- The seven targets of the cast path (R94); the format codes are those of the table Panel header (R124). -/
inductive Target where
  | f4 | f8e4 | f8e5 | i4 | i8 | l4 | b16
deriving DecidableEq, Repr

/-- Format code of a target (R124). -/
def Target.code : Target → Nat
  | .f4 => 1 | .f8e4 => 2 | .f8e5 => 3 | .i4 => 4 | .i8 => 5 | .l4 => 6 | .b16 => 7

/-- Target of a format code; none outside 0x01–0x07 (R124). -/
def Target.ofCode : Nat → Option Target
  | 1 => some .f4 | 2 => some .f8e4 | 3 => some .f8e5 | 4 => some .i4 | 5 => some .i8 | 6 => some .l4 | 7 => some .b16
  | _ => none

/-- A cast profile (R99, R134, R373). -/
structure Profile where
  target : Target
  fallback : Target          -- fallback_f8: F8E4 or F8E5
  scaleUnit : Bool
  scaleNearest : Bool
  symmetric : Bool
  rotJob : Bool
  satStrict : Bool
  compensated : Bool
  rescale : Bool
  outPair : Bool             -- out_format B16P
  clip8 : Nat                -- clip in eighths: 8, 7, 6, 5, 4
  rotN : Nat                 -- 0, 16, 32, 64, 128
  theta : Nat                -- 0 off, 4, 8, 16, 32, 64
  budget : Nat               -- b_o
  runBlocks : Nat            -- g, 1–8
  outScaleExp : Int
  rounding : Nat             -- 0 default, 1 RNE, 2 SR
  overflow : Nat             -- 0 default, 1 sat, 2 ieee
  outSR : Bool
  satLimit : Nat
  crushLimit : Option Nat    -- none: off
  l4 : List Nat              -- 16 B16 codes
deriving DecidableEq, Repr

/-- One stage of a stream graph (R167, R374). -/
structure Stage where
  op : Nat
  inA : Nat
  inB : Nat
  inC : Nat
  sat : Bool
  sr : Bool
  ieee : Bool
  port : Nat
  format : Nat
  profile : Nat
  imm : Int
deriving DecidableEq, Repr

/-- A stream graph (R166, R374). -/
structure Graph where
  readFmts : List Nat        -- ports 0–4; 0xFE the record's own format, 0xFF unused
  writePorts : Nat
  rowUsed : Bool
  colUsed : Bool
  constInt : Nat             -- bit c: constant c is int32
  rowFmt : Nat
  colFmt : Nat
  consts : List Nat          -- eight 32-bit words
  stages : List Stage
deriving DecidableEq, Repr

/-- A colony (R25, R370): its profiles and graphs by index. -/
structure Colony where
  profiles : Tab Profile
  graphs : Tab Graph
deriving DecidableEq, Repr

/-- A tile map record (R369), after faults have been applied at the load (order 5 of the table Load). -/
structure TileBind where
  phys : Nat
  first : Nat                -- first-choice understudy
  colony : Option Nat
deriving DecidableEq, Repr

/-- A tile partition record (R371), sizes in units of 64 KiB. -/
structure Partition where
  size : Nat
  headroom : Nat
  regionBase : Nat
  regionLen : Nat
  ftArea : Nat               -- finished-tile area, in units of 64 KiB
deriving DecidableEq, Repr

/-- The writer of an epoch-buffered region (R56, R372). -/
structure Writer where
  nme : Bool
  colony : Nat
deriving DecidableEq, Repr

/-- An epoch-buffered region (R220, R372). -/
structure Region where
  copy0 : Nat
  copy1 : Nat
  len : Nat
  writer : Writer
deriving DecidableEq, Repr

/-- A member record of the fabric plan (R375). -/
structure Member where
  buddy : Nat
  llAddr : Nat
  llLen : Nat
deriving DecidableEq, Repr

/-- A chain (R310, R375): its rails, each an ordering of the members. -/
structure Chain where
  number : Nat
  rails : List (List Nat)
deriving DecidableEq, Repr

/-- A shard entry (R297). -/
structure Shard where
  tensor : Nat
  shard : Nat
  owner : Nat
  valid : Bool
  epoch : Bool
  addr : Nat
  len : Nat
  version : Nat
deriving DecidableEq, Repr

/-- The policies section (R213, R332, R364, R377). -/
structure Policy where
  reportAbort : Bool
  stormS : Nat
  stormSteps : Nat
  sumTol : Nat
  checkFraction : Nat
  withdrawW : Nat
  microBatches : Nat
  rerunLimit : Nat
  hostInterval : Nat         -- 0 off, else steps
  riskTable : List Nat       -- k for each of 16 entries
deriving DecidableEq, Repr

/-- A section of a container: its record count, its offset and its bytes (R366); a section that a moult kept stands at offset 0. -/
structure Sect where
  count : Nat
  off : Nat
  bytes : List Byte
deriving DecidableEq, Repr

/-- A load or a moult in progress before its order 6 (R378, R382, R383). -/
structure Loading where
  load : Bool                -- a load; else a moult
  uid : Nat                  -- the FENCE of a moult
  base : Nat                 -- container address and own address, sampled at the start
  addr : Nat
  back : Nat                 -- code of the state left
  ovr : Bool                -- abandoned; the module is on its way to HOLD
deriving DecidableEq, Repr

/-- The structure of a loaded pattern. -/
structure Pattern where
  jobId : Nat
  jobSeed : Nat
  digest : List Byte         -- 64 bytes (R368)
  tiles : List TileBind      -- 96
  colonies : Tab Colony      -- the defined colonies
  parts : List Partition     -- 96
  cacheSteps : List Nat      -- 8
  rlogBase : Nat
  rlogSize : Nat
  regions : List Region
  anchor : Nat
  members : List Member
  mappedOut : List Nat       -- addresses the plan maps out
  chains : List Chain
  routes : List (List Nat)   -- by peer: 1–4 ports; own entry empty
  policy : Policy
deriving DecidableEq, Repr

end Sys2Proof.Machine
end

