-- ==== Sys2Proof/Machine/Shake.lean ====
section
/-! DEFINITION. Shake.lean: SHAKE256 of NIST FIPS 202, the hash of every digest of the module (00_scope, Standards; R52, R152,
R347, R348, R367, R489). The manual names the standard and gives no rounds: they are the standard's (log entry 2). -/
namespace Sys2Proof.Machine
open Sys2Proof

/-- 64-bit rotation to the left. -/
def rotl (x n : Nat) : Nat := if n = 0 then x else ((x <<< n) % 2 ^ 64) ||| (x >>> (64 - n))

/-- Lane `i` of a Keccak state. -/
def lane (a : List Nat) (i : Nat) : Nat := a.getD i 0

/-- Round constants of Keccak-f[1600]. -/
def keccakRC : List Nat :=
  [0x0000000000000001, 0x0000000000008082, 0x800000000000808A, 0x8000000080008000, 0x000000000000808B, 0x0000000080000001,
   0x8000000080008081, 0x8000000000008009, 0x000000000000008A, 0x0000000000000088, 0x0000000080008009, 0x000000008000000A] ++
  [0x000000008000808B, 0x800000000000008B, 0x8000000000008089, 0x8000000000008003, 0x8000000000008002, 0x8000000000000080,
   0x000000000000800A, 0x800000008000000A, 0x8000000080008081, 0x8000000000008080, 0x0000000080000001, 0x8000000080008008]

/-- Rotation offsets, by lane index x + 5y. -/
def keccakRot : List Nat := [0, 1, 62, 28, 27, 36, 44, 6, 55, 20, 3, 10, 43, 25, 39, 41, 45, 15, 21, 8, 18, 2, 61, 56, 14]

/-- One round: theta, rho, pi, chi, iota. -/
def keccakRound (a : List Nat) (rc : Nat) : List Nat :=
  let c := (List.range 5).map fun x => lane a x ^^^ lane a (x + 5) ^^^ lane a (x + 10) ^^^ lane a (x + 15) ^^^ lane a (x + 20)
  let d := (List.range 5).map fun x => lane c ((x + 4) % 5) ^^^ rotl (lane c ((x + 1) % 5)) 1
  let t := (List.range 25).map fun i => rotl (lane a i ^^^ lane d (i % 5)) (lane keccakRot i)
  let b := (List.range 25).map fun i =>
    let x := i % 5
    let y := i / 5
    lane t (((x + 3 * y) % 5) + 5 * x)
  let e := (List.range 25).map fun i =>
    let x := i % 5
    let y := i / 5
    lane b i ^^^ ((lane b ((x + 1) % 5 + 5 * y) ^^^ (2 ^ 64 - 1)) &&& lane b ((x + 2) % 5 + 5 * y))
  match e with
  | [] => []
  | h :: r => (h ^^^ rc) :: r

/-- Keccak-f[1600]. -/
def keccakF (a : List Nat) : List Nat := keccakRC.foldl keccakRound a

/-- A block of 136 bytes as lanes, the other lanes zero. -/
def blockLanes (bs : List Byte) : List Nat := (List.range 25).map fun i => if i < 17 then field bs (8 * i) 8 else 0

/-- Absorbs whole blocks; the fuel bounds their number. -/
def absorb : Nat → List Nat → List Byte → List Nat
  | 0, a, _ => a
  | k + 1, a, bs =>
    if bs.length < 136 then
      let last := bs ++ [(0x1F : Byte)] ++ zeros (135 - bs.length)
      let m := blockLanes last
      let m := (List.range 25).map fun i => if i = 16 then lane m 16 ^^^ (0x80 <<< 56) else lane m i
      keccakF ((List.range 25).map fun i => lane a i ^^^ lane m i)
    else
      let m := blockLanes (bs.take 136)
      absorb k (keccakF ((List.range 25).map fun i => lane a i ^^^ lane m i)) (bs.drop 136)

/-- Squeezes `n` blocks. -/
def squeeze : Nat → List Nat → List Byte
  | 0, _ => []
  | k + 1, a => ((List.range 17).map fun i => natLE 8 (lane a i)).flatten ++ squeeze k (keccakF a)

/-- The first `n` bytes of SHAKE256 of a byte string. -/
def shake256 (bs : List Byte) (n : Nat) : List Byte :=
  (squeeze (ceilDiv n 136) (absorb (bs.length / 136 + 1) (List.replicate 25 0) bs)).take n

end Sys2Proof.Machine
end

