-- ==== Sys2Proof/Machine/Rng.lean ====
section
/-! DEFINITION. Rng.lean: the step seed and every seeded choice of a step (R52, R101, R178, R179, R202, R266, R315). -/
namespace Sys2Proof.Machine
open Sys2Proof

/-- procedure mix64 (R101). -/
def mix64 (x : Nat) : Nat :=
  let x := x % 2 ^ 64
  let y := x ^^^ (x >>> 30)
  let y := (y * 0xBF58476D1CE4E5B9) % 2 ^ 64
  let y := y ^^^ (y >>> 27)
  let y := (y * 0x94D049BB133111EB) % 2 ^ 64
  y ^^^ (y >>> 31)

/-- procedure rotation_sign (R101): true for −1. -/
def rotationNeg (base key k : Nat) : Bool :=
  (mix64 ((base + mix64 (key * 2 ^ 32 + k / 64)) % 2 ^ 64)).testBit (k % 64)

/-- The step seed (R52). -/
def stepSeed (jobSeed step : Nat) : Nat := leNat (shake256 (natLE 8 jobSeed ++ natLE 8 step) 8)

/-- procedure lane_key (R178). -/
def laneKey (seed tau iota lambda : Nat) : Nat :=
  mix64 ((seed + mix64 ((lambda + 2 ^ 9 * tau + 2 ^ 16 * iota) % 2 ^ 64)) % 2 ^ 64)

/-- procedure draw (R178). -/
def drawAt (key c : Nat) : Nat := mix64 ((key + c * 0x9E3779B97F4A7C15) % 2 ^ 64)

/-- Bits [63:48] of a draw: the value u (R178). -/
def drawU (key c : Nat) : Nat := slice (drawAt key c) 63 48

/-- u of generator λ at stream σ, position π (R178, R179). -/
def tileDraw (seed tau iota lambda sigma pi : Nat) : Nat := drawU (laneKey seed tau iota lambda) (2 ^ 56 * sigma + pi)

/-- procedure nme_draw (R266). -/
def nmeDraw (seed layer e p sigma : Nat) : Nat :=
  drawU (mix64 ((seed + mix64 (2 ^ 62 + 2 ^ 8 * layer + e)) % 2 ^ 64)) (2 ^ 56 * sigma + p)

/-- procedure reduce_draw (R315). -/
def reduceDraw (seed bucket q : Nat) : Nat :=
  drawU (mix64 ((seed + mix64 (2 ^ 61 + bucket)) % 2 ^ 64)) q

/-- procedure check_selected (R202). -/
def checkSelected (seed tau iota i j a : Nat) : Bool :=
  let x := mix64 (2 ^ 7 * iota + tau)
  let y := mix64 ((seed + x + 2 ^ 16 * i + j) % 2 ^ 64)
  a == 0 || slice y 63 (64 - a) == 0

/-- The parameter a of the table Check fraction codes; none for code 0 (R202). -/
def checkParam : Nat → Option Nat
  | 0 => none
  | 1 => some 6
  | 2 => some 4
  | 3 => some 2
  | 4 => some 1
  | _ => some 0

end Sys2Proof.Machine
end

