-- ==== Sys2Proof/Machine/Cast.lean ====
section
/-! DEFINITION. Cast.lean: the cast of one panel (R94 to R127), as a function of the source elements, the settings in force at
the rung, the rotation and the draws. -/
namespace Sys2Proof.Machine
open Sys2Proof

/-- A source element: its value, and whether it comes from a poisoned sector (R120). -/
structure Elem where
  v : Num
  poison : Bool
deriving DecidableEq, Repr

/-- A zero element. -/
def zeroElem : Elem := ⟨.zero false, false⟩

/-- The settings a cast runs with: the profile's fields after the overrides of its rung (R113, R185), and the target written. -/
structure CastSet where
  target : Target
  unit : Bool
  nearest : Bool
  symmetric : Bool
  clip8 : Nat
  theta : Nat
  budget : Nat
  rotN : Nat
  stoch : Bool
  ovf : Ovf
  l4 : List Nat
deriving DecidableEq, Repr

/-- Rounding and overflow of a profile's casts, resolved from the row that matches its own target (R91, R373). -/
def resolveRounding (p : Profile) : Bool × Ovf :=
  let dflt : Bool × Ovf :=
    match p.target with
    | .f4 | .i4 | .i8 | .l4 => (false, .sat)
    | .f8e4 | .f8e5 => (true, .sat)
    | .b16 => (false, .ieee)
  (if p.rounding = 1 then false else if p.rounding = 2 then true else dflt.1,
   if p.overflow = 1 then .sat else if p.overflow = 2 then .ieee else dflt.2)

/-- The targets of a profile by width 0, 1, 2 (table Widths by target, R184). -/
def widths (p : Profile) : List Target :=
  match p.target with
  | .f4 => [.f4, p.fallback, .b16]
  | .l4 => [.l4, p.fallback, .b16]
  | .f8e4 => [.f8e4, .b16]
  | .f8e5 => [.f8e5, .b16]
  | .i4 => [.i4, .i8]
  | .i8 => [.i8]
  | .b16 => [.b16]

/-- The settings of a profile at a rung: 0 width 0, 1 the retry rung, 2 width 1, 3 width 2 (R113, R184, R185). -/
def castSet (p : Profile) (rung : Nat) : CastSet :=
  let r := resolveRounding p
  let w := rung - 1
  let t := if rung ≤ 1 then p.target else (widths p).getD w p.target
  if rung = 0 then
    ⟨t, p.scaleUnit && (t == .f8e4 || t == .f8e5), p.scaleNearest, p.symmetric, if t == .i4 || t == .i8 || t == .b16 then 8 else p.clip8, p.theta, p.budget, p.rotN, r.1, r.2, p.l4⟩
  else if rung = 1 then
    ⟨t, false, false, p.symmetric, 8, p.theta, p.budget, p.rotN, r.1, r.2, p.l4⟩
  else
    ⟨t, false, false, p.symmetric, 8, 0, 0, p.rotN, r.1, if t = .b16 then .ieee else .sat, p.l4⟩

/-- The profile already holds the retry set (R184). -/
def holdsRetrySet (p : Profile) : Bool := p.clip8 == 8 && !p.scaleNearest && !p.scaleUnit

/-! ### Rotation (R100 to R102) -/

/-- One butterfly stage of half-length `len` over a group, with the W32 rounding after every addition. -/
def butterfly (len : Nat) (v : List Num) : List Num :=
  (List.range v.length).map fun i =>
    let a := v.getD i .nan
    if (i / len) % 2 = 0 then w32 (a.add (v.getD (i + len) .nan)) else w32 ((v.getD (i - len) .nan).sub a)

/-- The butterfly stages in order of rising length. -/
def butterflies : Nat → Nat → List Num → List Num
  | 0, _, v => v
  | k + 1, len, v => butterflies k (2 * len) (butterfly len v)

/-- procedure rotate_group (R102); `k0` is the group's first reduction position on the whole axis. -/
def rotateGroup (base key k0 : Nat) (v : List Num) : List Num :=
  let signed := v.mapIdx fun i x => if rotationNeg base key (k0 + i) then x.negate else x
  let lg := Nat.log2 v.length
  (butterflies lg 1 signed).map fun x => w32 (x.scale2 (-((lg / 2 : Nat) : Int)))

/-- Splits a list into chunks of `n`; the fuel bounds their number. -/
def chunksOf {α : Type} (n : Nat) : Nat → List α → List (List α)
  | 0, _ => []
  | k + 1, l => if l.isEmpty then [] else l.take n :: chunksOf n k (l.drop n)

/-- Rotates one group, with the marks of R120; counts the non-finite events of the stage. -/
def rotateElems (base key k0 : Nat) (g : List Elem) : List Elem × Nat :=
  if g.any (·.poison) then (g.map fun e => ⟨e.v, true⟩, 0)
  else
    let out := rotateGroup base key k0 (g.map (·.v))
    let fresh := if g.all (·.v.finite) then (out.filter fun x => !x.finite).length else 0
    (out.map fun x => ⟨x, false⟩, fresh)

/-- Rotates a row of a panel in groups of `n` (R100). -/
def rotateRow (n base key k0 : Nat) (row : List Elem) : List Elem × Nat :=
  if n = 0 then (row, 0)
  else
    let parts := (chunksOf n 8 row).mapIdx fun i g => rotateElems base key (k0 + n * i) g
    ((parts.map (·.1)).flatten, (parts.map (·.2)).sum)

/-! ### Outliers (R106 to R109) -/

/-- Magnitudes that take part in comparisons: finite and not poisoned (R106, R121). -/
def magOf (e : Elem) : Option Rat := if e.poison || !e.v.finite then none else some (rabs e.v.rat)

/-- The outlier of a block: the place of the element whose magnitude exceeds θ times the second largest, that being nonzero (R106). -/
def outlierAt (theta : Nat) (blk : List Elem) : Option Nat :=
  if theta = 0 then none
  else
    let ms := blk.map fun e => (magOf e).getD 0
    let hi := ms.foldl max 0
    let i := ms.findIdx (· == hi)
    let second := (ms.eraseIdx i).foldl max 0
    if second ≠ 0 ∧ (theta : Rat) * second < hi then some i else none

/-- A block after the outlier stage. -/
structure OBlock where
  els : List Elem
  orec : Option (Nat × Num)   -- place and B16 value of the extracted outlier
  sat : Bool
  crush : Bool
deriving DecidableEq, Repr

/-- The outlier stage over the blocks in ascending index: the first `room` outliers are extracted (R107). The second
component counts the blocks that have an outlier. -/
def extractOutliers (theta : Nat) : Nat → List (List Elem) → List OBlock × Nat
  | _, [] => ([], 0)
  | room, b :: bs =>
    match outlierAt theta b with
    | none =>
      let r := extractOutliers theta room bs
      (⟨b, none, false, false⟩ :: r.1, r.2)
    | some i =>
      if room = 0 then
        let r := extractOutliers theta 0 bs
        (⟨b, none, false, true⟩ :: r.1, r.2 + 1)
      else
        let v := roundF .b16 rne .sat (b.getD i zeroElem).v
        let r := extractOutliers theta (room - 1) bs
        (⟨b.set i zeroElem, some (i, v.val), v.sat, false⟩ :: r.1, r.2 + 1)

/-! ### Scales (R110 to R116) -/

/-- The values of an L4 table (R83). -/
def l4Vals (t : List Nat) : List Rat := t.map fun c => (decodeF .b16 c).rat

/-- The reach E of a target. -/
def reach (c : CastSet) : Rat :=
  match c.target with
  | .f4 => 6
  | .f8e4 => 448
  | .f8e5 => 57344
  | .i4 => if c.symmetric then 7 else 15
  | .i8 => if c.symmetric then 127 else 255
  | .l4 => ((l4Vals c.l4).map rabs).foldl max 0
  | .b16 => maxFinite .b16

/-- procedure panel_scale (R110), as the exponent of the power of two. -/
def panelExp (amax e : Rat) : Int :=
  if amax = 0 then 0
  else
    let t := ceilLog2 (amax / e) - 7
    if t < -126 then -126 else if 127 < t then 127 else t

/-- procedure block_scale (R111): the S8 code, and whether it counts a crush event. -/
def blockScale (m e p : Rat) (clip8 : Nat) (nearest : Bool) : Nat × Bool :=
  if m = 0 then (0, false)
  else
    let s := m * ((clip8 : Rat) / 8) / (e * p)
    if 448 < s then (0x7E, false)
    else
      let r := if nearest then roundGrid .s8 rne s else (let q := quantum .s8 s; (((-(-s / q).floor : Int) : Rat)) * q)
      if r = 0 then (0x01, true)
      else (encodeF .s8 (.fin r), decide (s < pow2 (-9)))

/-- The magnitude m of a block (R111), and the lowest value `lo` for the zero point. -/
def blockSpan (c : CastSet) (els : List Elem) : Rat × Rat :=
  let vs := els.filterMap fun e => if e.poison || !e.v.finite then none else some e.v.rat
  let hi := vs.foldl max 0
  let lo := vs.foldl min 0
  match c.target with
  | .i4 | .i8 => if c.symmetric then (max hi (-lo), lo) else (hi - lo, lo)
  | _ => (max hi (-lo), lo)

/-- Integer target? -/
def Target.isInt : Target → Bool
  | .i4 | .i8 => true
  | _ => false

/-- Element bits of a target. -/
def Target.bits : Target → Nat
  | .f4 | .i4 | .l4 => 4
  | .f8e4 | .f8e5 | .i8 => 8
  | .b16 => 16

/-- The floating format of a target's elements; B16 for the targets that have none. -/
def Target.fmt : Target → Fmt
  | .f4 => .f4 | .f8e4 => .f8e4 | .f8e5 => .f8e5
  | _ => .b16

/-- An encoded block: S8 code, zero point, element codes, and the events it counted. -/
structure EBlock where
  s8 : Nat
  zp : Nat
  codes : List Nat
  vals : List Num            -- decoded values without the outlier, NaN where poisoned or non-finite
  orec : Option (Nat × Num)
  bad : Bool                 -- written poisoned, or holds a non-finite element
  sat : Nat
  crush : Nat
  poison : Nat
deriving DecidableEq, Repr

/-- The L4 code nearest to x, the smallest on equal distance (R92, R117), and whether x lies outside the table (R89). -/
def l4Encode (tab : List Rat) (x : Rat) : Nat × Bool :=
  let d := tab.map fun t => rabs (t - x)
  let best := d.foldl min (d.headD 0)
  (d.findIdx (· == best), decide (tab.foldl max (tab.headD 0) < x) || decide (x < tab.foldl min (tab.headD 0)))

/-- Value of an element code in a block with scale `s` and zero point (R68, R82, R83). -/
def elemVal (t : Target) (l4 : List Nat) (s : Rat) (zp code : Nat) : Num :=
  match t with
  | .i4 | .i8 => numOf (((code : Int) - (zp : Int) : Int) * s)
  | .l4 => (decodeF .b16 (l4.getD code 0)).mul (numOf s)
  | _ => (decodeF t.fmt code).mul (numOf s)

/-- Encodes one block: scales, zero point, elements and events (R111, R114, R115, R116, R117, R120, R121). -/
def encodeBlock (c : CastSet) (p : Rat) (u : Nat → Nat) (b : OBlock) : EBlock :=
  let poisoned := b.els.any (·.poison)
  let nonfin := b.els.any fun e => !e.poison && !e.v.finite
  let sp := blockSpan c b.els
  let bs := if c.target = .b16 then (0x38, false)
    else if c.unit then (if sp.1 = 0 then (0, false) else (0x38, false))
    else blockScale sp.1 (reach c) p c.clip8 c.nearest
  let isF8 := c.target == .f8e4 || c.target == .f8e5
  let crush := b2n b.crush + b2n bs.2
  let osat := b2n b.sat
  if c.target = .b16 then
    let rs := b.els.mapIdx fun i e =>
      if e.poison then (⟨.nan, false⟩ : Rounded) else roundF .b16 ⟨c.stoch, u i⟩ c.ovf e.v
    ⟨0x38, 0, rs.map fun r => encodeF .b16 r.val, rs.map (·.val), b.orec, rs.any fun r => !r.val.finite,
      osat + (rs.filter (·.sat)).length, crush, 0⟩
  else if poisoned || (nonfin && !isF8) then
    ⟨0xFF, 0, List.replicate 16 0, List.replicate 16 .nan, b.orec, true, osat, crush, b2n poisoned⟩
  else
    let s8 := if bs.1 = 0 && nonfin then 0x38 else bs.1
    if s8 = 0 then ⟨0, 0, List.replicate 16 0, List.replicate 16 (.zero false), b.orec, false, osat, crush, 0⟩
    else
      let s := s8Val s8 * p
      if c.target.isInt then
        let top : Int := 2 ^ c.target.bits - 1
        let z : Int := if c.symmetric then (if c.target = .i4 then 8 else 128) else max 0 (min top (roundInt (-sp.2 / s)))
        let raw := b.els.mapIdx fun i e => roundIntR ⟨c.stoch, u i⟩ (e.v.rat / s) + z
        let codes := raw.map fun q => (max 0 (min top q)).toNat
        let sats := (raw.filter fun q => decide (q < 0) || decide (top < q)).length
        ⟨s8, z.toNat, codes, codes.map (elemVal c.target c.l4 s z.toNat), b.orec, false, osat + sats, crush, 0⟩
      else if c.target = .l4 then
        let enc := b.els.map fun e => l4Encode (l4Vals c.l4) (e.v.rat / s)
        let codes := enc.map (·.1)
        ⟨s8, 0, codes, codes.map (elemVal .l4 c.l4 s 0), b.orec, false, osat + (enc.filter (·.2)).length, crush, 0⟩
      else
        let rs := b.els.mapIdx fun i e => roundF c.target.fmt ⟨c.stoch, u i⟩ c.ovf (e.v.div (numOf s))
        let codes := rs.map fun r => encodeF c.target.fmt r.val
        ⟨s8, 0, codes, codes.map (elemVal c.target c.l4 s 0), b.orec, codes.any fun k => !(decodeF c.target.fmt k).finite,
          osat + (rs.filter (·.sat)).length, crush, 0⟩

/-! ### The panel record (R122 to R126) -/

/-- Packs 4-bit codes two to a byte, element 2i in bits [3:0] (R7). -/
def packNibbles : List Nat → List Byte
  | a :: b :: r => BitVec.ofNat 8 (a % 16 + 16 * (b % 16)) :: packNibbles r
  | [a] => [BitVec.ofNat 8 (a % 16)]
  | [] => []

/-- The element part of a record. -/
def packCodes (t : Target) (codes : List Nat) : List Byte :=
  match t.bits with
  | 4 => packNibbles codes
  | 8 => codes.map (BitVec.ofNat 8)
  | _ => (codes.map (natLE 2)).flatten

/-- Exact sum of values, then one rounding to B16P (R126, R151); a member that is not finite gives (0x7FC0, +0). -/
def sumPair (vs : List Num) : Pair := if vs.all Num.finite then toPair rne (vs.foldl Num.add (.zero false)) else ⟨nanCode .b16, 0⟩

/-- Full values of an encoded block: an extracted outlier has its record's value at its own place (R126, R135). DESIGN CHOICE (log entry
151): R126 adds the record's value to the decoded value at that place, and R135 makes it the full value; the two differ only where an L4
table holds no zero entry, and there the model takes R135's. -/
def EBlock.full (b : EBlock) : List Num :=
  if b.bad && b.s8 = 0xFF then List.replicate 16 .nan
  else match b.orec with
    | some (i, v) => b.vals.set i v
    | none => b.vals

/-- What names a panel within its tensor and its cast (R124, R125). -/
structure PanelName where
  row : Nat                  -- panel row
  col : Nat                  -- panel column
  profile : Nat
  colony : Nat
  step : Nat                 -- step a rotation by step names
  key : Nat
  base : Nat                 -- rotation base seed
  rotJob : Bool
deriving DecidableEq, Repr

/-- The result of the cast of one panel. -/
structure PanelOut where
  bytes : List Byte
  sat : Nat
  crush : Nat
  nonfin : Nat
  poison : Nat
  outliers : Nat
  ovf : Bool
deriving DecidableEq, Repr

/-- The panel header (table Panel header, R124). -/
def panelHeader (c : CastSet) (nm : PanelName) (pexp : Int) (bad : Bool) (outliers : Nat) : List Byte :=
  let rot := c.rotN != 0
  let n2 := if c.rotN = 32 then 1 else if c.rotN = 64 then 2 else if c.rotN = 128 then 3 else 0
  let flags := b2n rot + 2 * n2 + 8 * b2n (rot && nm.rotJob) + 16 * b2n (c.target.isInt && c.symmetric) + 32 * b2n bad
  natLE 2 (encodeF .b16 (.fin (pow2 pexp))) ++ natLE 1 c.target.code ++ natLE 1 flags ++ natLE 2 outliers ++ natLE 2 c.budget ++
    natLE 2 (if rot then nm.key else 0) ++ natLE 1 nm.profile ++ natLE 1 nm.colony ++ zeros 4 ++
    natLE 8 (if rot && !nm.rotJob then nm.step else 0) ++ natLE 4 nm.row ++ natLE 4 nm.col ++ zeros 32

/-- The cast of one panel (table Cast stages, R95): 128 rows of 128 elements, zeros beyond the tensor; `u row k` is the draw of
element (row, k) of this panel (R179). DESIGN CHOICE (log entry 151): a B16P element outside the canonical form whose two words are finite
and whose sum overflows W32 counts one non-finite event at the first stage. -/
def castPanel (c : CastSet) (nm : PanelName) (u : Nat → Nat → Nat) (rows : List (List Elem)) : PanelOut :=
  let src := rows.map fun r => r.map fun e => (⟨w32 e.v, e.poison⟩ : Elem)
  let nf0 := ((src.map fun r => (r.filter fun e => !e.poison && !e.v.finite).length)).sum
  let rot := src.map fun r => rotateRow c.rotN nm.base nm.key (128 * nm.col) r
  let nf1 := (rot.map (·.2)).sum
  let blocks := (rot.map fun r => chunksOf 16 8 r.1).flatten
  let ob := extractOutliers c.theta c.budget blocks
  let amax := ((ob.1.map fun b => (b.els.filterMap magOf).foldl max 0)).foldl max 0
  let pexp := if c.unit || c.target = .b16 then 0 else panelExp amax (reach c)
  let eb := ob.1.mapIdx fun b o => encodeBlock c (pow2 pexp) (fun i => u (b / 8) (16 * (b % 8) + i)) o
  let vals := chunksOf 8 128 (eb.map EBlock.full)
  let rowVals := vals.map List.flatten
  let rowSums := rowVals.map sumPair
  let colSums := (List.range 128).map fun k => sumPair (rowVals.map fun r => r.getD k (.zero false))
  let recs := (eb.mapIdx fun b e => e.orec.map fun ov =>
    natLE 4 (encodeF .b16 ov.2 + 65536 * b + 2 ^ 26 * ov.1)).filterMap id
  let hdrs := (eb.map fun e =>
    if c.target = .b16 then []
    else if c.target.isInt then natLE 1 e.s8 ++ natLE 1 e.zp ++ natLE 2 e.codes.sum
    else natLE 1 e.s8).flatten
  let bytes := panelHeader c nm pexp (eb.any (·.bad)) recs.length ++ packCodes c.target (eb.map (·.codes)).flatten ++ hdrs ++
    (rowSums.map pairBytes).flatten ++ (colSums.map pairBytes).flatten ++
    recs.flatten ++ zeros (4 * (c.budget - recs.length))
  ⟨bytes, (eb.map (·.sat)).sum, (eb.map (·.crush)).sum, nf0 + nf1, (eb.map (·.poison)).sum, recs.length, decide (c.budget < ob.2) && c.theta != 0⟩

/-- Size of a panel record (table Panel record sizes, R122). -/
def recordSize (t : Target) (cap : Nat) : Nat :=
  (match t with
   | .f4 | .l4 => 10304
   | .i4 => 13376
   | .f8e4 | .f8e5 => 18496
   | .i8 => 21568
   | .b16 => 33856) + 4 * cap

/-- The cast triggers (table Cast triggers, R119), as the bits [0] saturation, [1] crush, [2] outlier overflow. -/
def castTriggers (p : Profile) (sat crush : Nat) (ovf : Bool) (panels : Nat) : Nat :=
  b2n (p.satStrict && decide (p.satLimit * (16384 * panels) < sat * 65536)) +
  2 * b2n (match p.crushLimit with
    | some l => decide (l * (1024 * panels) < crush * 4096)
    | none => false) +
  4 * b2n ovf

end Sys2Proof.Machine
end

