-- ==== Sys2Proof/Machine/Engine.lean ====
section
/-! DEFINITION. Engine.lean: the arithmetic of the matrix engine (R129 to R155, R514): panel records as operands, block values,
narrow runs, promotion, range decisions, output rounding and the finished-tile record. -/
namespace Sys2Proof.Machine
open Sys2Proof

/-! ### Operands -/

/-- A panel record as read: its device address, its bytes, and for each byte whether its sector is poisoned (R138, R234). -/
structure RawRec where
  addr : Nat
  bytes : List Byte
  poison : List Bool
deriving DecidableEq, Repr

/-- A block of an operand: the address of the sector that poisons it, its full values (R135), and the codes and header fields an
integer pair uses (R137). -/
structure Blk where
  poison : Option Nat
  zero : Bool
  scale : Rat
  zp : Nat
  csum : Nat
  codes : List Nat
  vals : List Num
  outl : List (Nat × Num)
deriving DecidableEq, Repr

/-- A block poisoned by the sector at an address. -/
def poisonBlk (a : Nat) : Blk := ⟨some a, false, 0, 0, 0, [], [], []⟩

/-- A zero block. -/
def zeroBlk : Blk := ⟨none, true, 0, 0, 0, List.replicate 16 0, List.replicate 16 (.zero false), []⟩

/-- The fields of a panel header (table Panel header, R124). -/
structure Hdr where
  pscale : Nat
  fmt : Nat
  flags : Nat
  count : Nat
  cap : Nat
  key : Nat
  profile : Nat
  colony : Nat
  step : Nat
  row : Nat
  col : Nat
deriving DecidableEq, Repr

/-- Reads a panel header. -/
def parseHdr (b : List Byte) : Hdr :=
  ⟨field b 0 2, byteAt b 2, byteAt b 3, field b 4 2, field b 6 2, field b 8 2, byteAt b 10, byteAt b 11, field b 16 8, field b 24 4, field b 28 4⟩

/-- The rotation settings a GEMM compares: size, base, key, and the step for rot_base step (R104). -/
def rotOf (h : Hdr) : Nat × Nat × Nat × Nat :=
  if bitAt h.flags 0 then (1 + slice h.flags 2 1, b2n (bitAt h.flags 3), h.key, if bitAt h.flags 3 then 0 else h.step) else (0, 0, 0, 0)

/-- The factor exponent f of R136 of an operand rotated with n = 32 or n = 128. -/
def rotF (h : Hdr) : Nat := if bitAt h.flags 0 && (slice h.flags 2 1 == 1 || slice h.flags 2 1 == 3) then 1 else 0

/-- The first poisoned byte among bytes `i` to `i + k − 1`. -/
def firstPoison (p : List Bool) (i k : Nat) : Option Nat := (((p.drop i).take k).findIdx? id).map (i + ·)

/-- Element code `e` of a record's element part. -/
def codeAt (t : Target) (bs : List Byte) (e : Nat) : Nat :=
  match t.bits with
  | 4 => (byteAt bs (64 + e / 2) / 16 ^ (e % 2)) % 16
  | 8 => byteAt bs (64 + e)
  | _ => field bs (64 + 2 * e) 2

/-- Size of the element part of a record (R122). -/
def elemSize (t : Target) : Nat := match t.bits with | 4 => 8192 | 8 => 16384 | _ => 32768

/-- Size of one block header entry (R123). -/
def entrySize (t : Target) : Nat := if t.isInt then 4 else if t = .b16 then 0 else 1

/-- The outlier records of a panel: block, element, value (R109). -/
def outliersOf (t : Target) (bs : List Byte) (n : Nat) : List (Nat × Nat × Num) :=
  let base := 64 + elemSize t + 1024 * entrySize t + 1024
  (List.range n).map fun s =>
    let w := field bs (base + 4 * s) 4
    (slice w 25 16, slice w 29 26, decodeF .b16 (slice w 15 0))

/-- Offset of the row sums in a record (R122). -/
def sumsAt (t : Target) : Nat := 64 + elemSize t + 1024 * entrySize t

/-- What poisons every block of a record (R138, R514): `wrong` marks a header without the format, the outlier_cap or the place that
R514 requires. -/
def panelBad (t : Target) (raw : RawRec) (wrong : Bool) : Option Nat :=
  let h := parseHdr raw.bytes
  if wrong then some 0
  else match firstPoison raw.poison 0 64 with
  | some i => some i
  | none => if !panelScaleOk h.pscale then some 0 else firstPoison raw.poison (sumsAt t + 1024) (4 * h.cap)

/-- What poisons a block: its elements or its header entry, from a poisoned sector, or an invalid S8 (R138). -/
def blockBad (t : Target) (raw : RawRec) (b s8 : Nat) : Option Nat :=
  let es := entrySize t
  let hoff := 64 + elemSize t + es * b
  match firstPoison raw.poison (64 + 2 * t.bits * b) (2 * t.bits) with
  | some i => some i
  | none => match firstPoison raw.poison hoff es with
    | some i => some i
    | none => if s8Invalid s8 then some hoff else none

/-- Block `b` of a record in format `t` (R71, R73, R74, R135, R138). `bad` poisons the whole panel. -/
def blockOf (t : Target) (l4 : List Nat) (raw : RawRec) (bad : Option Nat) (ps : Rat) (outs : List (Nat × Nat × Num)) (b : Nat) : Blk :=
  let bs := raw.bytes
  let hoff := 64 + elemSize t + entrySize t * b
  let s8 := if t = .b16 then 0x38 else byteAt bs hoff
  match (match bad with | some i => some i | none => blockBad t raw b s8) with
  | some i => poisonBlk ((raw.addr + i) / 64 * 64)
  | none =>
    if s8 = 0 then zeroBlk
    else
      let zp := if t = .i4 then byteAt bs (hoff + 1) % 16 else if t = .i8 then byteAt bs (hoff + 1) else 0
      let cs := if t.isInt then field bs (hoff + 2) 2 else 0
      let codes := (List.range 16).map fun i => codeAt t bs (16 * b + i)
      let sc := (if t = .b16 then 1 else s8Val s8) * ps
      let vals := codes.map (elemVal t l4 sc zp)
      let mine := outs.filterMap fun o => if o.1 = b then some o.2 else none
      ⟨none, false, sc, zp, cs, codes, mine.foldl (fun v o => v.set o.1 o.2) vals, mine⟩

/-- A record of an operand read in format `t` (R514): its rows of blocks. -/
def panelRows (t : Target) (l4 : List Nat) (raw : RawRec) (wrong : Bool) : List (List Blk) :=
  let h := parseHdr raw.bytes
  let bad := panelBad t raw wrong
  let outs := if bad.isSome then [] else outliersOf t raw.bytes (min h.count h.cap)
  chunksOf 8 128 ((List.range 1024).map (blockOf t l4 raw bad (decodeF .b16 h.pscale).rat outs))

/-- The `n`-th group of 128 sums of a record, 0 its row sums and 1 its column sums; a sum from a poisoned sector is a NaN (R126,
R200). -/
def panelSums (t : Target) (raw : RawRec) (n : Nat) : List Num :=
  (List.range 128).map fun k =>
    let i := sumsAt t + 512 * n + 4 * k
    if (firstPoison raw.poison i 4).isSome then .nan else pairVal (pairOf raw.bytes i)

/-- The block value of a pair (R136, R137, R139): none where either block is poisoned; the flag says the pair was skipped. -/
def blockValue (f : Nat) (isInt : Bool) (a b : Blk) : Option Num × Bool :=
  if a.poison.isSome || b.poison.isSome then (none, false)
  else if a.zero || b.zero then (some (.zero false), true)
  else if isInt then
    let qq : Int := ((List.zipWith (fun x y => x * y) a.codes b.codes).sum : Nat)
    let core : Int := qq - (b.zp : Int) * (a.csum : Int) - (a.zp : Int) * (b.csum : Int) + 16 * (a.zp : Int) * (b.zp : Int)
    let pos := (List.range 16).filter fun i => a.outl.any (·.1 == i) || b.outl.any (·.1 == i)
    let side := pos.foldl (fun acc i => acc.add ((a.vals.getD i (.zero false)).mul (b.vals.getD i (.zero false)))) (numOf (core * (a.scale * b.scale)))
    (some (match side with | .zero _ => .zero false | v => v.scale2 (-(f : Int))), false)
  else
    let s := (List.zipWith Num.mul a.vals b.vals).foldl Num.add (.zero false)
    (some (match s with | .zero _ => .zero false | v => v.scale2 (-(f : Int))), false)

/-! ### Runs and promotion (R140 to R143) -/

/-- procedure run_value (R141) over the finite block values of a run: N and t. -/
def runValue (v : List Rat) : Int × Int :=
  let nz := v.filter (· ≠ 0)
  if nz.isEmpty then (0, 0)
  else
    let emax := (nz.map fun x => floorLog2 (rabs x)).foldl max (floorLog2 (rabs (nz.headD 1)))
    ((v.map fun x => roundInt (x / pow2 (emax - 14))).sum, emax - 14)

/-- Inserts a run behind every run of the same or a smaller t (R142). -/
def insertRun (r : Int × Int) : List (Int × Int) → List (Int × Int)
  | [] => [r]
  | x :: xs => if r.2 < x.2 then r :: x :: xs else x :: insertRun r xs

/-- Runs in promotion order: ascending t, then ascending run index (R142). -/
def promotionOrder (rs : List (Int × Int)) : List (Int × Int) := rs.foldl (fun acc r => insertRun r acc) []

/-- W32 rounding of an accumulation: in saturate mode an overflow clamps (R146); the flag reports the overflow. -/
def accRound (sat : Bool) (x : Num) : Num × Bool :=
  let y := w32 x
  match x, y with
  | .fin q, .inf _ => (if sat then .fin (if q < 0 then -maxFinite .w32 else maxFinite .w32) else y, true)
  | _, _ => (y, false)

/-- An accumulator position: sum and error term, and whether any rounding overflowed. -/
structure Acc where
  s : Num
  c : Num
  ovr : Bool
deriving DecidableEq, Repr

/-- The cleared accumulator: +0 (R142, R143). -/
def acc0 : Acc := ⟨.zero false, .zero false, false⟩

/-- procedure two_sum (R143). -/
def twoSum (sat : Bool) (a : Acc) (x : Num) : Acc :=
  let t := accRound sat (a.s.add x)
  if !t.1.finite then ⟨t.1, .zero false, a.ovr || t.2⟩
  else
    let bp := accRound sat (t.1.sub a.s)
    let ap := accRound sat (t.1.sub bp.1)
    let e := accRound sat ((a.s.sub ap.1).add (x.sub bp.1))
    let c := accRound sat (a.c.add e.1)
    ⟨t.1, c.1, a.ovr || t.2 || bp.2 || ap.2 || e.2 || c.2⟩

/-- One promotion of x into the accumulator, plain or compensated (R142, R143). -/
def promote (comp sat : Bool) (a : Acc) (x0 : Num) : Acc :=
  let x := accRound sat x0
  if comp then twoSum sat { a with ovr := a.ovr || x.2 } x.1
  else
    let y := accRound sat (a.s.add x.1)
    ⟨y.1, .zero false, a.ovr || x.2 || y.2⟩

/-- One addition of reference_pass (R155): v and the sum round with ieee overflow, and in saturate mode an infinite sum takes
the limit of its sign. -/
def refAdd (sat : Bool) (a : Acc) (v : Num) : Acc :=
  let x := w32 v
  let y := w32 (a.s.add x)
  let ovr := a.s.finite && (x.isInf || y.isInf)
  ⟨if ovr && sat then .fin (if y.neg then -maxFinite .w32 else maxFinite .w32) else y, .zero false, a.ovr || ovr⟩

/-- The settings of an attempt. -/
structure EngSet where
  comp : Bool
  sat : Bool                 -- out_range saturate
  refMode : Bool
  runBlocks : Nat
  f : Nat
  isInt : Bool
  pair : Bool                -- out_format B16P
  sr : Bool
deriving DecidableEq, Repr

/-- An output position after accumulation. -/
structure Pos where
  val : Num                  -- exact accumulator value: acc, s + c, or the non-finite sum (R139, R149)
  ovr : Bool
  poison : Bool
deriving DecidableEq, Repr

/-- A position outside the valid rows and columns, or without contribution. -/
def pos0 : Pos := ⟨.zero false, false, false⟩

/-- Accumulates one output position from its block values with exponent o, and its largest run exponent (R140 to R143, R145;
in reference mode procedure reference_pass, R155). -/
def accumulate (g : EngSet) (o : Int) (bv : List (Option Num)) : Pos × Option Int :=
  let poison := bv.any Option.isNone
  let vs := bv.map fun v => v.getD (.zero false)
  let nonfin := vs.filter fun v => !v.finite
  let val (a : Acc) : Num := if g.comp then a.s.add a.c else a.s
  let omax (es : List Int) : Option Int := es.foldl (fun m e => some (match m with | none => e | some k => max k e)) none
  if g.refMode then
    let fs := vs.filter Num.finite
    let es := (fs.filter fun v => v.rat ≠ 0).map fun v => floorLog2 (rabs v.rat) - o
    let a := fs.foldl (fun a v => refAdd g.sat a (v.scale2 (-o))) acc0
    (if nonfin.isEmpty then ⟨a.s, a.ovr, poison⟩ else ⟨nonfin.foldl Num.add (nonfin.headD .nan), false, poison⟩, omax es)
  else
    let runs := (chunksOf g.runBlocks vs.length vs).filterMap fun r =>
      if r.all Num.finite then some (runValue (r.map Num.rat)) else none
    let live := runs.filter fun r => r.1 ≠ 0
    let es := live.map fun r => floorLog2 (rabs (r.1 : Rat)) + r.2 - o
    let a := (promotionOrder live).foldl (fun a r => promote g.comp g.sat a (numOf ((r.1 : Rat) * pow2 (r.2 - o)))) acc0
    (if nonfin.isEmpty then ⟨val a, a.ovr, poison⟩ else ⟨nonfin.foldl Num.add (nonfin.headD .nan), false, poison⟩, omax es)

/-- A rounded output element: its codes (low word 0 in B16), and its events (R146, R149). -/
structure OutEl where
  pair : Pair
  ovr : Bool
  sat : Bool
  nonfin : Bool
  poison : Bool
deriving DecidableEq, Repr

/-- Rounds one output element (R146, R149); u is its draw. In saturate mode a B16 element overflows where its exact value lies beyond the
largest finite one, even if rounding alone would reach that (R88, R89). -/
def roundOut (g : EngSet) (u : Nat) (p : Pos) : OutEl :=
  let r : Rnd := ⟨g.sr, u⟩
  let mx (n : Bool) : Nat := encodeF .b16 (.fin (if n then -maxFinite .b16 else maxFinite .b16))
  if !p.val.finite then
    ⟨if g.pair then toPair r p.val else ⟨encodeF .b16 (roundF .b16 r .ieee p.val).val, 0⟩, false, false, true, p.poison⟩
  else
    let q := if g.pair then toPair r p.val else ⟨encodeF .b16 (roundF .b16 r .ieee p.val).val, 0⟩
    let ov := !(decodeF .b16 q.hi).finite
    let clamps := if g.pair then ov else decide (maxFinite .b16 < rabs p.val.rat)
    if clamps && g.sat then ⟨⟨mx p.val.neg, 0⟩, true, true, false, p.poison⟩
    else ⟨q, ov, p.ovr && g.sat, ov, p.poison⟩

/-- The accumulated output tile in a bank (R130, R144): its place, exponent and positions, row by row of 512. -/
structure Bank where
  i : Nat
  j : Nat
  o : Int
  rescaled : Bool
  range : Bool
  rows : Nat
  cols : Nat
  pos : List Pos
  macs : Nat
  skips : Nat
deriving DecidableEq, Repr

/-- Block values of every position of an output tile, row by row; one list of values for each position. -/
def tileValues (g : EngSet) (a b : List (List Blk)) : List (List (List (Option Num × Bool))) :=
  a.map fun ra => b.map fun rb => List.zipWith (blockValue g.f g.isInt) ra rb

/-- One attempt at an output tile with exponent o: positions, range failure, emax_tile (R145). -/
def attempt (g : EngSet) (o : Int) (draw : Nat → Nat → Nat) (vals : List (List (List (Option Num)))) : List (List Pos) × Bool × Option Int :=
  let res := vals.map fun row => row.map (accumulate g o)
  let pos := res.map fun row => row.map (·.1)
  let fails := (pos.mapIdx fun p row => row.mapIdx fun n x =>
    x.val.finite && (x.ovr || (roundOut g (draw p n) x).ovr) || (!x.val.finite && x.ovr)).flatten.any id
  let emax := ((res.map fun row => row.filterMap (·.2)).flatten).foldl (fun m e => some (match m with | none => e | some k => max k e)) none
  (pos, fails, emax)

/-- Computes an output tile (R144 to R148, procedure reference_tile): accumulates, decides the range, rescales once or raises
the range trigger. DESIGN CHOICE (log entry 152): a multiply-accumulate counts for each of the 16 positions of every block pair of the tile
that is not skipped, positions beyond K in the last block and pairs with a poisoned block among them. -/
def computeTile (g : EngSet) (o : Int) (i j h : Nat) (draw : Nat → Nat → Nat) (a b : List (List Blk)) : Bank :=
  let bv := tileValues g a b
  let skips := ((bv.map fun r => (r.map fun c => (c.filter (·.2)).length).sum)).sum
  let all := ((bv.map fun r => (r.map List.length).sum)).sum
  let vals := bv.map fun r => r.map fun c => c.map (·.1)
  let t := attempt g o draw vals
  let lay (ps : List (List Pos)) : List Pos :=
    let rows := ps.map fun r => r ++ List.replicate (512 - r.length) pos0
    (rows ++ List.replicate (h - rows.length) (List.replicate 512 pos0)).flatten
  let mk (o : Int) (re ra : Bool) (ps : List (List Pos)) (times : Nat) : Bank :=
    ⟨i, j, o, re, ra, a.length, b.length, lay ps, times * 16 * (all - skips), times * skips⟩
  match t.2.1 && !g.sat, t.2.2 with
  | true, some e =>
    if o + e - 110 ≤ 127 then mk (o + e - 110) true false (attempt g (o + e - 110) draw vals).1 2
    else mk o false true t.1 1
  | true, none => mk o false true t.1 1
  | false, _ => mk o false false t.1 1

/-! ### The finished-tile record (R150 to R152) -/

/-- Size of a finished-tile record (table Finished-tile record sizes). -/
def ftSize (comp pair : Bool) : Nat :=
  match comp, pair with
  | false, false => 133696
  | false, true => 264768
  | true, false => 67904
  | true, true => 133440

/-- A finished-tile record: its bytes, its poisoned sectors, and what its header counts. -/
structure FtRec where
  bytes : List Byte
  bad : List Nat             -- sector offsets written poisoned, in units of 64 bytes
  els : List OutEl
  rowTot : List Pair
  colTot : List Pair
  digest : List Byte
  sat : Nat
  nonfin : Nat
  poisoned : Bool
deriving DecidableEq, Repr

/-- Writes a bank as a finished-tile record (R149 to R152). -/
def finishTile (g : EngSet) (h step iota : Nat) (draw : Nat → Nat → Nat) (bk : Bank) : FtRec :=
  let els := bk.pos.mapIdx fun e p => roundOut g (draw (e / 512) (e % 512)) p
  let z := if g.pair then 4 else 2
  let elBytes := (els.map fun e => if g.pair then pairBytes e.pair else natLE 2 e.pair.hi).flatten
  let val (e : OutEl) : Num := if e.poison then .nan else if g.pair then pairVal e.pair else decodeF .b16 e.pair.hi
  let rows := chunksOf 512 h (els.map val)
  let rowTot := rows.map sumPair
  let colTot := (List.range 512).map fun n => sumPair (rows.map fun r => r.getD n (.zero false))
  let parts := elBytes ++ (rowTot.map pairBytes).flatten ++ (colTot.map pairBytes).flatten
  let digest := shake256 parts 16
  let sat := (els.filter (·.sat)).length
  let nonfin := (els.filter fun e => e.nonfin).length
  let pois := els.any (·.poison)
  let flags := b2n g.comp + 2 * b2n bk.rescaled + 4 * b2n pois + 8 * b2n (decide (0 < nonfin)) + 16 * b2n (decide (0 < sat)) +
    32 * b2n bk.range + 64 * b2n g.refMode
  let sc := natLE 2 (encodeF .b16 (.fin (pow2 bk.o)))
  let hdr := sc ++ sc ++ sc ++ sc ++ natLE 1 (b2n g.pair) ++ natLE 1 flags ++ natLE 2 bk.rows ++ natLE 2 bk.cols ++
    natLE 1 (toCode 8 bk.o) ++ zeros 1 ++ natLE 8 step ++ natLE 4 iota ++ natLE 4 bk.i ++ natLE 4 bk.j ++ natLE 4 sat ++ natLE 4 nonfin ++
    natLE 2 (iota / 2 ^ 32) ++ zeros 2 ++ digest
  let badEls := (els.mapIdx fun e x => if x.poison then some (1 + e * z / 64) else none).filterMap id
  ⟨hdr ++ parts, badEls.eraseDups, els, rowTot, colTot, digest, sat, nonfin, pois⟩

/-- The table Operand pairs and rates (R132): D of a pair in a path other than the reference path, none where it is refused. -/
def pairD (a b : Target) : Option Nat :=
  let one (x y : Target) : Option Nat :=
    match x, y with
    | .f4, .f4 => some 512
    | .i4, .i4 => some 512
    | .f4, .f8e4 | .f4, .f8e5 => some 256
    | .f8e4, .f8e4 | .f8e4, .f8e5 | .f8e5, .f8e5 => some 256
    | .i4, .i8 | .i8, .i8 => some 256
    | .l4, .f4 | .l4, .f8e4 | .l4, .f8e5 | .l4, .l4 | .l4, .b16 => some 128
    | .b16, .f4 | .b16, .f8e4 | .b16, .f8e5 | .b16, .b16 => some 128
    | _, _ => none
  match one a b with
  | some d => some d
  | none => one b a

/-- D of a pair on its path (R132): 16 in reference mode. -/
def passD (refMode : Bool) (a b : Target) : Option Nat := (pairD a b).map fun n => if refMode then 16 else n

/-! ### The sum check (R200) -/

/-- P and Q of a row or column: its full values against the sums of the other operand's panels (R200). -/
def predict (f : Nat) (o : Int) (a s : List Num) : Num × Num :=
  let e : Int := -(f : Int) - o
  (w32 (((List.zipWith Num.mul a s).foldl Num.add (.zero false)).scale2 e),
   w32 (((List.zipWith (fun x y => x.abs.mul y.abs) a s).foldl Num.add (.zero false)).scale2 e))

/-- Full values of a row of blocks; a zero block gives zeros. -/
def rowVals (bs : List Blk) : List Num := (bs.map fun b => if b.poison.isSome then List.replicate 16 .nan else b.vals).flatten

/-- One row or column test of R200: T against P within 2^(−e) × (U + Q). -/
def sumTest (e : Nat) (t p q u : Num) : Bool :=
  t.finite && p.finite && q.finite && u.finite &&
    decide (rabs (t.rat - p.rat) ≤ pow2 (-(e : Int)) * (u.rat + q.rat))

end Sys2Proof.Machine
end

