-- ==== Sys2Proof/Machine/Trans.lean ====
section
/-! DEFINITION. Trans.lean: the transcendental operators of R160, correctly rounded to W32. Each is computed in fixed point with
320 or 640 fractional bits and rounded once (log entry 3). -/
namespace Sys2Proof.Machine
open Sys2Proof

/-- A fixed-point number: the integer divided by 2^p. -/
def fxMul (p : Nat) (a b : Int) : Int := a * b / (2 ^ p : Int)

/-- A rational in fixed point. -/
def toFx (p : Nat) (x : Rat) : Int := (x * pow2 p).floor

/-- The rational of a fixed-point number. -/
def ofFx (p : Nat) (x : Int) : Rat := (x : Rat) / pow2 p

/-- Taylor sum of e^r − 1 terms, from term k with value t. -/
def expTerms (p : Nat) (r : Int) : Nat → Nat → Int → Int
  | 0, _, _ => 0
  | n + 1, k, t => t + expTerms p r n (k + 1) (fxMul p t r / ((k + 1 : Nat) : Int))

/-- Squares `n` times. -/
def fxSquares (p : Nat) : Nat → Int → Int
  | 0, x => x
  | n + 1, x => fxSquares p n (fxMul p x x)

/-- e^x for a rational 0 ≤ x ≤ 256, in fixed point. -/
def expFx (p : Nat) (x : Rat) : Int := fxSquares p 16 (expTerms p (toFx p (x * pow2 (-16))) 60 0 (2 ^ p : Int))

/-- e^x for a rational |x| ≤ 256. -/
def expRat (x : Rat) : Rat :=
  if x < 0 then 1 / ofFx 640 (expFx 640 (-x)) else ofFx 640 (expFx 640 x)

/-- Sum of z^(2k+1) / (2k+1). -/
def atanhTerms (p : Nat) (z2 : Int) : Nat → Nat → Int → Int
  | 0, _, _ => 0
  | n + 1, k, t => t / ((2 * k + 1 : Nat) : Int) + atanhTerms p z2 n (k + 1) (fxMul p t z2)

/-- atanh z for a rational |z| ≤ 1/3. -/
def atanhFx (p : Nat) (z : Rat) : Int :=
  let t := toFx p z
  atanhTerms p (fxMul p t t) (p / 3) 0 t

/-- ln x for a positive rational. -/
def lnRat (x : Rat) : Rat :=
  let e := floorLog2 x
  let m := x * pow2 (-e)
  ofFx 320 (e * (2 * atanhFx 320 (1 / 3)) + 2 * atanhFx 320 ((m - 1) / (m + 1)))

/-- arctan (1 ÷ n) by its alternating series. -/
def atanInvTerms (n2 : Int) : Nat → Nat → Int → Int
  | 0, _, _ => 0
  | f + 1, k, t => (if k % 2 = 0 then t / ((2 * k + 1 : Nat) : Int) else -(t / ((2 * k + 1 : Nat) : Int))) + atanInvTerms n2 f (k + 1) (t / n2)

/-- π in fixed point, by Machin's formula. -/
def piFx (p : Nat) : Int :=
  let one : Int := 2 ^ p
  4 * (4 * atanInvTerms 25 (p / 4) 0 (one / 5) - atanInvTerms (239 * 239) (p / 8) 0 (one / 239))

/-- Sum of x^(2k+1) ÷ (1·3·5···(2k+1)). -/
def phiTerms (p : Nat) (x2 : Int) : Nat → Nat → Int → Int
  | 0, _, _ => 0
  | f + 1, k, t => t + phiTerms p x2 f (k + 1) (fxMul p t x2 / ((2 * k + 3 : Nat) : Int))

/-- Φ(x) − 1/2 for a rational 0 ≤ x ≤ 16. -/
def phiHalf (x : Rat) : Rat :=
  let s := ofFx 640 (phiTerms 640 (toFx 640 (x * x)) 900 0 (toFx 640 x))
  let root := ofFx 320 ((isqrt (2 * piFx 640).toNat : Nat) : Int)
  s / (expRat (x * x / 2) * root)

/-- The standard normal distribution function on rationals |x| ≤ 16. -/
def phiRat (x : Rat) : Rat := if x < 0 then 1 / 2 - phiHalf (-x) else 1 / 2 + phiHalf x

/-- Rounds a nonzero approximation of an irrational result to W32. -/
def roundTr (x : Rat) : Num := w32 (.fin x)

/-- EXP (R160). -/
def opExp : Num → Num
  | .nan => .nan
  | .inf false => .inf false
  | .inf true => .zero false
  | .zero _ => .fin 1
  | .fin q => if 128 < q then .inf false else if q < -128 then .zero false else roundTr (expRat q)

/-- LOG (R160); ln 1 is exactly 0, written +0. -/
def opLog : Num → Num
  | .nan => .nan
  | .inf false => .inf false
  | .inf true => .nan
  | .zero _ => .inf true
  | .fin q => if q < 0 then .nan else if q = 1 then .zero false else roundTr (lnRat q)

/-- TANH (R160). -/
def opTanh : Num → Num
  | .nan => .nan
  | .inf n => .fin (if n then -1 else 1)
  | .zero n => .zero n
  | .fin q =>
    let a := rabs q
    let sg : Rat := if q < 0 then -1 else 1
    if 64 < a then .fin sg
    else if a < pow2 (-60) then roundTr (sg * (a - a * a * a / 3))
    else
      let e := expRat (2 * a)
      roundTr (sg * ((e - 1) / (e + 1)))

/-- SIGMOID (R160). -/
def opSigmoid : Num → Num
  | .nan => .nan
  | .inf false => .fin 1
  | .inf true => .zero false
  | .zero _ => .fin (1 / 2)
  | .fin q =>
    if 128 < q then .fin 1 else if q < -128 then .zero false
    else if q < 0 then (let e := expRat q; roundTr (e / (1 + e))) else roundTr (1 / (1 + expRat (-q)))

/-- GELU (R160). -/
def opGelu : Num → Num
  | .nan => .nan
  | .inf false => .inf false
  | .inf true => .zero true
  | .zero n => .zero n
  | .fin q => if 16 < q then .fin q else if q < -16 then .zero true else roundTr (q * phiRat q)

/-- SILU (R160). -/
def opSilu : Num → Num
  | .nan => .nan
  | .inf false => .inf false
  | .inf true => .zero true
  | .zero n => .zero n
  | .fin q =>
    if 128 < q then .fin q else if q < -128 then .zero true
    else if q < 0 then (let e := expRat q; roundTr (q * e / (1 + e))) else roundTr (q / (1 + expRat (-q)))

end Sys2Proof.Machine
end

