-- ==== Sys2Proof/Machine/Graph.lean ====
section
/-! DEFINITION. Graph.lean: the operators of the stream engine and the evaluation of a stream graph over a work item (R158 to
R168, R374), as functions of the elements its ports read. -/
namespace Sys2Proof.Machine
open Sys2Proof

/-- A value on a link: W32 or int32 (R158). -/
inductive LVal where
  | f (x : Num)
  | i (z : Int)
deriving DecidableEq, Repr

/-- A value with its poison mark (R164) and the events its stage counted for it. -/
structure LV where
  v : LVal
  poison : Bool
  sat : Nat
  nonfin : Nat
deriving DecidableEq, Repr

/-- A W32 value without events. -/
def lvF (x : Num) : LV := ⟨.f x, false, 0, 0⟩

/-- An int32 value without events. -/
def lvI (z : Int) : LV := ⟨.i z, false, 0, 0⟩

/-- A poisoned value; what it would have held is not carried. -/
def lvPoison : LV := ⟨.i 0, true, 0, 0⟩

/-- The link as W32. -/
def LV.num (a : LV) : Num := match a.v with | .f x => x | .i z => numOf z

/-- The link as int32. -/
def LV.int (a : LV) : Int := match a.v with | .i z => z | .f _ => 0

/-! ### Port formats (R374, R158) -/

/-- Codes of the port formats (R374). -/
def portFmtOk (k : Nat) : Bool := [0x00, 0x01, 0x02, 0x03, 0x10, 0x11, 0x12, 0x18, 0x19].contains k

/-- Bytes per element of a port format. -/
def portBytes (k : Nat) : Nat :=
  match k with
  | 0x01 | 0x12 => 4
  | 0x00 | 0x11 | 0x19 => 2
  | _ => 1

/-- Integer port format. -/
def portInt (k : Nat) : Bool := decide (0x10 ≤ k) && decide (k ≤ 0x19)

/-- What a read port delivers for the bytes of one element (R158): B16, B16P and F8 as W32, integers as int32. -/
def portRead (k : Nat) (bs : List Byte) : LV :=
  match k with
  | 0x00 => lvF (decodeF .b16 (leNat bs))
  | 0x01 => lvF (w32 (pairVal (pairOf bs 0)))
  | 0x02 => lvF (decodeF .f8e4 (leNat bs))
  | 0x03 => lvF (decodeF .f8e5 (leNat bs))
  | 0x10 => lvI (sext 8 (leNat bs))
  | 0x11 => lvI (sext 16 (leNat bs))
  | 0x12 => lvI (sext 32 (leNat bs))
  | _ => lvI (leNat bs)

/-- Range of an integer port format. -/
def portRange (k : Nat) : Int × Int :=
  match k with
  | 0x10 => (-128, 127)
  | 0x11 => (-32768, 32767)
  | 0x18 => (0, 255)
  | 0x19 => (0, 65535)
  | _ => (-2147483648, 2147483647)

/-- Clamps an exact integer to a range, or takes it modulo the width; counts a clamp (R161, R163). -/
def fitInt (sat : Bool) (bits : Nat) (lo hi z : Int) : Int × Nat :=
  if lo ≤ z ∧ z ≤ hi then (z, 0)
  else if sat then ((if z < lo then lo else hi), 1)
  else (lo + ((z - lo) % (2 ^ bits : Int)), 0)

/-- An int32 result under the stage's sat field (R161). -/
def int32By (sat : Bool) (z : Int) : Int × Nat := fitInt sat 32 (-2147483648) 2147483647 z

/-- FTOI (R161): value, saturation events, non-finite events. -/
def ftoi (x : Num) : Int × Nat × Nat :=
  match x with
  | .nan => (0, 0, 1)
  | .inf n => (if n then -2147483648 else 2147483647, 0, 1)
  | y =>
    let z := roundInt y.rat
    let r := fitInt true 32 (-2147483648) 2147483647 z
    (r.1, r.2, 0)

/-- What a write port stores for one value (R163, R165): bytes, saturation events, non-finite events. In sat mode a pair whose high word
would overflow takes the limit of R149 (log entry 153). -/
def portWrite (st : Stage) (k : Nat) (u : Nat) (a : LV) : List Byte × Nat × Nat :=
  let r : Rnd := ⟨st.sr, u⟩
  let ov : Ovf := if st.ieee then .ieee else .sat
  if a.poison then (zeros (portBytes k), 0, 0)
  else if portInt k then
    let z : Int × Nat × Nat := match a.v with | .i z => (z, 0, 0) | .f x => ftoi x
    let rg := portRange k
    let w := if k = 0x12 then (z.1, 0) else fitInt st.sat (8 * portBytes k) rg.1 rg.2 z.1
    (natLE (portBytes k) (toCode (8 * portBytes k) w.1), z.2.1 + w.2, z.2.2)
  else if k = 0x01 then
    let p := toPair r a.num
    if ov = .sat ∧ a.num.finite = true ∧ (decodeF .b16 p.hi).finite = false then
      (pairBytes ⟨encodeF .b16 (.fin (if a.num.neg then -maxFinite .b16 else maxFinite .b16)), 0⟩, 1, 0)
    else (pairBytes p, 0, b2n (!(decodeF .b16 p.hi).finite))
  else
    let f : Fmt := if k = 0x02 then .f8e4 else if k = 0x03 then .f8e5 else .b16
    let q := roundF f r ov a.num
    (natLE (portBytes k) (encodeF f q.val), b2n q.sat, b2n (!q.val.finite))

/-! ### Operators (R160, R161) -/

/-- The larger of two values, with the NaN and zero rules of R160. -/
def numMax (a b : Num) : Num :=
  match a, b with
  | .nan, _ => .nan
  | _, .nan => .nan
  | .zero x, .zero y => .zero (x && y)
  | x, y => if x.lt y then y else x

/-- The smaller of two values. -/
def numMin (a b : Num) : Num :=
  match a, b with
  | .nan, _ => .nan
  | _, .nan => .nan
  | .zero x, .zero y => .zero (x || y)
  | x, y => if y.lt x then y else x

/-- SQRT (R160). -/
def opSqrt : Num → Num
  | .nan => .nan
  | .zero n => .zero n
  | .inf n => if n then .nan else .inf false
  | .fin q => if q < 0 then .nan else sqrtW32 q

/-- RSQRT (R160). -/
def opRsqrt : Num → Num
  | .nan => .nan
  | .zero n => .inf n
  | .inf n => if n then .nan else .zero false
  | .fin q => if q < 0 then .nan else rsqrtPlusW32 q 0

/-- The result of a float operator of one, two or three W32 inputs (table Float operators). -/
def floatOp (op : Nat) (imm : Int) (a b c : Num) : Num :=
  match op with
  | 0x01 => w32 (a.add b)
  | 0x02 => w32 (a.sub b)
  | 0x03 => w32 (a.mul b)
  | 0x04 => w32 ((a.mul b).add c)
  | 0x05 => w32 (a.div b)
  | 0x06 => numMax a b
  | 0x07 => numMin a b
  | 0x08 => a.abs
  | 0x09 => a.negate
  | 0x0A => opSqrt a
  | 0x0B => opRsqrt a
  | 0x0C => w32 ((Num.fin 1).div a)
  | 0x0D => opExp a
  | 0x0E => opLog a
  | 0x0F => opTanh a
  | 0x10 => opSigmoid a
  | 0x11 => opGelu a
  | 0x12 => opSilu a
  | 0x13 => w32 (a.scale2 imm)
  | _ => .nan

/-- Comparison operators (R160). -/
def floatCmp (op : Nat) (a b : Num) : Int :=
  match op with
  | 0x14 => if a.lt b then 1 else 0
  | 0x15 => if a.lt b || a.eqv b then 1 else 0
  | _ => if a.eqv b then 1 else 0

/-- The exact result of an integer arithmetic operator, and the results of the others (R161); int32 in, and whether the sat
field applies. -/
def intOp (op : Nat) (a b : Int) : Int × Bool :=
  let ua := toCode 32 a
  let ub := toCode 32 b
  match op with
  | 0x20 => (a + b, true)
  | 0x21 => (a - b, true)
  | 0x22 => (a * b, true)
  | 0x23 => (min a b, false)
  | 0x24 => (max a b, false)
  | 0x25 => ((a.natAbs : Int), true)
  | 0x26 => (if 32 ≤ ub then 0 else sext 32 (ua * 2 ^ ub), false)
  | 0x27 => (if 32 ≤ ub then (if a < 0 then -1 else 0) else a / (2 ^ ub : Int), false)
  | 0x28 => (if 32 ≤ ub then 0 else sext 32 (ua / 2 ^ ub), false)
  | 0x29 => (sext 32 (ua &&& ub), false)
  | 0x2A => (sext 32 (ua ||| ub), false)
  | 0x2B => (sext 32 (ua ^^^ ub), false)
  | 0x2C => (-a - 1, false)
  | 0x2D => (if a < b then 1 else 0, false)
  | _ => (if a = b then 1 else 0, false)

/-- Arity of an operator or terminal stage. -/
def opArity (op : Nat) : Nat :=
  if op = 0x38 ∨ op = 0x39 then 0
  else if op = 0x04 ∨ op = 0x17 ∨ op = 0x2F then 3
  else if (op ≤ 0x03) ∨ (0x05 ≤ op ∧ op ≤ 0x07) ∨ (0x14 ≤ op ∧ op ≤ 0x16) ∨ (0x20 ≤ op ∧ op ≤ 0x24) ∨ (0x26 ≤ op ∧ op ≤ 0x2B) ∨
    op = 0x2D ∨ op = 0x2E then 2
  else 1

/-- The codes of the operator tables, of the reductions and of the write stages. -/
def opKnown (op : Nat) : Bool :=
  (decide (0x01 ≤ op) && decide (op ≤ 0x17)) || (decide (0x20 ≤ op) && decide (op ≤ 0x31)) || op == 0x38 || op == 0x39 ||
    (decide (0x40 ≤ op) && decide (op ≤ 0x45)) || op == 0x50 || op == 0x51

/-- Terminal stages: reductions, WRITE and CASTW. -/
def opTerminal (op : Nat) : Bool := decide (0x40 ≤ op)

/-- Operators marked T (R160, R172). -/
def opT (op : Nat) : Bool := op == 0x05 || (decide (0x0A ≤ op) && decide (op ≤ 0x12))

/-- Whether input `n` (0 a, 1 b, 2 c) of an operator is int32; none where either type is taken. -/
def opInInt (op n : Nat) : Option Bool :=
  if op = 0x50 then none
  else if op = 0x17 then some (n == 0)
  else if op = 0x31 then some false
  else some (decide (0x20 ≤ op) && decide (op ≤ 0x30))

/-- Whether a non-terminal operator's output is int32. -/
def opOutInt (op : Nat) : Bool :=
  (decide (0x14 ≤ op) && decide (op ≤ 0x16)) || (decide (0x20 ≤ op) && decide (op ≤ 0x2F)) || decide (0x31 ≤ op)

/-- One stage over its inputs (R160, R161, R164); a terminal stage passes its input on. -/
def stageOp (st : Stage) (u : Nat) (a b c : LV) : LV :=
  if opTerminal st.op then a
  else if st.op = 0x38 then lvI u
  else if st.op = 0x39 then lvI (if st.imm ≤ (u : Int) then 1 else 0)
  else if st.op = 0x17 ∨ st.op = 0x2F then
    if a.poison then lvPoison
    else
      let r := if a.int ≠ 0 then b else c
      ⟨r.v, r.poison, 0, 0⟩
  else if a.poison || (decide (2 ≤ opArity st.op) && b.poison) || (decide (3 ≤ opArity st.op) && c.poison) then lvPoison
  else if st.op = 0x30 then lvF (w32 (numOf a.int))
  else if st.op = 0x31 then (let r := ftoi a.num; ⟨.i r.1, false, r.2.1, r.2.2⟩)
  else if 0x20 ≤ st.op then
    let r := intOp st.op a.int b.int
    if r.2 then (let w := int32By st.sat r.1; ⟨.i w.1, false, w.2, 0⟩) else lvI r.1
  else if 0x14 ≤ st.op then lvI (floatCmp st.op a.num b.num)
  else lvF (floatOp st.op st.imm a.num b.num c.num)

/-! ### A graph over a work item (R167, R168) -/

/-- A constant of the graph (R374). -/
def constLV (g : Graph) (c : Nat) : LV :=
  let w := g.consts.getD c 0
  if bitAt g.constInt c then lvI (sext 32 w) else lvF (decodeF .w32 w)

/-- The value a selector names for element (r, c) (table Stage input selectors). -/
def selValue (g : Graph) (port : Nat → LV) (rowV colV : LV) (outs : List LV) (sel : Nat) : LV :=
  if sel ≤ 31 then outs.getD sel lvPoison
  else if 0x40 ≤ sel ∧ sel ≤ 0x44 then port (sel - 0x40)
  else if sel = 0x48 then rowV
  else if sel = 0x49 then colV
  else constLV g (sel - 0x50)

/-- The outputs of all stages for one element, stage 0 first; a terminal stage's entry is its input. -/
def elemStages (g : Graph) (port : Nat → LV) (rowV colV : LV) (draw : Nat → Nat) : List LV :=
  g.stages.foldl (fun outs st =>
    let v := selValue g port rowV colV outs
    outs ++ [stageOp st (draw outs.length) (v st.inA) (v st.inB) (v st.inC)]) []

/-- A reduction over the values of a row or column (table Reduction operators, R164): bytes, poison mark, non-finite events. DESIGN CHOICE
(log entry 153): to RARGMAX −0 and +0 are equal values. -/
def reduceLV (op : Nat) (vs : List LV) : List Byte × Bool × Nat :=
  let xs := vs.map LV.num
  let bad := vs.any (·.poison)
  let pairOut (x : Num) : List Byte × Bool × Nat :=
    let p := toPair rne x
    (pairBytes p, bad, if bad then 0 else b2n (!(decodeF .b16 p.hi).finite))
  match op with
  | 0x40 | 0x45 => pairOut (xs.foldl Num.add (.zero false))
  | 0x41 => pairOut ((xs.map fun x => x.mul x).foldl Num.add (.zero false))
  | 0x44 =>
    let m := xs.foldl numMax (xs.headD .nan)
    let i : Int := if xs.any (· == .nan) then -1 else ((xs.findIdx fun x => x.eqv m : Nat) : Int)
    (natLE 4 (toCode 32 i), bad, 0)
  | k =>
    let m := if k = 0x42 then xs.foldl numMax (xs.headD .nan) else xs.foldl numMin (xs.headD .nan)
    let r := b16 m
    (natLE 2 (encodeF .b16 r), bad, if bad then 0 else b2n (!r.finite))

/-- What a terminal stage delivers: a list of stored elements in row-major order (WRITE) or one for each row or column
(reductions), or the elements of a CASTW stage, row by row. -/
inductive TermOut where
  | write (esize : Nat) (els : List (List Byte × Bool))
  | vec (esize : Nat) (els : List (List Byte × Bool))
  | cast (profile : Nat) (rows : List (List Elem))
deriving DecidableEq, Repr

/-- The outcome of a run: for each terminal stage its index, its port and what it delivers; the events of all stages. -/
structure GraphOut where
  outs : List (Nat × Nat × TermOut)
  sat : Nat
  nonfin : Nat
  poisonUse : Bool
deriving DecidableEq, Repr

/-- Transposes `rows` into columns `0 … n − 1`. -/
def columns {α : Type} (d : α) (n : Nat) (rows : List (List α)) : List (List α) :=
  (List.range n).map fun c => rows.map fun r => r.getD c d

/-- Runs a graph over `rows × cols` elements (R168): `port p r c` reads a port, `rowV c` and `colV r` the broadcast vectors,
`draw s r c` the draw u of stage s. -/
def runGraph (g : Graph) (rows cols : Nat) (port : Nat → Nat → Nat → LV) (rowV colV : Nat → LV) (draw : Nat → Nat → Nat → Nat) : GraphOut :=
  let vals := (List.range rows).map fun r => (List.range cols).map fun c =>
    elemStages g (fun p => port p r c) (rowV c) (colV r) (fun s => draw s r c)
  let terms := (List.range g.stages.length).filterMap fun s =>
    match g.stages[s]? with
    | none => none
    | some st =>
      if !opTerminal st.op then none
      else
        let grid := vals.map fun row => row.map fun o => o.getD s lvPoison
        if st.op = 0x50 then
          let w := (grid.mapIdx fun r row => row.mapIdx fun c x => (portWrite st st.format (draw s r c) x, x.poison)).flatten
          some (s, st.port, TermOut.write (portBytes st.format) (w.map fun x => (x.1.1, x.2)), (w.map (·.1.2.1)).sum, (w.map (·.1.2.2)).sum)
        else if st.op = 0x51 then
          some (s, st.port, TermOut.cast st.profile (grid.map fun row => row.map fun x => ⟨x.num, x.poison⟩), 0, 0)
        else
          let w := (if st.op = 0x45 then columns lvPoison cols grid else grid).map (reduceLV st.op)
          some (s, st.port, TermOut.vec (portBytes st.format) (w.map fun x => (x.1, x.2.1)), 0, (w.map (·.2.2)).sum)
  let inner := vals.map fun row => row.map fun o => ((o.zip g.stages).filter fun x => !opTerminal x.2.op).map (·.1)
  let used := terms.any fun t => match t.2.2.1 with
    | .write _ es => es.any (·.2)
    | .vec _ es => es.any (·.2)
    | .cast _ rs => rs.any fun r => r.any (·.poison)
  ⟨terms.map fun t => (t.1, t.2.1, t.2.2.1),
   ((inner.map fun row => (row.map fun o => (o.map (·.sat)).sum).sum)).sum + (terms.map (·.2.2.2.1)).sum,
   ((inner.map fun row => (row.map fun o => (o.map (·.nonfin)).sum).sum)).sum + (terms.map (·.2.2.2.2)).sum, used⟩

/-- The rate r of a run (R172); `f0` is the format code of port 0, that of the record in a drain. -/
def runRate (g : Graph) (f0 : Nat) : Nat :=
  let fmts := (if g.readFmts.headD 0xFF = 0xFF then [] else [f0]) ++ (g.readFmts.drop 1).filter (· != 0xFF)
  let rb := (fmts.map portBytes).sum
  let wb := (g.stages.map fun st => if st.op = 0x50 then portBytes st.format else if st.op = 0x51 then 1 else 0).sum
  let half := g.stages.any (fun st => opT st.op || st.op == 0x51 || (st.op == 0x50 && (st.format == 0x01 || st.format == 0x12))) ||
    fmts.any fun k => k == 0x01 || k == 0x12
  let down (n : Nat) : Nat := 2 ^ Nat.log2 n
  max 16 (min (min 256 (if rb = 0 then 256 else down (2048 / rb))) (min (if wb = 0 then 256 else down (1024 / wb)) (if half then 128 else 256)))

end Sys2Proof.Machine
end

