-- ==== Sys2Proof/Machine/Nme.lean ====
section
/-! DEFINITION. Nme.lean: the arithmetic of the near-memory engines (R255 to R267): update entries, the layout of their regions,
and the update of one element. -/
namespace Sys2Proof.Machine
open Sys2Proof

/-- An update entry as read from its 64 bytes (table Update entry, R258). -/
structure UEntry where
  weight : Nat
  moment : Nat
  result : Nat
  groups : Nat
  layer : Nat
  family : Nat
  masterB16 : Bool
  mfmt : Nat
  resPair : Bool
  gradExp : Int
  mExp : Int
  vExp : Int
  rne : Bool
  lr : Num
  decay : Num
  beta1 : Num
  c1 : Num
  c2 : Num
  cv : Num
  eps : Num
deriving DecidableEq, Repr

/-- A scalar of an entry: the pair at byte `i`, as round(hi + lo, W32) (R258). -/
def scalarAt (b : List Byte) (i : Nat) : Num := w32 (pairVal (pairOf b i))

/-- Reads an update entry. -/
def parseEntry (b : List Byte) : UEntry :=
  let f := byteAt b 31
  { weight := field b 0 8, moment := field b 8 8, result := field b 16 8, groups := field b 24 4, layer := field b 28 2,
    family := byteAt b 30, masterB16 := bitAt f 0, mfmt := slice f 2 1, resPair := bitAt f 3,
    gradExp := sext 8 (byteAt b 32), mExp := sext 8 (byteAt b 33), vExp := sext 8 (byteAt b 34), rne := bitAt (byteAt b 35) 0,
    lr := scalarAt b 36, decay := scalarAt b 40, beta1 := scalarAt b 44, c1 := scalarAt b 48, c2 := scalarAt b 52,
    cv := scalarAt b 56, eps := scalarAt b 60 }

/-- Parameters of a group: 64 for a B16P master, 128 for B16 (R255). -/
def UEntry.g (e : UEntry) : Nat := if e.masterB16 then 128 else 64

/-- Bytes of a master element, of a first moment, of a second moment, of a result element (R257). -/
def UEntry.bw (e : UEntry) : Nat := if e.masterB16 then 2 else 4
def UEntry.bm (e : UEntry) : Nat := if e.mfmt = 0 then 2 else 1
def UEntry.bv (e : UEntry) : Nat := if e.family = 2 then e.bm else 0
def UEntry.br (e : UEntry) : Nat := if e.resPair then 4 else 2

/-- Unit counts H of the moment, result and contribution regions; a weight region has H = 1 (table NME regions, R257). -/
def UEntry.hMoment (e : UEntry) : Nat := ceilDiv (e.g * (e.bm + e.bv)) 256
def UEntry.hResult (e : UEntry) : Nat := ceilDiv (e.g * e.br) 256
def UEntry.hContrib (e : UEntry) : Nat := e.g / 64

/-- Address of unit t of group q in a region with base and unit count H (R256). -/
def unitAddr (base h q t : Nat) : Nat := base + 256 * (512 * (h * (q / 512) + t) + q % 512)

/-- The address after the last byte of a region of `groups` groups. -/
def regionEnd (base h groups : Nat) : Nat :=
  if groups = 0 then base
  else if 512 ≤ groups then base + 256 * (512 * (h * (groups / 512)) + (if groups % 512 = 0 then 0 else 512 * (h - 1) + groups % 512))
  else unitAddr base h (groups - 1) (h - 1) + 256

/-- The field checks of R259 that need nothing but the entry. -/
def entryFieldsOk (e : UEntry) : Bool :=
  decide (e.family ≤ 2) && decide (e.mfmt ≤ 2) &&
  decide (-64 ≤ e.gradExp) && decide (e.gradExp ≤ 63) &&
  decide (-32 ≤ e.mExp) && decide (e.mExp ≤ 31) && decide (-32 ≤ e.vExp) && decide (e.vExp ≤ 31) &&
  decide (1 ≤ e.groups) && decide (e.groups ≤ 16777216) &&
  e.weight % 131072 == 0 && e.moment % 131072 == 0 && e.result % 131072 == 0 &&
  e.lr.finite && e.decay.finite && e.beta1.finite && e.c1.finite &&
  (e.family != 2 || (e.c2.finite && e.cv.finite && e.eps.finite)) &&
  (e.mfmt == 0 || e.family == 2) && (e.mfmt != 0 || (e.mExp == 0 && e.vExp == 0))

/-- momentum_element (R262): new weight and first moment. -/
def momentumElement (e : UEntry) (g w0 m0 : Num) : Num × Num :=
  let a := w32 (e.beta1.mul m0)
  let m1 := w32 ((e.c1.mul g).add a)
  let d := if e.family = 1 then w32 ((e.beta1.mul m1).add g) else m1
  let wd := w32 (e.decay.mul w0)
  (w32 (wd.sub (e.lr.mul d)), m1)

/-- round(1 ÷ (√x + e), W32), exact before its rounding (R253, R263). -/
def nmeRecip (x e : Num) : Num :=
  let er := e.rat
  match x with
  | .nan => .nan
  | .inf n => if n then .nan else .zero false
  | .zero _ => w32 ((Num.fin 1).div (numOf er))
  | .fin q =>
    if q < 0 then .nan
    else if er < 0 ∧ q = er * er then .inf false
    else if 0 ≤ er ∨ er * er < q then rsqrtPlusW32 q er
    else (roundRealW32 (1 / (-er - sqrtApprox q)) (fun r => r ≤ 0 || (let t := -er - 1 / r; t ≤ 0 || t * t ≤ q))
      (fun r => 0 < r && (let t := -er - 1 / r; 0 ≤ t && q ≤ t * t))).negate

/-- adam_element (R263): new weight, first and second moment. -/
def adamElement (e : UEntry) (g w0 m0 v0 : Num) : Num × Num × Num :=
  let a := w32 (e.beta1.mul m0)
  let m1 := w32 ((e.c1.mul g).add a)
  let q := w32 ((g.mul g).sub v0)
  let v := w32 ((e.c2.mul q).add v0)
  let v1 := if v.lt (.zero false) then .zero false else v
  let d := nmeRecip (v1.mul e.cv) e.eps
  let s := w32 (m1.mul d)
  let wd := w32 (e.decay.mul w0)
  (w32 (wd.sub (e.lr.mul s)), m1, v1)

/-- Lane operations of one element (R262, R263). -/
def laneOps (e : UEntry) : Nat := if e.family = 2 then 9 else if e.family = 1 then 6 else 5

/-- A moment as read (R260): B16, or an F8 element times 2^exp. -/
def momentIn (e : UEntry) (ex : Int) (code : Nat) : Num :=
  if e.mfmt = 0 then decodeF .b16 code
  else w32 ((decodeF (if e.mfmt = 1 then .f8e4 else .f8e5) code).scale2 ex)

/-- A moment as written (R264): bytes, whether it saturated, whether it is non-finite. -/
def momentOut (e : UEntry) (ex : Int) (r : Rnd) (x : Num) : List Byte × Bool × Bool :=
  let f : Fmt := if e.mfmt = 0 then .b16 else if e.mfmt = 1 then .f8e4 else .f8e5
  let q := roundF f r .sat (if e.mfmt = 0 then x else x.scale2 (-ex))
  (natLE e.bm (encodeF f q.val), q.sat, !q.val.finite)

/-- The updated group: weight bytes, moment bytes, and its counts of saturated and non-finite elements. -/
structure GroupOut where
  weight : List Byte
  moment : List Byte
  sat : Nat
  nonfin : Nat
deriving DecidableEq, Repr

/-- Updates group q of entry `ei` of its table from the bytes of its weight, moment and result content (R260 to R264); n is the
divisor of R317. -/
def updateGroup (e : UEntry) (seed ei q n : Nat) (wb mb rb : List Byte) : GroupOut :=
  if n = 0 then ⟨wb, mb, 0, 0⟩
  else
    let els := (List.range e.g).map fun i =>
      let rnd (sigma : Nat) : Rnd := if e.rne then rne else ⟨true, nmeDraw seed e.layer ei (e.g * q + i) sigma⟩
      let gr := if e.resPair then pairVal (pairOf rb (4 * i)) else decodeF .b16 (field rb (2 * i) 2)
      let g := w32 ((gr.scale2 (-e.gradExp)).div (numOf n))
      let w0 := if e.masterB16 then decodeF .b16 (field wb (2 * i) 2) else w32 (pairVal (pairOf wb (4 * i)))
      let m0 := momentIn e e.mExp (field mb (e.bm * i) e.bm)
      let v0 := momentIn e e.vExp (field mb (e.g * e.bm + e.bv * i) e.bv)
      let out : Num × Num × Num := if e.family = 2 then adamElement e g w0 m0 v0 else (let r := momentumElement e g w0 m0; (r.1, r.2, .zero false))
      let w : List Byte × Bool :=
        if e.masterB16 then (let c := roundF .b16 (rnd 0) .ieee out.1; (natLE 2 (encodeF .b16 c.val), !c.val.finite))
        else (let p := toPair (rnd 0) out.1; (pairBytes p, !(decodeF .b16 p.hi).finite))
      let m := momentOut e e.mExp (rnd 1) out.2.1
      let v := if e.family = 2 then momentOut e e.vExp (rnd 2) out.2.2 else ([], false, false)
      (w, m, v)
    ⟨(els.map fun x => x.1.1).flatten, (els.map fun x => x.2.1.1).flatten ++ (els.map fun x => x.2.2.1).flatten,
     (els.map fun x => b2n x.2.1.2.1 + b2n x.2.2.2.1).sum, (els.map fun x => b2n x.1.2 + b2n x.2.1.2.2 + b2n x.2.2.2.2).sum⟩

/-- The compensated pair addition of R265. -/
def addPairs (a b : Pair) : Pair := toPair rne ((pairVal a).add (pairVal b))

end Sys2Proof.Machine
end

