-- ==== Sys2Proof/Machine/Parts.lean ====
section
/-! DEFINITION. Parts.lean: the records of the module's units, of which State is made: memory, M-dies, tiles, rings, started
descriptors, steps, buckets, peers, ports, host port, power, management and security. Plain data; a docstring names the rules. -/
namespace Sys2Proof.Machine
open Sys2Proof

/-- A byte as read or written, with the mark that it comes from a poisoned sector (R227, R232). -/
abbrev PB := Byte × Bool

/-! ### Memory (R215 to R252) -/

/-- An entry of a merge buffer (R235): the sector's key and device address, its valid mask of 128 nibbles, the bytes held, and the mask
of bytes whose own parity fails (R228). -/
structure MEntry where
  sector : Nat
  addr : Nat
  mask : Nat
  data : List Byte
  fails : Nat
deriving DecidableEq, Repr

/-- A line of a slice's cache part (R223): the 256-byte unit of its stack, and per sector a valid bit and whether the stack is yet to be
written. What a sector holds is `Mem`'s: a hit, a miss and an eviction change timing only. -/
structure CLine where
  line : Nat
  valid : Nat
  dirty : Nat
deriving DecidableEq, Repr

/-- A confirmation read that a parity event on a stack sector waits for (R230). -/
structure Confirm where
  mdie : Nat
  key : Nat
  addr : Nat
  fails : Nat
deriving DecidableEq, Repr

/-- A row of a stack (R217). -/
structure Row where
  mdie : Nat
  pc : Nat
  bank : Nat
  row : Nat
deriving DecidableEq, Repr

/-- The memory contents: bytes that differ from what an unlisted address reads as, the bytes whose stored parity fails, and
the count of power losses of the stacks (the model's own, log entry 10). Keys are those of `physKey`. -/
structure Mem where
  cells : List Host.Cell
  bad : Tab Unit
  losses : Nat
deriving DecidableEq, Repr

/-- An M-die: its memory registers (R252), merge buffer (R235), scrubber (R244), repaired-row list (R246) and NME (R272). -/
structure MDie where
  trained : Bool
  fillDone : Bool
  cacheSteps : Nat
  scrubEnable : Bool
  scrubLlm : Bool
  scrubInterval : Nat
  scrubPos : Nat
  scrubCount : Nat           -- stack sectors read since the last slice sector (R244)
  llmPos : Nat               -- next slice sector
  parityCnt : Nat
  poisonReads : Nat
  errAddr : Nat
  errFails : Nat
  merge : List MEntry        -- oldest first
  cache : List CLine         -- newest use first
  poisonedMerges : Nat
  repaired : List Row
  noSpare : Nat
  selfDone : Bool
  selfPass : Bool
  selfFirst : Nat
  nmeShare : Nat
  nmeLaneOps : Nat
  nmeAccum : Nat
  nmeGroups : Nat
  nmeRepeats : Nat
  nmeSat : Nat
  nmeNonfin : Nat
  nmePoison : Nat
  nmeLayer : Nat
deriving DecidableEq, Repr

/-! ### Tiles (R18 to R25, R128, R153, R156, R174, R181, R189, R205, R214) -/

/-- A finished-tile queue entry (R174): its state, the output tile it holds, and the check logic's own copies (R175). -/
structure QEntry where
  state : Nat                -- 0 free, 1 filling, 2 posted, 3 draining
  uid : Nat
  i : Nat
  j : Nat
  slot : Nat
deriving DecidableEq, Repr

/-- An operand of a GEMM on one tile of its share (R191, R396, R514): where its panel records stand, and what its first header
fixed for all of them. -/
structure OpSrc where
  base : Nat                 -- device address of the record of index 0
  slots : List Nat           -- addresses of the records of a widened tensor, from index 0 on (R191)
  inRegion : Bool            -- widened tensor in the fall-back region (R192)
  fmt : Nat                  -- format code; 0 where the first header poisons the whole operand
  cap : Nat
  size : Nat                 -- record size
  rotF : Nat                 -- f of R136
  first : Nat                -- panel row of index 0
  streamed : Bool            -- not local (R412)
  lo : Nat                   -- panel rows the share needs: first, and one past the last
  hi : Nat
deriving DecidableEq, Repr

/-- An operand before any header is read. -/
def opSrc0 : OpSrc := ⟨0, [], false, 0, 0, 64, 0, 0, false, 0, 0⟩

/-- A check request (R205): who is checked, what it was computed from, and what has been formed. -/
structure Check where
  stage : Nat                -- 0 partner computes, 1 the checked tile repeats, 2 third computation
  uid : Nat                  -- the GEMM: its identifier, ring, descriptor, operation index and step
  ring : Nat
  bytes : List Byte
  iota : Nat
  step : Nat
  tile : Nat                 -- checked logical tile
  phys : Nat                 -- physical tile that posted it
  partner : Nat              -- partner physical tile
  under : Nat                -- understudy physical tile, 0xFF none
  i : Nat
  j : Nat
  opA : OpSrc
  opB : OpSrc
  ranges : List (Nat × Nat)  -- operand ranges that stay in place (R194)
  d1 : List Byte
  dp : List Byte
  d2 : List Byte
  sumFail : Bool
  ordinal : Nat              -- the checked tile's post count at the post (R206)
deriving DecidableEq, Repr

/-- A bank that holds an output tile (R153): its GEMM, whether the fraction selected it at its first pass (R203), and P and Q of its
rows and columns for the sum check (R200). -/
structure BankRec where
  uid : Nat
  ord : Nat                  -- order of accumulation among the banks held
  selected : Bool
  bank : Bank
  rowPQ : List (Num × Num)
  colPQ : List (Num × Num)
deriving DecidableEq, Repr

/-- A remap entry (R190): home range as offsets in the partition, and where the widened output stands. -/
structure Remap where
  uid : Nat
  home : Nat
  homeLen : Nat
  inRegion : Bool
  places : List Nat          -- device address of each panel record
  width : Nat                -- rung code
  recSize : Nat
  recs : Nat
deriving DecidableEq, Repr

/-- A physical tile. -/
structure Tile where
  failed : Bool
  fenced : Bool
  logical : Option Nat
  service : Bool             -- an understudy in service
  dmaBytes : Nat
  castProfile : Nat
  castTrigger : Nat
  castPanels : Nat
  castSat : Nat
  castCrush : Nat
  castNonfin : Nat
  castOutlier : Nat
  castOvf : Nat
  castPoison : Nat
  meReference : Bool
  meProfile : Nat
  meEvent : Nat
  meConfig : Nat             -- bits [15:0] of TILE_ME_CONFIG
  meO : Nat
  meMac : Nat
  meSkip : Nat
  meOut : Nat
  meSat : Nat
  meNonfin : Nat
  mePoison : Nat
  meRescale : Nat
  meRange : Nat
  banks : Tab BankRec        -- by bank number
  seDrain : Bool
  seGraph : Nat
  seStages : Nat
  seRate : Nat
  seElems : Nat
  seStall : Nat              -- ACLK the engine waited for a free entry: free values (R181, log entry 17)
  seRuns : Nat
  seSat : Nat
  seNonfin : Nat
  sePoison : Nat
  seRngOp : Nat
  queue : List QEntry        -- four entries
  qHead : Nat
  qTail : Nat
  ldRung : Nat
  ldTriggers : Nat
  ldInRegion : Bool
  ldRepeats : Nat
  ldReports : Nat
  ldSplits : Nat
  remap : List Remap
  checks : List Check        -- the check queue, at most 8
  overflowChecks : List Check -- requests waiting for a full queue, in posting order
  posted : Nat               -- output tiles posted for the colony (R206)
  lastOutcome : Nat
  partner : Nat
  sumFails : Nat
  dupCnt : Nat
  dupMismatch : Nat
  partnerCnt : Nat
deriving DecidableEq, Repr

/-! ### Rings and started descriptors (R388 to R412) -/

/-- A fetched descriptor that has not started: its place counted in slots since the ring was enabled, its bytes, and the status
that a slot which could not be read completes with (R390). -/
structure Desc where
  place : Nat
  bytes : List Byte
  fetch : Nat                -- 0 read
deriving DecidableEq, Repr

/-- A ring: its registers (R451), the values sampled at enable, and its descriptors. Places are counted in slots since the
enable; the slot number is the place modulo the size, and the pass its quotient (R392). -/
structure Ring where
  base : Nat
  cplBase : Nat
  ctrl : Nat                 -- bits [2:1] locations and [12:8] log2 size, as written
  enable : Bool
  sBase : Nat
  sCpl : Nat
  sSize : Nat                -- slots
  sRingDev : Bool
  sCplDev : Bool
  halted : Bool
  haltCode : Nat
  haltAt : Nat
  head : Nat                 -- place of the oldest descriptor not started
  fetchAt : Nat              -- place of the next slot to fetch
  tail : Nat                 -- slot of the last doorbell
  retired : Nat              -- place after the last of the unbroken run of completed slots
  done : List Nat            -- completed places beyond it
  queue : List Desc          -- fetched and not started, oldest first
  removing : Bool            -- R411: removal up to TXN_END (colony) or COMMIT (control) under way
  openAhead : Bool           -- R406: a TXN_BEGIN ahead in the ring with no COMMIT between
  ended : Bool               -- R410: TXN_END of the open step has executed; later descriptors wait
  gen : Nat                  -- enables so far (the model's own): a descriptor of an earlier enable moves no place
deriving DecidableEq, Repr

/-- The part of a started tile descriptor on one logical tile of its share. -/
structure Part where
  tile : Nat
  first : Nat                -- first unit of the share (output-tile column or row, row, panel row)
  count : Nat
  next : Nat                 -- ordinal of the next output tile to accumulate
  total : Nat
  drained : Nat
  block : List Byte          -- port block, read once when the share starts (R397)
  opA : OpSrc                -- operands of a GEMM
  opB : OpSrc
  segA : Nat                 -- segments read of the current output tile (R412)
  segB : Nat
  select : Option Bool       -- the fraction's choice, made when the first pass of the current output tile starts (R203)
  gotA : List PB
  gotB : List PB
  unit : Bool                -- a ladder unit (R182)
  rung : Nat
  startRung : Nat
  cur : Nat                  -- triggers of the rung's cast
  trig : Nat                 -- triggers seen at every rung
  castIn : List (Nat × Nat × List (List Elem))   -- inputs of the CASTW stage: first row and column within the share, rows
  sat : Nat                  -- events of the rung's cast
  crush : Nat
  panels : Nat
  ovf : Bool
  castDone : Bool            -- the rung's cast has ended; LADDER_MOVE decides
  resolved : Bool
  reported : Bool
  range : Bool
deriving DecidableEq, Repr

/-- A started descriptor that is not complete. -/
structure Active where
  uid : Nat
  ring : Nat
  place : Nat                -- place in the ring, and the ring's count of enables when it started
  gen : Nat
  bytes : List Byte
  iota : Nat
  indexed : Bool             -- took an operation index
  reads : List (Nat × Nat)   -- ranges it reads and writes: device address and length (R391)
  writes : List (Nat × Nat)
  step : Nat
  parts : List Part
  status : Nat
  nonfin : Nat
  poison : List (Nat × Nat)  -- classes of poison consumed (rows of the table Poison rules) and first address
  wait : List (List Nat)     -- outstanding requests of a collective: owner, entry, offset, length, destination
  done : Bool                -- every effect of its own has happened
  kept : List (Nat × List PB × Nat)  -- writes held until nothing can refuse the descriptor (R297): address, bytes, entry it versions plus 1
  mem : List Nat             -- values the kind keeps
  hold : Bool                -- completion withheld for the close of the step (R410)
deriving DecidableEq, Repr

/-! ### The step (R49 to R65, R335 to R348) -/

/-- A retraction of this module that waits for RETRACT_DONE, or one received that waits to be answered (R337, R338). -/
structure Retract where
  moduleId : Nat
  mb : Nat
  peers : List Nat
  cause : Nat
  consumed : Bool
  uses : List (Nat × Nat × Nat)      -- chain, bucket and the run id whose completion ends the use of the retracted data
  mbs : List Nat             -- own micro-batches withdrawn because they used it
deriving DecidableEq, Repr

/-- The step transaction: open, or the aborted attempt until the retry opens (R50, R335, R345, R346). -/
structure Txn where
  step : Nat
  seed : Nat
  fence : List Nat           -- fence peers (R336)
  ends : Nat                 -- TXN_END executed, one bit per colony
  pledged : Bool
  settledOnce : Bool
  cleanGen : Nat             -- generation of the next CLEAN (R339)
  committing : Bool
  aborted : Bool
  abortSent : Bool           -- STEP_ABORT sent (order 5)
  closed : Bool              -- orders 1–6 of an abort done
  cause : Nat
  origin : Nat
  withdrawn : List Nat
  left : List (Nat × Nat)    -- results of a micro-batch sent to a peer: (micro-batch, peer)
  wrote : List (Nat × Nat × Nat)     -- ranges that descriptors of a micro-batch write: (micro-batch, address, length)
  got : List (Nat × Nat × Nat)       -- ranges where data of a peer stands: (peer, address, length)
  used : List (Nat × Nat)    -- uses of a peer's data: (peer, micro-batch), 256 for step-wide work (R211)
  retracted : List (Nat × Nat)       -- retractions received: (peer, cause)
  rsent : List Retract
  rrecv : List Retract
  gone : List Nat            -- fence peers that have departed (R340, R345)
  lostWait : Bool            -- a fence peer departed before its CLEAN (R341)
  gotCommitting : Bool
  committingH : Nat
  inputs : List (Nat × List Byte)    -- order key and 32-byte entry (R357)
  tables : List (Nat × List Byte)
  repeats : List (Nat × List Byte)   -- order key and 32-byte repeat record (R212)
  layers : Tab (Nat × Nat)           -- ladder units and widened units per layer (R197)
  behind : Bool              -- aborted, and shown to be behind (R343)
  updDigest : Nat            -- update part digest so far (R348)
deriving DecidableEq, Repr

/-! ### Reductions (R310 to R322) -/

/-- A piece of a bucket: the elements received as RSUM or RESULT so far. -/
structure Piece where
  rail : Nat
  k : Nat
  sums : Nat                 -- elements of the running sum accepted or sent
  results : Nat              -- elements of the result written
  mask : Nat
  sumP : Nat
deriving DecidableEq, Repr

/-- A bucket in REDUCE. -/
structure Bucket where
  chain : Nat
  bucket : Nat
  uid : Nat
  colony : Nat
  step : Nat
  entries : List UEntry
  rne : Bool
  resPair : Bool
  contrib : Nat
  result : Nat
  groups : Nat               -- groups of the bucket (64 B16P elements each when it has no entries)
  mbs : List Nat             -- micro-batches in the contribution
  p : Nat
  present : Bool
  runId : Nat
  runs : Nat
  leads : Nat                -- run ids issued by this module as leader
  excluded : Nat             -- mask
  asked : Nat                -- members that asked for a re-run or departed (mask)
  pieces : List Piece
  arrived : List Nat         -- groups whose result line has arrived whole, in order, not yet updated
  stale : List (Nat × Nat)   -- queued groups of the superseded version with their divisors, until the newer version arrives (R269)
  took : Nat                 -- mask of the members whose contribution reached this module in any run of the step (R211)
  updated : List Nat         -- groups updated from the newest version
  everUpdated : List Nat
  nonfin : Bool              -- a non-finite element written from the newest version
  resDigest : Nat
  updDigest : Nat
  bite : Nat                 -- abort cause of poison that an update consumed; 0 none
  complete : Bool
deriving DecidableEq, Repr

/-! ### Peers and ports (R273 to R295) -/

/-- A message sent: kept until it is acknowledged (R284). -/
structure Sent where
  cls : Nat
  typ : Nat
  sequenced : Bool
  seq : Nat
  step : Nat
  params : List Byte
  body : List PB
  uid : Option Nat
deriving DecidableEq, Repr

/-- A chunk on a port with its tag (table Chunk tag). -/
structure Chunk where
  cls : Nat
  poison : Bool
  first : Bool
  last : Bool
  bytes : List Byte
deriving DecidableEq, Repr

/-- A frame in a replay buffer. -/
structure Frame where
  seq : Nat
  chunks : List Chunk
  replays : Nat
deriving DecidableEq, Repr

/-- A fabric port (R294) with its link-layer state. -/
structure Port where
  link : Nat                 -- 0 down, 1 training, 2 up, 3 width change, 4 disabled
  width : Nat
  group : Nat
  reversed : Bool
  locked : Nat
  enable : Bool
  maxWidth : Nat
  maxField : Nat             -- PORT_CTRL.max_width as written: 3 acts as 2
  arb : Nat
  partnerAddr : Nat
  partnerValid : Bool
  partnerSwitch : Bool
  partnerId : Nat
  fecCorr : Nat
  fecUncorr : Nat
  crcErr : Nat
  replays : Nat
  linkDowns : Nat
  poisonTx : Nat
  poisonRx : Nat
  err : Nat
  held : Bool                -- failed its swatch loopback (R463)
  txSeq : Nat
  rxSeq : Nat
  replay : List Frame        -- oldest first
  nakNext : Bool
  nakArmed : Bool            -- a nak was set; the repeat waits for the timer
  credits : List Nat         -- per class
  creditSeen : List Nat      -- last credit[c] received
  freed : List Nat           -- chunks freed per class since link up
  sentChunks : List Nat      -- chunks sent per class since link up
  queues : List (List Chunk) -- per class
  rxBuf : List (List Chunk)  -- per class, chunks of the message being received
  turn : Nat                 -- class whose turn it is in the round of R282, and what is left of a turn under way
  turnLeft : Nat
  widthReq : Option (Nat × Nat × Nat)   -- width, group, width_seq asked for
  widthAcc : Option (Nat × Nat × Nat)   -- width, group, width_seq to take effect on sending
  widthPeer : Option (Nat × Nat × Nat)  -- request to be answered
  before : Nat               -- width held before HOLD
  back : Nat                 -- return of that width (R470): 0 none, 1 under way, 2 failed and waiting to retrain, 3 retraining
  out : List (List Byte)     -- frames sent, newest first (the model's own)
deriving DecidableEq, Repr

/-- A peer context (R287, R295), with what the scout and the steps record about the peer. -/
structure Peer where
  state : Nat                -- 0 FREE, 1 SELF, 2 SCOUTING, 3 JOINED, 4 REFUSED, 5 DEPARTED
  onAux : Bool
  stranded : Bool
  cause : Nat
  moduleId : Nat
  jobId : Nat
  digest : List Byte
  committed : Nat
  mstate : Nat
  missed : Nat
  missedTotal : Nat
  joins : Nat
  departures : Nat
  tx : List Nat              -- next seq per class
  rx : List Nat
  unacked : List Sent        -- oldest first
  lastPort : List Nat        -- per class, port in use plus 1; 0 none
  resends : Nat
  probing : Bool
  cleanStep : Nat            -- step of the newest CLEAN held, 0 none
  cleanGen : Nat
  cleanOwn : Nat
  cleanDom : Nat
  abortStep : Nat            -- step of the STEP_ABORT held, 0 none
  abortAgain : Option (Nat × Nat)    -- cause and origin of a STEP_ABORT of the retry, arrived before the retry opened here
  ackDue : Bool
  refused : Nat              -- cause of the last REFUSE since the peer was last joined, 0 none (R290)
deriving DecidableEq, Repr

/-! ### Event log (R448, R483) -/

/-- An event-log entry. -/
structure Ev where
  seq : Nat
  step : Nat
  plane : Nat
  severity : Nat
  code : Nat
  unit : Nat
  payload : List Byte        -- padded to 32 bytes on reading
  addr : Nat
deriving DecidableEq, Repr

/-! ### Host port (R413 to R429) -/

/-- A write or message of the module towards the host, in order (the model's own record of its output). -/
inductive HostOut where
  | write (addr : Nat) (bytes : List PB) (relaxed : Bool)
  | msix (vector : Nat) (source : Nat)
  | completion (tag : Nat) (addr : Nat) (bytes : List Byte) (ep : Bool)
  | ur (tag : Nat)
  | read (tag : Nat) (addr : Nat) (len : Nat)
  | value (tag : Nat) (v : Nat)
  | doe (bytes : List Byte)
deriving DecidableEq, Repr

/-- An outstanding module read over PCI Express (R420). -/
structure HostRead where
  tag : Nat
  kind : Nat                 -- 0 restore of a host slot
  uid : Nat
  off : Nat
  len : Nat
deriving DecidableEq, Repr

/-- An AER error logged (R428): the bit of the error in the uncorrectable status register, or 32 plus its bit in the correctable one;
whether its severity was fatal; and the address of the transaction. -/
structure AerEntry where
  error : Nat
  fatal : Bool
  addr : Nat
deriving DecidableEq, Repr

/-- The host port. -/
structure HostPort where
  busMaster : Bool
  d3hot : Bool
  linkUp : Bool
  speed : Nat                -- link speed, 1 for 2.5 GT/s to 6 for 64 GT/s, and lanes; 0 while the link is down (R413)
  lanes : Nat
  cfg : HostConfig
  irqMask : Nat
  irqPending : Nat
  irqVector : List Nat       -- 29 sources
  msixTable : Tab Nat        -- DW by offset / 4
  msixPend : Tab Unit        -- vectors held pending
  held : List Nat            -- sources whose MSI-X waits for Bus Master Enable
  lost : List Nat            -- ring events to raise again (R421)
  waiting : List HostOut     -- requests that wait (R420)
  reads : List HostRead
  nextTag : Nat
  aer : List AerEntry        -- errors logged, newest first
  headerLog : Option (Nat × Nat)     -- error and address of the first transaction whose header was logged (R413)
  out : List HostOut         -- newest first
  ideKeys : Tab (List Byte × Bool)   -- keys of the link IDE stream by key set, direction and sub-stream: key and IV, in use
deriving DecidableEq, Repr

/-! ### Lifelines and restores (R349 to R363) -/

/-- A drain in progress (R352, R353): epoch, tier, the header bytes and the next offset. -/
structure Drain where
  host : Bool
  step : Nat
  uid : Option Nat           -- a LIFELINE host drain descriptor
  health : Nat
  slotAddr : Nat
  msgs : Nat                 -- identifier of its messages (buddy)
  header : List Byte         -- image header, which a host drain writes last
deriving DecidableEq, Repr

/-- An image held for a ward (R352). -/
structure Ward where
  addr : Nat                 -- ward's fabric address
  base : Nat                 -- device address of the region
  len : Nat
  received : Nat
  bad : Bool                 -- a poisoned header or digest chunk arrived
deriving DecidableEq, Repr

/-- A PERMUTE in progress (R323 to R327). -/
structure Permute where
  uid : Nat
  adopt : Bool
  gen : Nat
  mapped : Nat
  sentDone : Bool
  bytesOut : Nat
  dones : List Nat
  need : Nat                 -- incoming bytes still to come
  carried : Option Nat       -- step carried by the senders
  mismatch : Bool
  reads : List (Nat × Nat × Nat × Nat × Nat)     -- outgoing reads: receiver, new entry, offset in it, length, device address read
  writes : List (Nat × Nat × List PB)            -- writes that wait for those reads (R325): new entry, offset, bytes
deriving DecidableEq, Repr

/-- A routed SCATTER (R305 to R309): the counts an owner holds, the placements a sender holds, the slots rows took. -/
structure Route where
  uid : Nat
  owners : List Nat
  x : Nat
  e : Nat
  counts : List (Nat × List Nat)         -- per source address, rows per expert of this owner
  answered : List Nat                    -- owners whose placement this sender has taken up
  placed : Bool                          -- as owner, it has placed the rows
  expect : Nat                           -- rows this owner placed and has not received
  gave : List (List Nat)                 -- as owner: source, entry, overflow, first slot, rows
  took : List (List Nat)                 -- as sender: row, entry, overflow, slot
  back : Option Nat                      -- the reverse descriptor under way
  backLeft : Nat                         -- rows it still waits for
deriving DecidableEq, Repr

/-- A request that an owner holds until its commit (R302). -/
structure HeldReq where
  src : Nat
  step : Nat
  params : List Byte
deriving DecidableEq, Repr

end Sys2Proof.Machine
end

