-- ==== Sys2Proof/Machine/Frame.lean ====
section
/-! DEFINITION. Frame.lean: frames of a fabric port as bytes: the extended Reed-Solomon code of R276, the CRC and the control
slot of R277, and the byte order of R275. -/
namespace Sys2Proof.Machine
open Sys2Proof

/-! ### The field GF(2^8) on x^8 + x^4 + x^3 + x^2 + 1 (R276) -/

/-- Multiplication by α. -/
def gfX (a : Nat) : Nat := if 128 ≤ a then (2 * a) ^^^ 0x11D else 2 * a

/-- Product, `k` bits of the second factor. -/
def gfMulGo : Nat → Nat → Nat → Nat
  | 0, _, _ => 0
  | k + 1, a, b => (if b % 2 = 1 then a else 0) ^^^ gfMulGo k (gfX a) (b / 2)

/-- Product of two field elements. -/
def gfMul (a b : Nat) : Nat := gfMulGo 8 a b

/-- α to the power n. -/
def gfPow : Nat → Nat
  | 0 => 1
  | n + 1 => gfX (gfPow n)

/-- Inverse of a nonzero element: its power 254. -/
def gfInv (a : Nat) : Nat := (List.range 7).foldl (fun (p : Nat × Nat) _ => (gfMul p.1 p.1, gfMul p.2 (gfMul p.1 p.1))) (a, 1) |>.2

/-- Value at x of a polynomial given from its highest coefficient. -/
def gfEval (cs : List Nat) (x : Nat) : Nat := cs.foldl (fun acc c => gfMul acc x ^^^ c) 0

/-- Sum of two polynomials given from their constant term. -/
def gfAddP : List Nat → List Nat → List Nat
  | [], q => q
  | p, [] => p
  | a :: p, b :: q => (a ^^^ b) :: gfAddP p q

/-- Product of two polynomials given from their constant term. -/
def gfMulP : List Nat → List Nat → List Nat
  | [], _ => []
  | a :: p, q => gfAddP (q.map (gfMul a)) (0 :: gfMulP p q)

/-! ### The code (R276) -/

/-- The generator polynomial, from its highest coefficient. -/
def rsGen : List Nat := ((List.range 47).foldl (fun g i => gfMulP [gfPow (i + 1), 1] g) [1]).reverse

/-- One step of the division by the generator. -/
def rsShift (g : List Nat) (reg : List Nat) (m : Nat) : List Nat :=
  let fb := m ^^^ reg.headD 0
  List.zipWith (fun a b => a ^^^ b) (reg.drop 1 ++ [0]) (g.map (gfMul fb))

/-- Parity symbols 208–255 of 208 data symbols. -/
def rsParity (data : List Nat) : List Nat :=
  let par := data.foldl (rsShift (rsGen.drop 1)) (List.replicate 47 0)
  par ++ [(data ++ par).foldl (fun a b => a ^^^ b) 0]

/-- Syndromes of symbols 0–254, from the power `j0`; the first is that of the extension symbol when j0 is 0. -/
def rsSyndromes (r : List Nat) (j0 : Nat) : List Nat :=
  let c := r.take 255
  (if j0 = 0 then [c.foldl (fun a b => a ^^^ b) (r.getD 255 0)] else []) ++ (List.range 47).map fun i => gfEval c (gfPow (i + 1))

/-- State of the search for the error locator: locator, previous locator, length, shift and previous discrepancy. -/
structure Search where
  c : List Nat
  b : List Nat
  len : Nat
  m : Nat
  bd : Nat

/-- One step of the search, over syndrome n. -/
def searchStep (s : List Nat) (q : Search) (n : Nat) : Search :=
  let d := ((List.range (q.len + 1)).map fun i => if i ≤ n then gfMul (q.c.getD i 0) (s.getD (n - i) 0) else 0).foldl (fun a b => a ^^^ b) 0
  if d = 0 then { q with m := q.m + 1 }
  else
    let k := gfMul d (gfInv q.bd)
    let c1 := gfAddP q.c (List.replicate q.m 0 ++ q.b.map (gfMul k))
    if 2 * q.len ≤ n then ⟨c1, q.c, n + 1 - q.len, 1, d⟩ else { q with c := c1, m := q.m + 1 }

/-- The error locator of a list of syndromes and its degree. -/
def rsLocator (s : List Nat) : List Nat × Nat :=
  let q := (List.range s.length).foldl (searchStep s) ⟨[1], [1], 0, 1, 1⟩
  (q.c, q.len)

/-- Corrects symbols 0–254 for at most `t` errors found from the syndromes that begin at power j0. -/
def rsCorrect (r : List Nat) (j0 t : Nat) : Option (List Nat × Nat) :=
  let s := rsSyndromes r j0
  if s.all (· == 0) then some (r, 0)
  else
    let l := rsLocator s
    let asc (p : List Nat) (x : Nat) : Nat := gfEval p.reverse x
    let pos := (List.range 255).filter fun j => asc l.1 (gfPow ((255 - (254 - j)) % 255)) == 0
    if t < l.2 ∨ pos.length ≠ l.2 then none
    else
      let om := (gfMulP s l.1).take s.length
      let dl := (l.1.drop 1).mapIdx fun i c => if i % 2 = 0 then c else 0
      let fix := pos.foldl (fun r j =>
        let xi := gfPow ((255 - (254 - j)) % 255)
        let e := gfMul (asc om xi) (gfInv (asc dl xi))
        r.set j (r.getD j 0 ^^^ gfMul e (if j0 = 0 then gfPow (254 - j) else 1))) r
      if (rsSyndromes fix j0).all (· == 0) then some (fix, pos.length) else none

/-- Decodes a codeword: its data symbols and the symbols corrected, up to 24 in any positions, or none (R276). -/
def rsDecode (r : List Nat) : Option (List Nat × Nat) :=
  match rsCorrect r 0 24 with
  | some (c, n) => some (c.take 208, n)
  | none =>
    match rsCorrect r 1 23 with
    | some (c, n) => some (c.take 208, n + 1)
    | none => none

/-! ### CRC-32C (R277) -/

/-- One bit of the CRC. -/
def crcBit (c : Nat) : Nat := if c % 2 = 1 then (c / 2) ^^^ 0x82F63B78 else c / 2

/-- One byte of the CRC. -/
def crcByte (c : Nat) (b : Byte) : Nat := (List.range 8).foldl (fun c _ => crcBit c) (c ^^^ b.toNat)

/-- CRC-32C of a byte string. -/
def crc32c (bs : List Byte) : Nat := (bs.foldl crcByte 0xFFFFFFFF) ^^^ 0xFFFFFFFF

/-! ### Frames (R275, R277) -/

/-- The fields of a control slot (table Control slot). -/
structure Slot where
  seq : Nat
  ack : Nat
  typ : Nat
  nak : Bool
  width : Nat
  group : Nat
  widthSeq : Nat
  credit : List Nat
deriving DecidableEq, Repr

/-- Code of a width: 0 x8, 1 x4, 2 x2. -/
def widthCode (w : Nat) : Nat := if w = 8 then 0 else if w = 4 then 1 else 2

/-- The width of a code; 3 acts as 2 (R294). -/
def widthOf (c : Nat) : Nat := if c = 0 then 8 else if c = 1 then 4 else 2

/-- Tag byte of a chunk (table Chunk tag). -/
def tagByte (c : Chunk) : Byte := BitVec.ofNat 8 (c.cls % 8 + 8 * b2n c.poison + 16 * b2n c.first + 32 * b2n c.last + 64)

/-- The 1,664 data bytes of a frame. -/
def frameData (s : Slot) (chunks : List Chunk) : List Byte :=
  let tags := chunks.map tagByte
  let head := natLE 4 s.seq ++ natLE 4 s.ack ++ natLE 1 s.typ ++ natLE 1 (b2n s.nak) ++ natLE 2 (widthCode s.width + 4 * s.group) ++
    natLE 4 s.widthSeq ++ ((List.range 8).map fun c => natLE 2 (s.credit.getD c 0)).flatten ++ sub tags 0 25 ++ zeros 3
  let body := sub (chunks.map fun c => sub c.bytes 0 64).flatten 0 1600
  head ++ natLE 4 (crc32c (head ++ body)) ++ body

/-- The 2,048 bytes of a frame: frame byte i is symbol i div 8 of codeword i mod 8 (R275). -/
def frameBytes (s : Slot) (chunks : List Chunk) : List Byte :=
  let data := frameData s chunks
  let par := (List.range 8).map fun c => rsParity ((List.range 208).map fun j => byteAt data (8 * j + c))
  data ++ (List.range 384).map fun i => BitVec.ofNat 8 ((par.getD (i % 8) []).getD (i / 8) 0)

/-- What the receiver finds in a frame: uncorrectable, failing its CRC, or its control slot and valid chunks; with the symbols
corrected. -/
inductive FrameIn where
  | uncorrectable (fixed : Nat)
  | badCrc (fixed : Nat)
  | ok (s : Slot) (chunks : List Chunk) (fixed : Nat)
deriving DecidableEq, Repr

/-- Reads a frame (R276, R277). -/
def readFrame (bs : List Byte) : FrameIn :=
  let words := (List.range 8).map fun c => rsDecode ((List.range 256).map fun j => byteAt bs (8 * j + c))
  let ws := words.filterMap id
  let fixed := (ws.map (·.2)).sum
  if words.any Option.isNone then .uncorrectable fixed
  else
    let data : List Byte := (List.range 1664).map fun i => BitVec.ofNat 8 (((ws.getD (i % 8) ([], 0)).1).getD (i / 8) 0)
    if crc32c (data.take 60 ++ data.drop 64) ≠ field data 60 4 then .badCrc fixed
    else
      let wa := field data 10 2
      let slot : Slot := ⟨field data 0 4, field data 4 4, byteAt data 8, bitAt (byteAt data 9) 0, widthOf (wa % 4), (wa / 4) % 4,
        field data 12 4, (List.range 8).map fun c => field data (16 + 2 * c) 2⟩
      let chunks := (List.range 25).filterMap fun i =>
        let t := byteAt data (32 + i)
        if bitAt t 6 then some (⟨t % 8, bitAt t 3, bitAt t 4, bitAt t 5, sub data (64 + 64 * i) 64⟩ : Chunk) else none
      .ok slot chunks fixed

end Sys2Proof.Machine
end

