-- ==== Sys2Proof/Config.lean ====
section
/-! DEFINITION. Config.lean: what the specification leaves open (free values, log entries named at each), and the functions of
units whose inside it does not give. Each is opaque: no proof can see a value of it. -/
namespace Sys2Proof.Config
open Sys2Proof

/-- Free value: what a byte of stack memory reads as before anything was written to it since the stacks lost power; the
arguments are the count of power losses and the address (R241, R242; log entry 10). -/
opaque neverWritten : Nat → Nat → Byte

/-- Free value: which bytes of a stack sector that was never written fail their parity check, as a mask of 64 bits; the
arguments are the count of power losses and the sector number (R241, R242; log entry 10). -/
opaque neverWrittenParity : Nat → Nat → Nat

/-- Free value: the severity of an event-log entry by its code; the manual lists four severities and assigns none (R483; log
entry 11). -/
opaque severity : Nat → Nat

/-- Free value: spare rows of a bank, by stack, pseudo-channel and bank (R246; log entry 12). -/
opaque spareRows : Nat → Nat → Nat → Nat

/-- Free value: the event code of a completion record that could not be written; the manual records an event and names no code
(R392; log entry 13). -/
opaque lostRecordEvent : Nat

/-- Free value: the tag of a slot that could not be read, by the count of free values drawn (R390, R392; log entry 14). -/
opaque lostTag : Nat → Nat

/-- SLH-DSA-SHAKE-256s verification of FIPS 205 in its pure mode with an empty context, by public key, message and signature; the
manual names the standard and gives no procedure (R367, R488, R493; log entry 15). -/
opaque slhVerify : List Byte → List Byte → List Byte → Bool

/-- Public keys anchored in OTP, by the module's OTP and the key: 0 firmware, 1 pattern, 2 debug (R488, R492, R499; log entry 15). -/
opaque otpKey : Nat → Nat → List Byte

/-- Free value: number of the swatch test that a unit failed, by unit kind and unit (R464, R483; log entry 16). -/
opaque swatchTest : Nat → Nat → Nat

/-- Free value: a number of clock cycles that pass, by what counts them and the count of free values drawn: the gauges and the stall count, as
the model holds no time (R181, R484, R486; log entry 17). -/
opaque timing : Nat → Nat → Nat

/-- Rated pin rate of stack m above its least value of 128, in units of 0.1 Gb/s: fixed by each module (R215, R455; log entry 18). -/
opaque ratedRate : Nat → Nat

/-- Free value: cause code of the retraction that follows a stale shard or a departed owner; the manual names four causes and none
is theirs (R210, R303, R305; log entry 32). -/
opaque retractCause : Nat

/-- Free value: cause of the link-down event that a retrain write leaves; the manual gives causes for the other exits only (R294,
R515; log entry 33). -/
opaque retrainCause : Nat

/-- Free value: the table that a record of an L4 operand decodes through where its own header, not the operand's first, names a colony
and profile that the loaded pattern does not hold (R117, R514; log entry 45). -/
opaque absentTable : Nat → Nat → List Nat

/-- Free value: the event code of a descriptor that reads the home bytes of a widened tensor; the manual records an event and names no
code (R191, R483; log entry 47). -/
opaque homeReadEvent : Nat

/-- The module's UUID, by its OTP: fixed by each module (R477; log entry 48). -/
opaque endpointUuid : Nat → Nat → Byte

/-- Version entries of Get MCTP Version Support, by message type, and the version of GetPLDMVersion, by PLDM type: the manual names the
commands and no version (R477; log entry 48). -/
opaque mctpVersion : Nat → Nat → Byte
opaque pldmVersion : Nat → Nat → Byte

/-- Contents of the PDR repository beyond its count of records, and each record by its handle (R477, R481; log entry 48). -/
opaque pdrInfo : Nat → Byte
opaque pdr : Nat → List Byte

/-- Free value: the previous state that a sensor reading reports, by sensor and count of free values drawn (R481; log entry 48). -/
opaque previousState : Nat → Nat → Nat

/-- Answer of GetFirmwareParameters beyond its capabilities and its count, by baseline, security version and whether an update is
pending (R491; log entry 48). -/
opaque firmwareParameters : Nat → Nat → Bool → List Byte

/-- Free value: the time that the module states for an activation, in seconds (R491; log entry 48). -/
opaque activationTime : Nat

/-- The fields that a firmware body carries; the manual names them and gives no offset (R488; log entry 49). -/
opaque fwLength : List Byte → Nat
opaque fwBaseline : List Byte → Nat
opaque fwVersion : List Byte → Nat

/-- The security root's random source: byte of a draw, by OTP, index of the draw and byte (R499; log entry 50). -/
opaque random : Nat → Nat → Nat → Byte

/-- Byte of the digest of the boot loader ROM (R497; log entry 51). -/
opaque romDigest : Nat → Byte

/-- The certificate chain of slot 0, by OTP and module ID (R494; log entry 51). -/
opaque certChain : Nat → Nat → List Byte

/-- Byte of an SLH-DSA-SHAKE-256f signature by the attestation key, by OTP, index of the random draw, message and byte (R494, R496; log
entry 51). -/
opaque attestSign : Nat → Nat → List Byte → Nat → Byte

/-- Byte of the public value of the module's P-384 key, by OTP, index of the random draw and byte (R496; log entry 51). -/
opaque dhePublic : Nat → Nat → Nat → Byte

/-- Byte of the P-384 Diffie-Hellman secret of a session, by the module's draw and the requester's public value (R496; log entry 51). -/
opaque dheSecret : Nat → List Byte → Nat → Byte

/-- AES-256-GCM under a session's keys: sealing, by draw, requester's public value, generation, sequence and plaintext; and opening
(R496; log entry 51). -/
opaque aeadSeal : Nat → List Byte → Nat → Nat → List Byte → List Byte
opaque aeadOpen : Nat → List Byte → Nat → List Byte → Option (List Byte)

/-- Free value: the heartbeat period of a session, in seconds (R495; log entry 51). -/
opaque heartbeatPeriod : Nat

/-- Byte of the answer to an IDE_KM query: the location of the port and its IDE registers (R413, R495; log entry 53). -/
opaque ideQuery : Nat → Byte

/-- Free value: which of the abort causes that the table Poison rules give is that of a poisoned table entry (R233, R344; log entry 150). -/
opaque tableCause : Nat

/-- Free value: the event code of a non-finite event in setup work; the manual records an event and names no code (R199, R483; log entry
155). -/
opaque setupNonfinEvent : Nat

end Sys2Proof.Config
end

