-- ==== Sys2Proof/Machine/State.lean ====
section
/-! DEFINITION. State.lean: the state of the module, all of it plain data; the reasons a step can stop; and the state after reset. -/
namespace Sys2Proof.Machine
open Sys2Proof

/-- Faults. No command of this hardware ends in one: what the specification calls a fault of the module is the module state
FAULT or a status, which are next states. The one constructor stands for a state that no command leads to; nothing raises it
(safe). -/
inductive Fault where
  | never
deriving DecidableEq, Repr

/-- Refusals. `notModelled` rejects a command that has no meaning yet, by its mnemonic, raised by `exec` alone (safe: nothing is
claimed of such a command). -/
inductive Refusal where
  | notModelled (mnemonic : String)
deriving DecidableEq, Repr

/-- The power path, the clocks' throttle and the inputs (R456 to R476, R506 to R513). -/
structure Pwr where
  mainCv : Nat               -- MAIN voltage in 0.01 V
  auxCv : Nat
  mainOpen : Bool            -- disconnected or opened by the power path
  auxOpen : Bool
  mainOk : Bool
  auxOk : Bool
  qualified : Bool
  forced : Bool
  capEnable : Bool
  qualify : Nat
  cap : Nat
  maxN : Nat
  nCap : Nat
  nThermal : Nat
  capUnmet : Bool
  events : Nat               -- PWR_EVENTS bits [7:0]
  mainPower : Nat
  auxPower : Nat
  toAux : Nat
  returns : Nat
  bootOrder : Nat            -- last order of the table Power-up that has ended; 0 at entry to BOOT
  mainWas : Bool             -- MAIN has been lost since power was applied (main_returned, R476)
  stopped : Bool             -- start-up stopped under R462
  switchStage : Nat          -- 0 none; 1 a switch-over past order 4 that has not reached HOLD
  holdReturn : Nat           -- state code HOLD returns to
  thermTrip : Bool           -- THERMTRIP_N driven low
  pwrgd : Bool
  tripOpen : Bool            -- inputs held open until TRIP_RELEASE
  deadDies : List Nat        -- dies whose PLL has lost lock (R31, R432): 0–3 C, 4–11 M, 12–13 I/O
deriving DecidableEq, Repr

/-- A copy of the management firmware in flash (R488). -/
structure Firmware where
  body : List Byte
  length : Nat               -- the length of the body that the body carries
  baseline : Nat
  version : Nat
  signature : List Byte
deriving DecidableEq, Repr

/-- The mailbox (R479, R501). -/
structure Mailbox where
  toBuf : Tab Nat            -- DW w of SEC_MBX_TO_CORE
  toLength : Nat
  toFirst : Bool
  toLast : Bool
  toBusy : Bool
  toPartial : List Byte
  fromBuf : List Byte        -- fragment that waits for the driver
  fromReady : Bool
  fromFirst : Bool
  fromLast : Bool
  fromRest : List Byte       -- rest of the message being answered
  fromWait : List (List Byte)        -- messages behind it, oldest first
deriving DecidableEq, Repr

/-- An SPDM connection of one path (R495, R496): the messages that its signatures and keys cover, the session, and the chunks of a
message too large for one transfer. -/
structure Spdm where
  path : Path
  stage : Nat                -- 0 none, 1 version, 2 capabilities, 3 algorithms negotiated
  transferSize : Nat         -- DataTransferSize of the requester
  keyExchange : Bool         -- the DHE group, the AEAD and the key schedule were selected
  vca : List Byte            -- version, capabilities and algorithms messages
  certs : List Byte          -- digests and certificate messages
  meas : List Byte           -- measurement messages since the last signature
  keys : List Byte           -- key exchange and finish messages
  session : Nat              -- 0 none, 1 key exchange done, 2 finished
  sessionId : Nat
  secret : Nat               -- the module's Diffie-Hellman key, by the index of the random draw that made it
  peerKey : List Byte        -- the requester's public value
  keyReq : Nat               -- key generation of each direction
  keyRsp : Nat
  seqRsp : Nat               -- secured responses sent under the generation
  chunkIn : List Byte
  chunkInHandle : Nat
  chunkInSeq : Nat
  chunkInSize : Nat          -- 0 while no large request is arriving
  chunkOut : List Byte       -- large response that waits; empty for none
  chunkOutHandle : Nat
  chunkOutSeq : Nat
deriving DecidableEq, Repr

/-- The management plane and the security root (R477 to R501), with module flash and OTP. -/
structure Sec where
  otpVersion : Nat           -- OTP
  copyA : Firmware           -- flash
  copyB : Firmware
  activeB : Bool             -- flash: copy B is the active copy
  runningB : Bool
  recovery : Bool
  updatePending : Bool
  fwDigest : List Byte
  slot0Disabled : Bool       -- flash
  slots : Tab (Nat × List Byte)      -- flash: slots 1–7: state 0 empty, 1 active, 2 revoked, and key
  keySeq : Nat               -- flash: stored sequence
  attest : Bool
  debugScope : Nat
  debugOn : Bool
  debugIssuer : Nat
  debugAttempts : Nat
  nonce : Option (List Byte)
  draws : Nat                -- random values drawn from the root's source (model's own)
  score : Nat                -- a of R487
  health : Nat
  operatorFloor : Nat
  idLed : Nat
  readings : List Nat        -- newest sensor samples (R481)
  warn : List Bool           -- sensors above the warning and the critical threshold, in order
  crit : List Bool
  tcrit : List Bool          -- dies and stacks at T_critical at the last THERMAL_TICK
  dynAddr : Nat
  eids : Tab Nat             -- endpoint ID by path number
  tid : Nat
  upMax : Nat                -- largest transfer of the update agent
  upPrev : Nat               -- stage before this one
  upStage : Nat              -- firmware update: 0 idle, 1 learn, 2 ready, 3 download, 4 verify, 5 apply, 6 activate
  upSize : Nat
  upData : List Byte
  upOk : Bool
  mbx : Mailbox
  spdm : List Spdm
  attestWait : List (Nat × Path)     -- PEER_ATTEST requests waiting for a peer
  finals : List (Nat × Nat × Nat)    -- flash: final records (step, state, cause), newest first
  otp : Nat                  -- which OTP anchors the opaque keys come from (model's own)
  resp : List (Path × List Byte)     -- responses sent, newest first (model's own)
deriving DecidableEq, Repr

/-- The control plane's registers (R450) and its record of the job. -/
structure Ctl where
  moduleId : Nat             -- OTP (GLB_MODULE_ID)
  onAux : Bool               -- AUX carries the module (R465)
  state : Nat                -- module state code (R404)
  committed : Nat
  checkFraction : Nat
  sumCheck : Bool
  llInterval : Nat
  llHealth : Nat
  llOwn : Nat
  abortCause : Nat
  abortOrigin : Nat
  abortCount : Nat
  abortStep : Nat
  frogTarget : Nat
  llLast : Nat
  hostBase : Nat
  hostSlotSize : Nat
  hostSlots : Nat
  rlogSkipped : Nat
  rlogHead : Nat
  mirrorBase : Nat
  mirrorSize : Nat
  mirrorTail : Nat
  mirrorHead : Nat
  patBase : Nat
  patAddr : Nat
  patCode : Nat
  patSection : Nat
  patOffset : Nat
  sems : Tab Nat
  pattern : Option Pattern
  sections : Tab Sect        -- sections of the pattern in force by type, which a moult container replaces (R380)
  loading : Option Loading
  digest : List Byte         -- pattern digest (64 bytes)
  address : Nat              -- own fabric address
  visible : Bool             -- copy 1 is the visible copy
  written : List (Nat × Nat) -- region index and granule whose written bit is set (R58)
  storm : Tab (Nat × Nat)    -- per layer: start width w and steps remaining l (R197)
  txn : Option Txn
  dropped : Nat × Nat        -- dropped-write events recorded, with their step number (R42, R56)
  deferred : Option (Nat × Nat)      -- abort cause and origin that wait for the next step (R344)
  nextIota : Tab Nat         -- per colony: next operation index of the step
  nextSetup : Tab Nat        -- per colony: setup descriptors counted (R394)
  phase : Tab Nat            -- per colony: gauge phase of the last MARK
  domain : Nat               -- D_s of the anchor (R349)
  commitDigest : List Byte   -- commit digest of the last committed step (R347)
  rlog : List (Nat × Nat × Nat)      -- records of the replay log: step, offset, length, oldest first
  mirrorQueue : List (Nat × Nat)     -- records to be mirrored: offset, length
  drains : List Drain
  wards : List Ward
  restore : Option (Nat × List PB × Bool)   -- uid of the LIFELINE, image bytes, complete
  permute : Option Permute
  routes : List Route
  held : List HeldReq
  buckets : List Bucket
  early : List (Nat × Rx)    -- accepted messages for a REDUCE, a routed SCATTER or a run that has not begun here
  banks : Tab (Tab Shard)    -- shard table banks 0 and 1
  bank : Nat
  generation : Nat
  mapped : Nat               -- mapped-out mask of the active bank
  adopt : Bool
  gatherBytes : Nat
  staleCnt : Nat
  expertOvf : Nat
  expertDrop : Nat
  rerunCnt : Nat
  absentCnt : Nat
deriving DecidableEq, Repr

/-- The data and control planes. -/
structure Dev where
  ctl : Ctl
  mem : Mem
  mdies : Tab MDie
  retired : List (Nat × Nat) -- retirement list in flash (R248): granule, pool granule, in list order
  tableBad : Tab Nat         -- sectors of the SRAM tables with failing parity (R226): table sector and mask of failing bytes
  tableReads : List Nat      -- table sectors that the control plane read poisoned since the last commit (R233)
  gauges : Tab (Nat × Nat)   -- gauges by 16 × colony + phase: edges counted, and those with n below 16 (R484, R486)
  confirms : List Confirm
  repairs : List (Row × Nat) -- row repairs queued, with the device address at fault
  retires : List (Row × Nat) -- granule retirements queued: row and device address at fault
  tiles : Tab Tile
  rings : Tab Ring
  acts : List Active         -- started descriptors, oldest first
  nextUid : Nat
  peers : Tab Peer
  ports : Tab Port
  host : HostPort
  log : Tab Ev               -- the event-log window by slot
  logSeq : Nat
  inbox : List (Nat × Rx)    -- messages whose last chunk has arrived: type and message
  shadows : Tab Nat          -- RS shadows of the driver, by BAR0 offset (R437)
  coreShadows : Tab Nat      -- RS shadows of the management core
  free : Nat                 -- count of free values drawn (model's own, not the specification's)
  points : Nat               -- health points of events since the last tick (R487)
  receiver : Option Nat      -- registered receiver of PlatformEventMessage: its endpoint ID (R477)
  alerts : List (Nat × Nat)  -- PlatformEventMessages sent: receiver and event number, newest first (model's own)
deriving DecidableEq, Repr

/-- The module: the commands that wait, first in first out, and the three planes. -/
structure State where
  pending : List Instr
  pwr : Pwr
  sec : Sec
  d : Dev
deriving DecidableEq, Repr

/-! ### The state right after reset (R10, R454; log entry 20 names the values the manual does not give) -/

/-- The power path at the entry to BOOT (R476): no input has been found in range yet. -/
def Pwr.reset : Pwr :=
  { mainCv := 0, auxCv := 0, mainOpen := false, auxOpen := false, mainOk := false, auxOk := false, qualified := false,
    forced := false, capEnable := true, qualify := 10, cap := 2400, maxN := 16, nCap := 16, nThermal := 16,
    capUnmet := false, events := 0, mainPower := 0, auxPower := 0, toAux := 0, returns := 0, bootOrder := 0, mainWas := false, stopped := false,
    switchStage := 0, holdReturn := 2, thermTrip := false, pwrgd := false, tripOpen := false, deadDies := [] }

/-- The mailbox at BOOT (R501). -/
def Mailbox.reset : Mailbox :=
  { toBuf := [], toLength := 0, toFirst := false, toLast := false, toBusy := false, toPartial := [], fromBuf := [],
    fromReady := false, fromFirst := false, fromLast := false, fromRest := [], fromWait := [] }

/-- A copy of the firmware as it ships: baseline 1.0, security version 0 (R446, R488; log entry 20). -/
def Firmware.shipped : Firmware := { body := [], length := 0, baseline := 0x0100, version := 0, signature := [] }

/-- The management plane at the entry to BOOT, with flash and OTP as the module ships (R488, R492, R493, R501). -/
def Sec.reset : Sec :=
  { otpVersion := 0, copyA := Firmware.shipped, copyB := Firmware.shipped, activeB := false, runningB := false,
    recovery := false, updatePending := false, fwDigest := [], slot0Disabled := false, slots := [], keySeq := 0, attest := false,
    debugScope := 0, debugOn := false, debugIssuer := 0, debugAttempts := 0, nonce := none, draws := 0, score := 0, health := 0,
    operatorFloor := 0, idLed := 0, readings := [], warn := [], crit := [], tcrit := [], dynAddr := 0, eids := [], tid := 0,
    upMax := 0, upPrev := 0, upStage := 0, upSize := 0, upData := [], upOk := false, mbx := Mailbox.reset, spdm := [], attestWait := [], finals := [],
    otp := 0, resp := [] }

/-- The control plane at BOOT (R450, R404). -/
def Ctl.reset : Ctl :=
  { moduleId := 0, onAux := false, state := 1, committed := 0, checkFraction := 0, sumCheck := true, llInterval := 0, llHealth := 0, llOwn := 0, abortCause := 0,
    abortOrigin := 0, abortCount := 0, abortStep := 0, frogTarget := 0, llLast := 0, hostBase := 0, hostSlotSize := 0,
    hostSlots := 0, rlogSkipped := 0, rlogHead := 0, mirrorBase := 0, mirrorSize := 0, mirrorTail := 0, mirrorHead := 0,
    patBase := 0, patAddr := 0, patCode := 0, patSection := 0, patOffset := 0, sems := [], pattern := none, sections := [], loading := none,
    digest := [], address := 0, visible := false, written := [], storm := [], txn := none, dropped := (0, 0), deferred := none, nextIota := [], nextSetup := [],
    phase := [], domain := 0, commitDigest := [], rlog := [], mirrorQueue := [], drains := [], wards := [], restore := none, permute := none,
    routes := [], held := [], buckets := [], early := [], banks := [], bank := 0, generation := 0, mapped := 0, adopt := false,
    gatherBytes := 0, staleCnt := 0, expertOvf := 0, expertDrop := 0, rerunCnt := 0, absentCnt := 0 }

/-- The configuration space at BOOT: BAR2 of 1 TiB, nothing mapped, MSI-X off (R415, R427); the severities are those of the PCI Express
standard (PRESUMED, log entry 25). -/
def HostConfig.reset : HostConfig := ⟨40, [0, 0, 0], false, 0, 0x10462030⟩

/-- The host port at BOOT (R413, R427, R447). -/
def HostPort.reset : HostPort :=
  { busMaster := false, d3hot := false, linkUp := false, speed := 0, lanes := 0, cfg := HostConfig.reset, irqMask := 0, irqPending := 0, irqVector := List.range 29,
    msixTable := [], msixPend := [], held := [], lost := [], waiting := [], reads := [], nextTag := 0, aer := [], headerLog := none, out := [],
    ideKeys := [] }

/-- The data and control planes at BOOT: every table at its reset records, memory with nothing listed. -/
def Dev.reset : Dev :=
  { ctl := Ctl.reset, mem := ⟨[], [], 0⟩, mdies := [], retired := [], tableBad := [], tableReads := [], gauges := [], confirms := [], repairs := [], retires := [], tiles := [],
    rings := [], acts := [], nextUid := 1, peers := [], ports := [], host := HostPort.reset, log := [], logSeq := 0, inbox := [],
    shadows := [], coreShadows := [], free := 0, points := 0, receiver := none, alerts := [] }

/-- The module right after reset: the entry to BOOT, with no command waiting. -/
def State.reset : State := { pending := [], pwr := Pwr.reset, sec := Sec.reset, d := Dev.reset }

end Sys2Proof.Machine
end

