-- ==== Sys2Proof/Machine/Memory.lean ====
section
/-! DEFINITION. Memory.lean: the device address space, sectors and their parity, merge buffers, reads and writes (R215 to R252,
R55 to R58), with the event log, the interrupts and the counters they touch. -/
namespace Sys2Proof.Machine
open Sys2Proof

/-! ### Reset records of the repeated units -/

/-- An M-die as it stands at reset (R252, R272). -/
def mdie0 : MDie :=
  { trained := false, fillDone := false, cacheSteps := 0, scrubEnable := true, scrubLlm := true, scrubInterval := 10,
    scrubPos := 0, scrubCount := 0, llmPos := 0, parityCnt := 0, poisonReads := 0, errAddr := 0, errFails := 0, merge := [], cache := [],
    poisonedMerges := 0, repaired := [], noSpare := 0, selfDone := false, selfPass := false, selfFirst := 0xFF,
    nmeShare := 8, nmeLaneOps := 0, nmeAccum := 0, nmeGroups := 0, nmeRepeats := 0, nmeSat := 0, nmeNonfin := 0, nmePoison := 0,
    nmeLayer := 0 }

/-- A free finished-tile queue entry. -/
def qentry0 : QEntry := ⟨0, 0, 0, 0, 0⟩

/-- A physical tile as it stands at reset. -/
def tile0 : Tile :=
  { failed := false, fenced := false, logical := none, service := false, dmaBytes := 0, castProfile := 0, castTrigger := 0,
    castPanels := 0, castSat := 0, castCrush := 0, castNonfin := 0, castOutlier := 0, castOvf := 0, castPoison := 0,
    meReference := false, meProfile := 0, meEvent := 0, meConfig := 0, meO := 0, meMac := 0, meSkip := 0, meOut := 0, meSat := 0,
    meNonfin := 0, mePoison := 0, meRescale := 0, meRange := 0, banks := [], seDrain := false, seGraph := 0, seStages := 0,
    seRate := 0, seElems := 0, seStall := 0, seRuns := 0, seSat := 0, seNonfin := 0, sePoison := 0, seRngOp := 0,
    queue := List.replicate 4 qentry0, qHead := 0, qTail := 0, ldRung := 0, ldTriggers := 0, ldInRegion := false, ldRepeats := 0,
    ldReports := 0, ldSplits := 0, remap := [], checks := [], overflowChecks := [], posted := 0,
    lastOutcome := 0, partner := 0, sumFails := 0, dupCnt := 0, dupMismatch := 0, partnerCnt := 0 }

/-- The records of unit `i`. -/
def Dev.mdie (d : Dev) (m : Nat) : MDie := tget mdie0 d.mdies m
def Dev.tile (d : Dev) (p : Nat) : Tile := tget tile0 d.tiles p
def Dev.setMdie (d : Dev) (m : Nat) (f : MDie → MDie) : Dev := { d with mdies := tmod mdie0 d.mdies m f }
def Dev.setTile (d : Dev) (p : Nat) (f : Tile → Tile) : Dev := { d with tiles := tmod tile0 d.tiles p f }
def Dev.setCtl (d : Dev) (f : Ctl → Ctl) : Dev := { d with ctl := f d.ctl }
def Dev.setHost (d : Dev) (f : HostPort → HostPort) : Dev := { d with host := f d.host }

/-! ### Interrupts and the event log (R427, R448, R483) -/

/-- Whether the module can send requests to the host now (R420 to R422). -/
def Dev.hostReady (d : Dev) : Bool := d.host.busMaster && !d.host.d3hot && d.host.linkUp

/-- Sends the MSI-X message of a source, or keeps it pending while its vector is masked, requests wait or MSI-X is off; with the link down
it is dropped, and a ring's completion event is kept to be raised again (R420, R421, R427). -/
def Dev.deliver (d : Dev) (src : Nat) : Dev :=
  let v := d.host.irqVector.getD src 0
  if !d.host.linkUp then d.setHost fun h => if src ≤ 10 then { h with lost := if h.lost.contains src then h.lost else h.lost ++ [src] } else h
  else if !d.hostReady || !d.host.cfg.msixOn then d.setHost fun h => { h with held := if h.held.contains src then h.held else h.held ++ [src] }
  else if bitAt (tget 0 d.host.msixTable (4 * v + 3)) 0 then d.setHost fun h => { h with msixPend := tset h.msixPend v () }
  else d.setHost fun h => { h with out := .msix v src :: h.out }

/-- An event of an interrupt source (R427). -/
def Dev.irq (d : Dev) (src : Nat) : Dev :=
  if bitAt d.host.irqMask src then d.setHost fun h => { h with irqPending := h.irqPending ||| 2 ^ src } else d.deliver src

/-- Maximum payload of a write or a completion (R413). -/
def maxPayload : Nat := 512

/-- The writes that carry `bs` to an address, none with more than the maximum payload: they end where the address is a multiple of it (log
entry 158). -/
def payloads (relaxed : Bool) : Nat → Nat → List PB → List HostOut
  | 0, _, _ => []
  | k + 1, a, bs =>
    let n := maxPayload - a % maxPayload
    if bs.length ≤ n then [.write a bs relaxed] else .write a (bs.take n) relaxed :: payloads relaxed k (a + n) (bs.drop n)

/-- A request or message as it leaves the port (R413). -/
def HostOut.pieces : HostOut → List HostOut
  | .write a bs r => payloads r (bs.length / maxPayload + 2) a bs
  | o => [o]

/-- A module request to the host: sent, held while requests wait, dropped while the link is down (R420, R421). -/
def Dev.toHost (d : Dev) (o : HostOut) : Dev :=
  if !d.host.linkUp then d
  else if !d.hostReady then d.setHost fun h => { h with waiting := h.waiting ++ o.pieces }
  else d.setHost fun h => { h with out := o.pieces.reverse ++ h.out }

/-- Writes an event-log entry (R37, R448, R483); its step number is that of R49. Sends it to the receiver when its severity is
error or fault. -/
def Dev.logEv (d : Dev) (plane code unit : Nat) (payload : List Byte) (addr : Nat) : Dev :=
  let e : Ev := ⟨d.logSeq, d.ctl.committed + 1, plane, Config.severity code % 4, code, unit, payload, addr⟩
  let d1 : Dev := { d with log := tset d.log (d.logSeq % 2048) e, logSeq := (d.logSeq + 1) % 2 ^ 64 }
  let d2 : Dev := match d.receiver with
    | some r => if 2 ≤ Config.severity code % 4 then { d1 with alerts := (r, d.logSeq) :: d1.alerts } else d1
    | none => d1
  d2.irq 24

/-- Adds health points (R487). -/
def Dev.health (d : Dev) (n : Nat) : Dev := { d with points := d.points + n }

/-! ### Bytes and sectors (R226, R227, R241, R242) -/

/-- Whether a table lists an index. -/
def thas {α : Type} : Tab α → Nat → Bool
  | [], _ => false
  | (j, _) :: t, i => if j = i then true else thas t i

/-- Keys of stack memory lie below this; the keys of SRAM above. -/
def stackEnd : Nat := 0x9000000000

/-- Key of byte `off` of the scratchpad of physical tile `p`. -/
def scratchKey (p off : Nat) : Nat := 0xB000000000 + p * 0x400000 + off

/-- A stored sector: its 64 bytes, and the mask of bytes whose parity fails. -/
structure Sector where
  data : List Byte
  fails : Nat
deriving DecidableEq, Repr

/-- Number of set bits of a 64-bit mask. -/
def popcount64 (m : Nat) : Nat := ((List.range 64).filter fun i => m.testBit i).length

/-- All 64 parity bits inverted. -/
def allFail : Nat := 2 ^ 64 - 1

/-- What byte `k` holds: an unlisted byte of SRAM reads 0, an unlisted byte of a stack was never written (R240, R241). -/
def Mem.byte (m : Mem) (k : Nat) : Byte :=
  if k < stackEnd ∧ !thas m.cells k then Config.neverWritten m.losses k else tget 0 m.cells k

/-- Whether the parity of byte `k` fails. -/
def Mem.fails (m : Mem) (k : Nat) : Bool :=
  if k < stackEnd ∧ !thas m.cells k then (Config.neverWrittenParity m.losses (k / 64)).testBit (k % 64) else thas m.bad k

/-- The stored sector that begins at key `b`. -/
def Mem.sector (m : Mem) (b : Nat) : Sector :=
  ⟨(List.range 64).map fun i => m.byte (b + i), ((List.range 64).map fun i => if m.fails (b + i) then 2 ^ i else 0).sum⟩

/-- Stores one byte and whether its parity fails, in the canonical form. -/
def Mem.put (m : Mem) (k : Nat) (b : Byte) (fail : Bool) : Mem :=
  { m with
    cells := if k < stackEnd ∨ b ≠ 0 then tset m.cells k b else tdel m.cells k
    bad := if fail then tset m.bad k () else tdel m.bad k }

/-- Stores a whole sector (R216, R227). -/
def Mem.store (m : Mem) (b : Nat) (s : Sector) : Mem :=
  (List.range 64).foldl (fun m i => m.put (b + i) (s.data.getD i 0) (s.fails.testBit i)) m

/-- The canonical form: addresses strictly rising, no entry equal to what an unlisted SRAM address reads as, a stack sector
listed whole or not at all, failing parity listed only for bytes that are listed or lie in SRAM. -/
def Mem.wf (m : Mem) : Bool :=
  tabOk m.cells && tabOk m.bad &&
  m.cells.all (fun c => decide (c.1 < stackEnd) || c.2 != 0) &&
  m.cells.all (fun c => !decide (c.1 < stackEnd) || (List.range 64).all fun i => thas m.cells (c.1 / 64 * 64 + i)) &&
  m.bad.all (fun c => !decide (c.1 < stackEnd) || thas m.cells c.1)

/-! ### The address map (R218 to R222, R225) -/

/-- Place in a stack: M-die, pseudo-channel, bank, row, column, sector, byte (procedure stack_place, R219). -/
structure Place where
  m : Nat
  pc : Nat
  bank : Nat
  row : Nat
  col : Nat
  sector : Nat
  byte : Nat
deriving DecidableEq, Repr

/-- procedure stack_place (R219). -/
def stackPlace (a : Nat) : Place :=
  let u := a / 256
  let v := u / 8
  let w := v / 64
  let row := w / 256
  ⟨(u % 8) ^^^ (v % 8) ^^^ ((v / 8) % 8), (v % 64) ^^^ (w % 64), (w % 64) ^^^ (row % 64), row, (w / 64) % 4, (a % 256) / 64, a % 64⟩

/-- The address of a place: each xor term of R219 undone given the higher fields. -/
def placeAddr (p : Place) : Nat :=
  let w := p.row * 256 + p.col * 64 + (p.bank ^^^ (p.row % 64))
  let v := w * 64 + (p.pc ^^^ (w % 64))
  let u := v * 8 + (p.m ^^^ (v % 8) ^^^ ((v / 8) % 8))
  u * 256 + p.sector * 64 + p.byte

/-- Index of a stack sector in scrub order on its stack (R244). -/
def scrubIndex (p : Place) : Nat := (((p.pc * 64 + p.bank) * 18432 + p.row) * 4 + p.col) * 4 + p.sector

/-- The place of a scrub index. -/
def scrubPlace (m i : Nat) : Place :=
  ⟨m, i / 16 / 18432 / 64 % 64, i / 16 / 18432 % 64, i / 16 % 18432, i / 4 % 4, i % 4, 0⟩

/-- Base of pool granule `g` of the retirement pool. -/
def poolBase (g : Nat) : Nat := 0x8FE0000000 + g * 65536

/-- Memory is degraded: the retirement list of 8,192 entries is full (R249). -/
def Dev.degraded (d : Dev) : Bool := decide (8192 ≤ d.retired.length)

/-- The retirement redirect of a stack address (R221); the newest entry of a granule holds. -/
def Dev.redirect (d : Dev) (a : Nat) : Nat :=
  match d.retired.reverse.find? (fun e => e.1 == a / 65536) with
  | some e => poolBase e.2 + a % 65536
  | none => a

/-- The physical tile that holds logical tile l. -/
def Dev.physOf (d : Dev) (l : Nat) : Option Nat :=
  (d.tiles.find? fun e => e.2.logical == some l && !e.2.fenced).map (·.1)

/-- The partition of logical tile l. -/
def Dev.part (d : Dev) (l : Nat) : Partition :=
  match d.ctl.pattern with
  | some p => p.parts.getD l ⟨0, 0, 0, 0, 0⟩
  | none => ⟨0, 0, 0, 0, 0⟩

/-- The key that a device address reaches once copies are steered: none where it is unmapped (R218, R221, R222, R225). -/
def Dev.physKey (d : Dev) (a : Nat) : Option Nat :=
  if a < 0x8FE0000000 then some (d.redirect a)
  else if 0xA000000000 ≤ a ∧ a < 0xA080000000 then
    let m := (a - 0xA000000000) / 0x10000000
    if a % 0x10000000 < (8 - (d.mdie m).cacheSteps) * 0x2000000 then some a else none
  else if 0xB000000000 ≤ a ∧ a < 0xB018000000 ∧ d.ctl.pattern.isSome then
    let l := (a - 0xB000000000) / 0x400000
    let off := a % 0x400000
    if off < (d.part l).size * 65536 then (d.physOf l).map fun p => scratchKey p off else none
  else none

/-- Regions of the loaded pattern. -/
def Dev.regions (d : Dev) : List Region := match d.ctl.pattern with | some p => p.regions | none => []

/-- The region whose copy 0 holds a device address, with its index. -/
def Dev.regionOf (d : Dev) (a : Nat) : Option (Nat × Region) :=
  (d.regions.zipIdx.find? fun e => decide (e.1.copy0 ≤ a) && decide (a < e.1.copy0 + e.1.len)).map fun e => (e.2, e.1)

/-- Whether a device address lies in a copy 1 range (R220). -/
def Dev.inCopy1 (d : Dev) (a : Nat) : Bool := d.regions.any fun r => decide (r.copy1 ≤ a) && decide (a < r.copy1 + r.len)

/-- Steers an address of a region to its visible or its working copy (R55, R220). -/
def Dev.steer (d : Dev) (working : Bool) (a : Nat) : Nat :=
  match d.regionOf a with
  | some (_, r) => if d.ctl.visible != working then r.copy1 + (a - r.copy0) else a
  | none => a

/-- The key of a requested device address; none where it is unmapped (R218, R220). -/
def Dev.key (d : Dev) (working : Bool) (a : Nat) : Option Nat := if d.inCopy1 a then none else d.physKey (d.steer working a)

/-- Whether every byte of a range is mapped. -/
def Dev.mapped (d : Dev) (a n : Nat) : Bool :=
  (List.range ((a % 64 + n + 63) / 64)).all fun i => (d.key false (a / 64 * 64 + 64 * i)).isSome

/-- The M-die that serves a key: a stack's, a slice's, or none for a scratchpad. -/
def mdieOfKey (k : Nat) : Option Nat :=
  if k < stackEnd then some (stackPlace k).m
  else if k < 0xB000000000 then some ((k - 0xA000000000) / 0x10000000)
  else none

/-! ### The cache part of a slice (R223, R224) -/

/-- The set of a line: the spec gives the ways and not the index (log entry 148). -/
def cacheSet (steps line : Nat) : Nat := line / 8 % (8192 * steps)

/-- An access to one sector of a line in a 16-way cache of `steps` steps: a line that is not held takes the place of the one of its set
that was used longest ago (log entry 148). -/
def touchLine (steps line bit : Nat) (write : Bool) (c : List CLine) : List CLine :=
  let rest := c.filter fun x => x.line != line
  match c.find? fun x => x.line == line with
  | some x => ⟨line, x.valid ||| 2 ^ bit, if write then x.dirty ||| 2 ^ bit else x.dirty⟩ :: rest
  | none =>
    let same := rest.filter fun x => cacheSet steps x.line == cacheSet steps line
    let kept := match same[15]? with | some x => rest.erase x | none => rest
    ⟨line, 2 ^ bit, if write then 2 ^ bit else 0⟩ :: kept

/-- An access to the sector at a stack key looks up the cache of its slice (R223). -/
def Dev.touch (d : Dev) (b : Nat) (write : Bool) : Dev :=
  if b < stackEnd then
    let m := (stackPlace b).m
    if (d.mdie m).cacheSteps = 0 then d
    else d.setMdie m fun x => { x with cache := touchLine x.cacheSteps (b / 256) (b / 64 % 4) write x.cache }
  else d

/-- The line that holds the sector at a stack key, where it is valid. -/
def Dev.cached (d : Dev) (b : Nat) : Option CLine :=
  if b < stackEnd then (d.mdie (stackPlace b).m).cache.find? fun x => x.line == b / 256 && x.valid.testBit (b / 64 % 4) else none

/-- Every dirty line of an M-die is written back to its stack: the stack then holds what the line held, its parity as the line's was, so that a
line whose parity fails leaves the sector poisoned for its next reader (R224, R231). -/
def Dev.writeBackOf (d : Dev) (m : Nat) : Dev := d.setMdie m fun x => { x with cache := x.cache.map fun y => { y with dirty := 0 } }

/-- Every dirty line is written back (R224). -/
def Dev.writeBack (d : Dev) : Dev := (List.range 8).foldl Dev.writeBackOf d

/-! ### Parity (R228 to R231) -/

/-- Key of a sector of the SRAM tables (R226): kind 0 and 1 the banks of the shard table (two entries a sector), 2 the route table, 3 the
peer contexts, 4 the remap table and 5 the outlier buffer of a physical tile. -/
def tableKey (kind i : Nat) : Nat := kind * 65536 + i

/-- Counts a parity event of an M-die's stack, slice or merge buffer, and records its address (R228). -/
def Dev.countParity (d : Dev) (b a f : Nat) : Dev :=
  match mdieOfKey b with
  | some m => d.setMdie m fun x => { x with parityCnt := satAdd 32 x.parityCnt 1, errAddr := a, errFails := f }
  | none => d

/-- Counts a read or a merge that found poison (R252). -/
def Dev.countPoison (d : Dev) (b : Nat) : Dev :=
  match mdieOfKey b with
  | some m => d.setMdie m fun x => { x with poisonReads := satAdd 32 x.poisonReads 1 }
  | none => d

/-- The event-log entry and the health points of a parity event on an SRAM sector (R228, R230). -/
def Dev.sramEvent (d : Dev) (unit f a : Nat) : Dev := (d.logEv 1 0x20 unit (natLE 1 f ++ natLE 1 0) a).health 1

/-- The unit number of a key's event: its M-die, or the physical tile of a scratchpad. -/
def unitOfKey (b : Nat) : Nat := match mdieOfKey b with | some m => m | none => (b - 0xB000000000) / 0x400000

/-- A parity event on the sector at key `b`, device address `a`, with f failing bytes: counted, the sector written back
poisoned; a stack sector waits for its confirmation read, the others are logged at once (R228, R230). -/
def Dev.parityEvent (d : Dev) (a b f : Nat) (s : Sector) : Dev :=
  let d1 : Dev := { d with mem := d.mem.store b ⟨s.data, allFail⟩ }
  let d2 := d1.countParity b a f
  if b < stackEnd then { d2 with confirms := d2.confirms ++ [⟨(stackPlace b).m, b, a, f⟩] } else d2.sramEvent (unitOfKey b) f a

/-- The merge entry of a sector. -/
def Dev.mergeEntry (d : Dev) (b : Nat) : Option MEntry :=
  match mdieOfKey b with
  | some m => (d.mdie m).merge.find? fun e => e.sector == b
  | none => none

/-- Whether byte `i` of a sector is valid in an entry's nibble mask. -/
def nibBoth (mask i : Nat) : Bool := mask.testBit (2 * i) && mask.testBit (2 * i + 1)

/-- Merges an entry over stored bytes, nibble by nibble (R236, R237). -/
def overlay (e : MEntry) (data : List Byte) : List Byte :=
  data.mapIdx fun i b =>
    let v := (e.data.getD i 0).toNat
    let lo := if e.mask.testBit (2 * i) then v % 16 else b.toNat % 16
    let hi := if e.mask.testBit (2 * i + 1) then v / 16 else b.toNat / 16
    BitVec.ofNat 8 (lo + 16 * hi)

/-- Takes the entry of a sector out of its merge buffer. -/
def Dev.dropEntry (d : Dev) (b : Nat) : Dev :=
  match mdieOfKey b with
  | some m => if (d.mdie m).merge.any (fun e => e.sector == b) then d.setMdie m fun x => { x with merge := x.merge.filter fun e => e.sector != b } else d
  | none => d

/-- Writes a whole sector to memory: fresh parity, or poisoned. An entry that holds the sector is discarded (R227, R236). -/
def Dev.writeFull (d : Dev) (b : Nat) (data : List Byte) (poison : Bool) : Dev :=
  let d1 := (d.touch b true).dropEntry b
  { d1 with mem := d1.mem.store b ⟨data, if poison then allFail else 0⟩ }

/-- A merge entry whose own parity fails: the event is counted on its M-die and logged, and the sector is written poisoned in place of
the entry (R228). -/
def Dev.badEntry (d : Dev) (e : MEntry) : Dev :=
  let f := popcount64 e.fails
  let d1 := if f = 64 then d else (d.countParity e.sector e.addr f).sramEvent (unitOfKey e.sector) f e.addr
  d1.writeFull e.sector (overlay e (d.mem.sector e.sector).data) true

/-- Reads the sector at key `b` (device address `a`): its 64 bytes and whether it delivers poison (R228, R236). -/
def Dev.readKey (d : Dev) (a b : Nat) : (List Byte × Bool) × Dev :=
  let s := d.mem.sector b
  let f := popcount64 s.fails
  let data := match d.mergeEntry b with | some e => overlay e s.data | none => s.data
  match (d.mergeEntry b).filter fun e => e.fails != 0 with
  | some e => ((data, true), (d.badEntry e).countPoison b)
  | none =>
    if f = 0 then ((data, false), d.touch b false)
    else ((data, true), ((if f = 64 then d else d.parityEvent a b f s).touch b false).countPoison b)

/-- Reads the sector of a device address; an unmapped one gives zero bytes. -/
def Dev.readSec (d : Dev) (working : Bool) (a : Nat) : (List Byte × Bool) × Dev :=
  match d.key working (a / 64 * 64) with
  | some b => d.readKey (a / 64 * 64) b
  | none => ((zeros 64, false), d)

/-- Reads `n` sectors from an aligned address. -/
def Dev.readSecs (d : Dev) (working : Bool) : Nat → Nat → List PB × Dev
  | 0, _ => ([], d)
  | n + 1, a =>
    let r := d.readSec working a
    let rest := r.2.readSecs working n (a + 64)
    (r.1.1.map (fun b => (b, r.1.2)) ++ rest.1, rest.2)

/-- Reads a range of `n` bytes from device address `a`. -/
def Dev.readRange (d : Dev) (working : Bool) (a n : Nat) : List PB × Dev :=
  let r := d.readSecs working ((a % 64 + n + 63) / 64) (a / 64 * 64)
  ((r.1.drop (a % 64)).take n, r.2)

/-- A read of the visible copy (R55). -/
def Dev.read (d : Dev) (a n : Nat) : List PB × Dev := if n = 0 then ([], d) else d.readRange false a n

/-! ### Writes (R227, R235 to R239) -/

/-- Merges bytes into the stored sector by the rule of R238; counts a merge written poisoned on an M-die (R239). -/
def Dev.mergeStore (d : Dev) (a b : Nat) (e : MEntry) : Dev :=
  let s := d.mem.sector b
  let f := popcount64 s.fails
  let d0 := d.touch b true
  if f = 0 then { d0 with mem := d0.mem.store b ⟨overlay e s.data, 0⟩ }
  else
    let d1 := (if f = 64 then d0 else d0.parityEvent a b f s).countPoison b
    let d2 : Dev := { d1 with mem := d1.mem.store b ⟨overlay e s.data, allFail⟩ }
    match mdieOfKey b with
    | some m => d2.setMdie m fun x => { x with poisonedMerges := satAdd 16 x.poisonedMerges 1 }
    | none => d2

/-- Writes an entry of a merge buffer to memory (R237). -/
def Dev.flushEntry (d : Dev) (m : Nat) (e : MEntry) : Dev :=
  let d1 := d.setMdie m fun x => { x with merge := x.merge.filter fun y => y.sector != e.sector }
  if e.fails ≠ 0 then d1.badEntry e
  else if e.mask = 2 ^ 128 - 1 then { d1.touch e.sector true with mem := d1.mem.store e.sector ⟨e.data, 0⟩ }
  else d1.mergeStore e.addr e.sector e

/-- Empties every merge buffer (R237). -/
def Dev.flushAll (d : Dev) : Dev :=
  (List.range 8).foldl (fun d m => (d.mdie m).merge.foldl (fun d e => d.flushEntry m e) d) d

/-- A partial write of the bytes `bs` at byte `o` of the sector at key `b` (R235 to R237). -/
def Dev.writePart (d : Dev) (a b o : Nat) (bs : List Byte) : Dev :=
  let mask := ((List.range bs.length).map fun i => 3 * 4 ^ (o + i)).sum
  let data := zeros o ++ bs ++ zeros (64 - o - bs.length)
  match mdieOfKey b with
  | none => d.mergeStore a b ⟨b, a, mask, data, 0⟩
  | some m =>
    match (d.mdie m).merge.find? fun e => e.sector == b with
    | some e =>
      let fresh := ((List.range bs.length).map fun i => 2 ^ (o + i)).sum
      let e1 : MEntry := ⟨b, a, e.mask ||| mask, overlay ⟨b, a, mask, data, 0⟩ e.data, e.fails ^^^ (e.fails &&& fresh)⟩
      let d1 := d.setMdie m fun x => { x with merge := x.merge.map fun y => if y.sector = b then e1 else y }
      if e1.mask = 2 ^ 128 - 1 then d1.flushEntry m e1 else d1
    | none =>
      let d1 := match (d.mdie m).merge with
        | old :: rest => if 31 ≤ rest.length then d.flushEntry m old else d
        | [] => d
      d1.setMdie m fun x => { x with merge := x.merge ++ [⟨b, a, mask, data, 0⟩] }

/-- Writes bytes inside one sector: poisoned bytes poison the whole sector (R227, R232). -/
def Dev.writeIn (d : Dev) (a b o : Nat) (bs : List PB) : Dev :=
  if bs.any (·.2) then
    let s := d.mem.sector b
    let cur := match d.mergeEntry b with | some e => overlay e s.data | none => s.data
    d.writeFull b (cur.take o ++ bs.map (·.1) ++ cur.drop (o + bs.length)) true
  else if bs.length = 64 then d.writeFull b (bs.map (·.1)) false
  else d.writePart a b o (bs.map (·.1))

/-! ### Who writes what (R42, R56, R58, R191) -/

/-- How a write meets the epoch-buffered regions: as the step says, from a source of R515; or straight to a copy. -/
inductive WMode where
  | byStep (src : Nat)
  | visible
  | working
deriving DecidableEq, Repr

/-- A step transaction is open. -/
def Dev.stepOpen (d : Dev) : Bool := match d.ctl.txn with | some t => !t.aborted | none => false

/-- Source code of a region's writer (R56, R515). -/
def writerCode (w : Writer) : Nat := if w.nme then 0x20 + w.colony else 0x10 + w.colony

/-- What becomes of the bytes of a write that fall inside a region: none where they are dropped, else whether they go to the
working copy (R42, R55, R56, R65). -/
def Dev.regionWrite (d : Dev) (m : WMode) (r : Region) : Option Bool :=
  match m with
  | .visible => some false
  | .working => some true
  | .byStep src =>
    if d.stepOpen then (if src = writerCode r.writer then some true else none)
    else if d.ctl.state = 3 ∨ d.ctl.state = 4 then some false
    else none

/-- Sets the written bit of a granule of a working copy (R58). -/
def Dev.setWritten (d : Dev) (ri : Nat) (off : Nat) : Dev :=
  if d.ctl.written.contains (ri, off / 65536) then d
  else d.setCtl fun c => { c with written := c.written ++ [(ri, off / 65536)] }

/-- Frees the remap entries whose home range a write to bytes `off` to `off + n − 1` of the partition of physical tile p touches,
but those of unit `uid` (R191). -/
def Dev.freeRemaps (d : Dev) (p off n uid : Nat) : Dev :=
  let hit (r : Remap) : Bool := r.uid != uid && decide (r.home < off + n) && decide (off < r.home + r.homeLen)
  if (d.tile p).remap.any hit then d.setTile p fun t => { t with remap := t.remap.filter fun r => !hit r } else d

/-- Writes the part of a write that lies in one sector; the flag says whether its bytes were dropped. -/
def Dev.writeSec (d : Dev) (m : WMode) (uid a : Nat) (bs : List PB) : Bool × Dev :=
  let o := a % 64
  match d.regionOf a with
  | some (ri, r) =>
    match d.regionWrite m r with
    | none => (true, d)
    | some working =>
      match d.key working (a - o) with
      | some b =>
        let d1 := d.writeIn (a - o) b o bs
        (false, if working then d1.setWritten ri (a - r.copy0) else d1)
      | none => (false, d)
  | none =>
    match d.key false (a - o) with
    | some b =>
      let d1 := if 0xB000000000 ≤ b then d.freeRemaps ((b - 0xB000000000) / 0x400000) (b % 0x400000 + o) bs.length uid else d
      (false, d1.writeIn (a - o) b o bs)
    | none => (false, d)

/-- Writes bytes sector by sector; answers the first dropped address. -/
def Dev.writeSecs (d : Dev) (m : WMode) (uid : Nat) : Nat → Nat → List PB → Option Nat × Dev
  | 0, _, _ => (none, d)
  | k + 1, a, bs =>
    if bs.isEmpty then (none, d)
    else
      let n := 64 - a % 64
      let r := d.writeSec m uid a (bs.take n)
      let rest := r.2.writeSecs m uid k (a + n) (bs.drop n)
      (if r.1 then some a else rest.1, rest.2)

/-- Counts one dropped-write event and records it, up to 256 for the step that is open or opens next, its retries included (R42,
R56). -/
def Dev.dropEvent (d : Dev) (src a : Nat) : Dev :=
  let step := d.ctl.committed + 1
  let n := if d.ctl.dropped.1 = step then d.ctl.dropped.2 else 0
  if 256 ≤ n then d
  else (d.setCtl fun c => { c with dropped := (step, n + 1) }).logEv 1 0x25 0xFFFF (natLE 1 src) a

/-- Writes a range of mapped bytes (R42, R56, R235); `uid` is the descriptor whose remap entries stand. -/
def Dev.writeAs (d : Dev) (m : WMode) (uid a : Nat) (bs : List PB) : Dev :=
  let r := d.writeSecs m uid (bs.length / 64 + 2) a bs
  match r.1, m with
  | some x, .byStep src => r.2.dropEvent src x
  | _, _ => r.2

/-- A write of a descriptor or of the host. -/
def Dev.write (d : Dev) (src a : Nat) (bs : List PB) : Dev := d.writeAs (.byStep src) 0 a bs

/-- Bytes without poison. -/
def clean (bs : List Byte) : List PB := bs.map fun b => (b, false)

end Sys2Proof.Machine
end

