-- ==== Sys2Proof/Machine/Ops.lean ====
section
/-! DEFINITION. Ops.lean: the operations that every family of commands shares: ring completion and halts (R388 to R411), module
states (R404, R405), messages towards peers (R281 to R293), the abort of a step (R344, R345) and entry into FAULT. -/
namespace Sys2Proof.Machine
open Sys2Proof

/-! ### Reset records -/

/-- A ring at reset (R451). -/
def ring0 : Ring :=
  { base := 0, cplBase := 0, ctrl := 0x600, enable := false, sBase := 0, sCpl := 0, sSize := 64, sRingDev := false, sCplDev := false,
    halted := false, haltCode := 0, haltAt := 0, head := 0, fetchAt := 0, tail := 0, retired := 0, done := [], queue := [],
    removing := false, openAhead := false, ended := false, gen := 0 }

/-- A peer context at reset (R295). -/
def peer0 : Peer :=
  { state := 0, onAux := false, stranded := false, cause := 0, moduleId := 0, jobId := 0, digest := [], committed := 0, mstate := 0,
    missed := 0, missedTotal := 0, joins := 0, departures := 0, tx := List.replicate 8 0, rx := List.replicate 8 0, unacked := [],
    lastPort := List.replicate 8 0, resends := 0, probing := false, cleanStep := 0, cleanGen := 0, cleanOwn := 0, cleanDom := 0,
    abortStep := 0, abortAgain := none, ackDue := false, refused := 0 }

/-- Receive buffer sizes of the classes in chunks (table Traffic classes). -/
def classBuffers : List Nat := [1024, 8192, 6144, 4096, 6144, 2048, 1024, 4096]

/-- A port at reset (R294, table Traffic classes). -/
def port0 : Port :=
  { link := 0, width := 8, group := 0, reversed := false, locked := 0, enable := true, maxWidth := 8, maxField := 0, arb := 0x11242480,
    partnerAddr := 0, partnerValid := false, partnerSwitch := false, partnerId := 0, fecCorr := 0, fecUncorr := 0, crcErr := 0,
    replays := 0, linkDowns := 0, poisonTx := 0, poisonRx := 0, err := 0, held := false, txSeq := 0, rxSeq := 0, replay := [],
    nakNext := false, nakArmed := false, credits := List.replicate 8 0, creditSeen := List.replicate 8 0, freed := List.replicate 8 0,
    sentChunks := List.replicate 8 0, queues := List.replicate 8 [], rxBuf := List.replicate 8 [], turn := 1, turnLeft := 0,
    widthReq := none, widthAcc := none, widthPeer := none, before := 8, back := 0, out := [] }

/-- The records of unit `i`, and their change by a function. -/
def Dev.ring (d : Dev) (r : Nat) : Ring := tget ring0 d.rings r
def Dev.peer (d : Dev) (a : Nat) : Peer := tget peer0 d.peers a
def Dev.port (d : Dev) (p : Nat) : Port := tget port0 d.ports p
def Dev.setRing (d : Dev) (r : Nat) (f : Ring → Ring) : Dev := { d with rings := tmod ring0 d.rings r f }
def Dev.setPeer (d : Dev) (a : Nat) (f : Peer → Peer) : Dev := { d with peers := tmod peer0 d.peers a f }
def Dev.setPort (d : Dev) (p : Nat) (f : Port → Port) : Dev := { d with ports := tmod port0 d.ports p f }
def Dev.setTxn (d : Dev) (f : Txn → Txn) : Dev := d.setCtl fun c => { c with txn := c.txn.map f }

/-- The number of the step that is open or opens next (R49). -/
def Dev.stepNo (d : Dev) : Nat := d.ctl.committed + 1

/-- Draws a free value: its index, and the state that has drawn it. -/
def Dev.drawFree (d : Dev) : Nat × Dev := (d.free, { d with free := d.free + 1 })

/-- Addresses of the JOINED peers, ascending. -/
def Dev.joined (d : Dev) : List Nat := (d.peers.filter fun e => e.2.state == 3).map (·.1)

/-- The policies of the loaded pattern. -/
def Dev.policy (d : Dev) : Policy :=
  match d.ctl.pattern with
  | some p => p.policy
  | none => ⟨false, 8, 200, 0, 0, 0, 0, 0, 0, []⟩

/-! ### Module states (R404, R405) -/

/-- A change of the module state: logged, interrupt source 25; every entry into LOADED clears the semaphores and the setup count
(R394, R402, R405). -/
def Dev.setState (d : Dev) (st : Nat) : Dev :=
  if d.ctl.state = st then d
  else
    let d1 := (d.logEv 0 0x0004 0xFFFF (natLE 1 d.ctl.state ++ natLE 1 st) 0).setCtl fun c =>
      if st = 4 then { c with state := st, sems := [], nextSetup := [] } else { c with state := st }
    d1.irq 25

/-! ### The shard table (R296, R297) -/

/-- An empty shard entry. -/
def shard0 : Shard := ⟨0, 0, 0, false, false, 0, 0, 0⟩

/-- Entry e of bank b, and of the active bank. -/
def Dev.shardAt (d : Dev) (b e : Nat) : Shard := tget shard0 (tget [] d.ctl.banks b) e
def Dev.shard (d : Dev) (e : Nat) : Shard := d.shardAt d.ctl.bank e

/-- Changes an entry of a bank. -/
def Dev.setShard (d : Dev) (b e : Nat) (f : Shard → Shard) : Dev :=
  d.setCtl fun c => { c with banks := tset c.banks b (tmod shard0 (tget [] c.banks b) e f) }

/-- The owner adds 1 to the version of an entry of its active bank (R298). -/
def Dev.bump (d : Dev) (e : Nat) : Dev := d.setShard d.ctl.bank e fun x => { x with version := (x.version + 1) % 2 ^ 64 }

/-! ### Messages (R281 to R288) -/

/-- A port is up (R288). -/
def Dev.up (d : Dev) (p : Nat) : Bool := let x := d.port p; x.link == 2 || x.link == 3

/-- The route of a peer: its ports in list order (R288). -/
def Dev.route (d : Dev) (a : Nat) : List Nat := match d.ctl.pattern with | some p => p.routes.getD a [] | none => []

/-- The usable ports of a route. -/
def Dev.usable (d : Dev) (a : Nat) : List Nat := (d.route a).filter d.up

/-- The 64 bytes of a message header (R284). -/
def headerBytes (dst src : Nat) (m : Sent) : List Byte :=
  natLE 2 dst ++ natLE 2 src ++ natLE 1 m.cls ++ natLE 1 m.typ ++ natLE 2 (b2n m.sequenced) ++ natLE 4 (if m.sequenced then m.seq else 0) ++
    natLE 4 m.body.length ++ natLE 8 m.step ++ sub m.params 0 32 ++ zeros 8

/-- Body chunks of a message: a chunk is poisoned when a byte of it comes from a poisoned sector (R293). -/
def bodyChunks (cls : Nat) : Nat → List PB → List Chunk
  | 0, _ => []
  | k + 1, bs =>
    if bs.isEmpty then []
    else
      let h := bs.take 64
      ⟨cls, h.any (·.2), false, decide (bs.length ≤ 64), sub (h.map (·.1)) 0 64⟩ :: bodyChunks cls k (bs.drop 64)

/-- The chunks of a message. -/
def messageChunks (dst src : Nat) (m : Sent) : List Chunk :=
  ⟨m.cls, false, true, m.body.isEmpty, headerBytes dst src m⟩ :: bodyChunks m.cls (m.body.length / 64 + 1) m.body

/-- The weight of a class in a port's arbitration; control has none of its own (R282, R294). -/
def arbWeight (arb c : Nat) : Nat := max 1 (slice arb (4 * c + 3) (4 * c))

/-- Takes `n` chunks of class c for a frame. -/
def takeChunks (p : Port) (c n : Nat) : Port × List Chunk :=
  let q := p.queues.getD c []
  ({ p with queues := p.queues.set c (q.drop n), credits := p.credits.set c (p.credits.getD c 0 - n),
            sentChunks := p.sentChunks.set c (p.sentChunks.getD c 0 + n) }, q.take n)

/-- Chunks of class c that can leave now (R283). -/
def canSend (p : Port) (c : Nat) : Nat := min (p.queues.getD c []).length (p.credits.getD c 0)

/-- The class after c in the round of classes 1 to 7. -/
def nextClass (c : Nat) : Nat := c % 7 + 1

/-- The turn of one class in the deficit round robin (R282): it sends up to its weight; a turn that the end of a frame cuts short goes on
in the next frame. -/
def arbTurn (s : Port × List Chunk) : Port × List Chunk :=
  let c := s.1.turn
  let can := canSend s.1 c
  let quota := if s.1.turnLeft = 0 then arbWeight s.1.arb c else s.1.turnLeft
  let n := min (min can quota) (25 - s.2.length)
  let t := takeChunks s.1 c n
  if n < can ∧ n < quota then ({ t.1 with turnLeft := quota - n }, s.2 ++ t.2)
  else ({ t.1 with turn := nextClass c, turnLeft := 0 }, s.2 ++ t.2)

/-- Fills the 25 payload slots of a frame: control first, then the turns of the other classes (R282). -/
def fillSlots (p : Port) : Port × List Chunk :=
  let t := takeChunks p 0 (min (canSend p 0) 25)
  (List.range 182).foldl (fun s _ =>
    if s.2.length < 25 ∧ ([1, 2, 3, 4, 5, 6, 7].any fun c => decide (0 < canSend s.1 c)) = true then arbTurn s else s) t

/-- Sequence a comes before b, modulo 2^32. -/
def seqBefore (a b : Nat) : Bool := a % 2 ^ 32 != b % 2 ^ 32 && decide ((b + 2 ^ 32 - a % 2 ^ 32) % 2 ^ 32 < 2 ^ 31)

/-- Ends a width change whose named frame has passed, on the receiver's or on the sender's side (R280). -/
def settleWidth (x : Port) : Port :=
  match x.widthAcc with
  | some (w, g, q) => if seqBefore x.rxSeq q then x else { x with width := w, group := g, widthAcc := none, link := 2, back := 0 }
  | none =>
    match x.widthPeer with
    | some (w, g, q) => if seqBefore x.txSeq q then x else { x with width := w, group := g, widthPeer := none, link := 2, back := 0 }
    | none => x

/-- Sends data frames while chunks, credits and the replay buffer of 512 frames allow; a width change takes effect with the frame it
names, and a port with nothing to send reaches that frame with empty ones (R278, R280; log entry 89). -/
def pumpPort : Nat → Port → Port
  | 0, p => p
  | k + 1, p =>
    if p.link != 2 && p.link != 3 || decide (512 ≤ p.replay.length) then p
    else
      let t := fillSlots p
      let due := match p.widthPeer with | some (_, _, q) => seqBefore p.txSeq q | none => false
      if t.2.isEmpty && !due then p
      else
        let s := (t.1.txSeq + 1) % 2 ^ 32
        let slot : Slot := ⟨s, t.1.rxSeq, 1, t.1.nakNext, 8, 0, 0, t.1.freed.map (· % 65536)⟩
        pumpPort k (settleWidth { t.1 with
          txSeq := s
          nakNext := false
          replay := t.1.replay ++ [⟨s, t.2, 0⟩]
          poisonTx := satAdd 32 t.1.poisonTx (t.2.filter (·.poison)).length
          out := frameBytes slot t.2 :: t.1.out })

/-- Transmits from port p. -/
def Dev.pump (d : Dev) (p : Nat) : Dev := d.setPort p (pumpPort 512)

/-- Puts a message's chunks on a port's queue, with a source address, and transmits. -/
def Dev.queueFrom (d : Dev) (p dst src : Nat) (m : Sent) : Dev :=
  (d.setPort p fun x =>
    { x with queues := x.queues.set m.cls (x.queues.getD m.cls [] ++ messageChunks dst src m) }).pump p

/-- Puts a message's chunks on a port's queue and transmits. -/
def Dev.queueOn (d : Dev) (p dst : Nat) (m : Sent) : Dev := d.queueFrom p dst d.ctl.address m

/-- The port a class to a peer uses now: it keeps its port while it has unacknowledged messages there (R288). -/
def Dev.classPort (d : Dev) (a c : Nat) : Option Nat :=
  let u := d.usable a
  let last := (d.peer a).lastPort.getD c 0
  if u.isEmpty then none
  else if last ≠ 0 ∧ (d.peer a).unacked.any (fun s => s.cls == c) then (if d.up (last - 1) then some (last - 1) else none)
  else u[c % u.length]?

/-- Sends a sequenced message to a peer and keeps it until it is acknowledged (R284). -/
def Dev.send (d : Dev) (a cls typ step : Nat) (params : List Byte) (body : List PB) (uid : Option Nat := none) : Dev :=
  if (d.peer a).state ≠ 3 then d
  else
    let q := (d.peer a).tx.getD cls 0
    let m : Sent := ⟨cls, typ, true, q, step, params, body, uid⟩
    let port := d.classPort a cls
    let d1 := d.setPeer a fun p =>
      { p with tx := p.tx.set cls ((q + 1) % 2 ^ 32), unacked := p.unacked ++ [m],
               lastPort := match port with | some x => p.lastPort.set cls (x + 1) | none => p.lastPort }
    match port with
    | some x => d1.queueOn x a m
    | none => d1

/-- Sends an unsequenced control message to an address on a port. -/
def Dev.sendOn (d : Dev) (port a typ : Nat) (params : List Byte) (body : List Byte) : Dev :=
  d.queueOn port a ⟨0, typ, false, 0, 0, params, clean body, none⟩

/-- Sends an unsequenced control message on the port that the control class uses to an address (R288). -/
def Dev.sendRoute (d : Dev) (a typ : Nat) (params body : List Byte) : Dev :=
  match d.classPort a 0 with
  | some p => d.sendOn p a typ params body
  | none => d

/-- The scout body (R286): the module's own fields with a cause. -/
def Dev.scout (d : Dev) (cause : Nat) : List Byte :=
  natLE 8 d.ctl.moduleId ++ natLE 8 (match d.ctl.pattern with | some p => p.jobId | none => 0) ++ sub d.ctl.digest 0 32 ++
    natLE 8 d.ctl.committed ++ natLE 1 d.ctl.state ++ natLE 1 (b2n d.ctl.onAux + 2 * b2n (d.ctl.state == 8)) ++ natLE 1 cause ++ zeros 5

/-- Sends LEAVE with a cause to every JOINED peer (R292, R425). -/
def Dev.sendLeave (d : Dev) (cause : Nat) : Dev :=
  d.joined.foldl (fun d a => d.sendRoute a 0x13 [] (d.scout cause)) d

/-- Sends STATE to every JOINED peer (R292). -/
def Dev.sendState (d : Dev) : Dev :=
  d.joined.foldl (fun d a => d.send a 0 0x14 0 [] (clean (d.scout 0))) d

/-! ### Rings: legality (R393, R404, R406, R517) -/

/-- Kind and fields of a descriptor (R393). -/
def kindOf (b : List Byte) : Nat := byteAt b 0
def flagIrq (b : List Byte) : Bool := bitAt (byteAt b 1) 0
def flagInput (b : List Byte) : Bool := bitAt (byteAt b 1) 1
def flagWide (b : List Byte) : Bool := bitAt (byteAt b 1) 2
def flagSetup (b : List Byte) : Bool := bitAt (byteAt b 1) 3
def microOf (b : List Byte) : Nat := byteAt b 2
def placeOf (b : List Byte) : Nat := byteAt b 3
def layerOf (b : List Byte) : Nat := field b 4 2 % 4096
def tilesOf (b : List Byte) : Nat := byteAt b 6
def tagOf (b : List Byte) : Nat := field b 8 8

/-- A 40-bit address field. -/
def addr40 (b : List Byte) (i : Nat) : Nat := field b i 5

/-- Reads the 32 bytes of a shard entry (table Shard entry). -/
def parseShard (b : List Byte) : Shard :=
  ⟨field b 0 2, field b 2 2, field b 4 2 % 4096, bitAt (byteAt b 6) 0, bitAt (byteAt b 6) 1, addr40 b 8, addr40 b 16, field b 24 8⟩

/-- The shard entries of a fabric plan, 32 bytes each. -/
def planEntries (l : Tab Sect) : List (List Byte) :=
  match tlook l 7 with
  | some s => (List.range (field s.bytes 8 4)).map fun i => (s.bytes.drop (field s.bytes 20 4 + 32 * i)).take 32
  | none => []

/-- A shard entry as a plan gives it, the version ignored (R375). -/
def planShard (b : List Byte) : Shard := { parseShard b with version := 0 }

/-- The shard bank that a plan gives: every entry of it that is not empty (R296, R375). -/
def planBank (es : List (List Byte)) : Tab Shard := (es.zipIdx.map fun e => (e.2, planShard e.1)).filter fun e => e.2 != shard0

/-- A colony ring. -/
def isColony (r : Nat) : Bool := decide (1 ≤ r) && decide (r ≤ 8)

/-- Source code of R515 of a ring's writes. -/
def ringSource (r : Nat) : Nat := if r = 0 then 3 else if isColony r then 0x10 + (r - 1) else r - 8

/-- The kinds accepted on a ring (table Descriptor kinds). -/
def kindOk (r : Nat) (b : List Byte) : Bool :=
  match kindOf b with
  | 0x01 | 0x02 | 0x03 | 0x04 | 0x05 | 0x07 | 0x0C => isColony r
  | 0x06 | 0x0B | 0x0D | 0x0E => r == 0
  | 0x08 | 0x09 | 0x0F | 0x10 | 0x11 => true
  | 0x0A => byteAt b 16 == 0 || (r == 0 && (byteAt b 16 == 1 || byteAt b 16 == 2))
  | _ => false

/-- Work descriptors of a colony ring (table Descriptor kinds). -/
def isWork (r : Nat) (b : List Byte) : Bool :=
  isColony r && (match kindOf b with | 0x01 | 0x02 | 0x03 | 0x04 | 0x05 | 0x07 | 0x08 | 0x09 => true | _ => false)

/-- Rings fetched in the module's state (R404, R389). From a switch to AUX on, only the control ring of an open or aborted step
still is, until its COMMIT has started (R465, R466). -/
def Dev.fetched (d : Dev) (r : Nat) : Bool :=
  if d.ctl.onAux then r == 0 && d.ctl.state != 7 && d.ctl.txn.isSome && (d.ring 0).openAhead
  else match d.ctl.state with
  | 3 => r == 0 || decide (9 ≤ r)
  | 4 | 5 | 8 => !isColony r || (match d.ctl.pattern with | some p => thas p.colonies (r - 1) | none => false)
  | _ => false

/-- Entries of the table Legality of descriptors. -/
inductive Verdict where
  | legal | waits | illegal
deriving DecidableEq, Repr

/-- The table Legality of descriptors (R406), for a fetched ring in state `st` with `opn` saying whether a step counts as open;
`adopt` is a PERMUTE's mode. -/
def legality (st : Nat) (opn : Bool) (r : Nat) (b : List Byte) (adopt : Bool) : Verdict :=
  let k := kindOf b
  let pick (bare loaded closed open' stranded : Verdict) : Verdict :=
    match st with
    | 3 => bare
    | 4 => loaded
    | 5 => if opn then open' else closed
    | 8 => stranded
    | _ => .waits
  if isColony r then
    if k = 0x07 ∧ flagSetup b then .illegal
    else if k = 0x0C then pick .waits .waits .waits .legal .waits
    else if isWork r b then
      (if flagSetup b then pick .waits .legal .legal .waits .illegal else pick .waits .waits .waits .legal .waits)
    else .legal
  else
    match k with
    | 0x0B => pick .illegal .legal .legal .illegal .illegal
    | 0x0D => pick .illegal .illegal .illegal .legal .illegal
    | 0x06 => if adopt then pick .illegal .illegal .illegal .illegal .legal else pick .illegal .legal .legal .illegal .illegal
    | 0x0E => if byteAt b 16 = 1 then pick .illegal .legal .legal .illegal .legal else pick .illegal .legal .legal .illegal .illegal
    | 0x0A => if byteAt b 16 = 0 then .legal else pick .illegal .legal .legal .illegal .illegal
    | _ => .legal

/-- Whether a step counts as open for the head of a ring (R406): on the control ring, by the ring's own order. -/
def Dev.countsOpen (d : Dev) (r : Nat) : Bool := if r = 0 then (d.ring 0).openAhead else d.stepOpen

/-- The verdict on the head of a ring. -/
def Dev.judge (d : Dev) (r : Nat) (b : List Byte) (adopt : Bool) : Verdict :=
  legality (if r = 0 ∧ (d.ring 0).openAhead then 5 else d.ctl.state) (d.countsOpen r) r b adopt

/-! ### Rings: completion and halts (R392, R408, R403) -/

/-- Codes that halt the ring (table Descriptor status codes). -/
def halts (status : Nat) : Bool :=
  (decide (1 ≤ status) && decide (status ≤ 0x0C)) || status == 0x0F || status == 0x10 || status == 0x13 ||
    (decide (0x81 ≤ status) && decide (status ≤ 0x8F) && status != 0x8E)

/-- Halts a ring: it stops issuing and fetching, and what was fetched and has not started is read again after the resume (R408; log
entry 24). -/
def Dev.haltRing (d : Dev) (r place code : Nat) : Dev :=
  (d.setRing r fun x => { x with halted := true, haltCode := code, haltAt := place, queue := [], fetchAt := x.head }).irq (11 + r)

/-- Advances the retired place over an unbroken run of completed places (R392). -/
def retireRun : Nat → Nat → List Nat → Nat × List Nat
  | 0, r, l => (r, l)
  | k + 1, r, l => if l.contains r then retireRun k (r + 1) (l.filter (· != r)) else (r, l)

/-- The 16 bytes of a completion record (table Completion record). -/
def completionRecord (size place status detail tag : Nat) : List Byte :=
  natLE 2 (place % size) ++ natLE 1 status ++ natLE 1 (b2n (place / size % 2 == 0)) ++ natLE 4 detail ++ natLE 8 tag

/-- Completes a slot: record, completion event, the event of a COMMIT that ends OK, and halt (R392, R403, R408, R427). -/
def Dev.complete (d : Dev) (r place : Nat) (b : List Byte) (status detail : Nat) (old : Bool := false) : Dev :=
  let x := d.ring r
  let rec' := completionRecord x.sSize place status detail (tagOf b)
  let addr := x.sCpl + 16 * (place % x.sSize)
  let run := retireRun (x.done.length + 1) x.retired (place :: x.done)
  let d0 := if old then d else d.setRing r fun y => { y with retired := run.1, done := run.2 }
  let lost := x.sCplDev && !d.mapped (addr % 2 ^ 40) 16
  let d1 := if x.sCplDev then (if lost then d0 else d0.write (ringSource r) (addr % 2 ^ 40) (clean rec')) else d0.toHost (.write addr (clean rec') false)
  let d1' := if flagIrq b && !lost then d1.irq r else d1
  let d2 := if kindOf b == 0x0D && status == 0 then d1'.irq 22 else d1'
  if lost then (d2.logEv 0 Config.lostRecordEvent r [] 0).haltRing r place 0x03
  else if halts status then d2.haltRing r place status
  else d2

/-- Takes the head of a ring off its queue. -/
def Dev.popHead (d : Dev) (r : Nat) : Dev := d.setRing r fun x => { x with head := x.head + 1, queue := x.queue.drop 1 }

/-- Completes the head of a ring without starting it. -/
def Dev.refuseHead (d : Dev) (r status : Nat) (detail : Nat := 0) : Dev :=
  match (d.ring r).queue with
  | [] => d
  | x :: _ => (d.popHead r).complete r x.place x.bytes status detail

/-- Detail of a completion with STEP_ABORTED (R392). -/
def Dev.abortDetail (d : Dev) : Nat := d.ctl.abortCause + 256 * d.ctl.abortOrigin

/-- A started descriptor. -/
def Dev.act (d : Dev) (uid : Nat) : Option Active := d.acts.find? fun a => a.uid == uid

/-- The COMMIT that has started and not completed. -/
def Dev.commitAct (d : Dev) : Option Active := d.acts.find? fun a => kindOf a.bytes == 0x0D

/-- Changes a started descriptor. -/
def Dev.setAct (d : Dev) (uid : Nat) (f : Active → Active) : Dev :=
  { d with acts := d.acts.map fun a => if a.uid = uid then f a else a }

/-- Completes a started descriptor (R392). -/
def Dev.finish (d : Dev) (uid status : Nat) (detail : Option Nat := none) : Dev :=
  match d.act uid with
  | none => d
  | some a =>
    let det := match detail with | some x => x | none => if a.indexed then a.iota % 2 ^ 32 else 0
    ({ d with acts := d.acts.filter fun x => x.uid != uid }).complete a.ring a.place a.bytes status det (a.gen != (d.ring a.ring).gen)

/-- A started descriptor holds a write back until nothing can refuse it (R297); `ver` is 1 plus the shard entry it versions, 0 for none. -/
def Dev.keep (d : Dev) (uid addr : Nat) (bs : List PB) (ver : Nat := 0) : Dev :=
  d.setAct uid fun a => { a with kept := a.kept ++ [(addr, bs, ver)] }

/-- Makes the writes that a started descriptor held back, as it completes. -/
def Dev.makeKept (d : Dev) (a : Active) : Dev :=
  a.kept.foldl (fun d w =>
    let d1 := d.writeAs (.byStep (ringSource a.ring)) a.uid w.1 w.2.1
    if w.2.2 = 0 then d1 else d1.bump (w.2.2 - 1)) d

/-- The tiles work: not in BOOT to BARE, in HOLD, on AUX or in FAULT (R469). -/
def Dev.tilesRun (d : Dev) : Bool := !d.ctl.onAux && [4, 5, 6, 8].contains d.ctl.state

/-- A GATHER or SCATTER that has started stops with the tiles (R467). -/
def Dev.stopped (d : Dev) (a : Active) : Bool := !d.tilesRun && (kindOf a.bytes == 0x04 || kindOf a.bytes == 0x05)

/-- The head of a ring that can start now: the ring is fetched, enabled and not halted, and fewer than 64 of its descriptors are
started and not complete (R391). -/
def Dev.head (d : Dev) (r : Nat) : Option Desc :=
  let x := d.ring r
  if d.fetched r && x.enable && !x.halted && !x.removing && decide ((d.acts.filter fun a => a.ring == r).length < 64) then x.queue.head? else none

/-- Two ranges share a byte. -/
def overlaps (a b : Nat × Nat) : Bool := decide (a.1 < b.1 + b.2) && decide (b.1 < a.1 + a.2)

/-- The weight, moment and result ranges of a bucket's update (R257, R270). -/
def Bucket.ranges (b : Bucket) : List (Nat × Nat) :=
  (b.entries.map fun e =>
    [(e.weight, regionEnd 0 1 e.groups), (e.moment, regionEnd 0 e.hMoment e.groups), (e.result, regionEnd 0 e.hResult e.groups)]).flatten

/-- The waits of R391 on earlier descriptors of the ring, of R270 on updates that are not complete, and of R194
on the operands of a GEMM with an unresolved duplicate check. -/
def Dev.clash (d : Dev) (r : Nat) (reads writes : List (Nat × Nat)) : Bool :=
  (d.ctl.buckets.any fun b => !b.complete && b.ranges.any fun w => writes.any (overlaps w)) ||
  (d.tiles.any fun e => (e.2.checks ++ e.2.overflowChecks).any fun c => c.ring == r && c.ranges.any fun w => writes.any (overlaps w)) ||
  d.acts.any fun a => a.ring == r &&
    (a.writes.any (fun w => (reads ++ writes).any (overlaps w)) || a.reads.any (fun w => writes.any (overlaps w)))

/-- The next operation index of a colony, and the state that has given it (R394). -/
def Dev.takeIota (d : Dev) (colony : Nat) (setup : Bool) : Nat × Dev :=
  if setup then
    let n := tget 0 d.ctl.nextSetup colony
    (2 ^ 47 + n, d.setCtl fun c => { c with nextSetup := tset c.nextSetup colony (n + 1) })
  else
    let n := tget 0 d.ctl.nextIota colony
    (n, d.setCtl fun c => { c with nextIota := tset c.nextIota colony (n + 1) })

/-- A descriptor that reads home bytes of a widened tensor leaves one event (R191; log entry 47). -/
def Dev.noteHome (d : Dev) (r : Nat) (reads : List (Nat × Nat)) : Dev :=
  let homes := d.tiles.flatMap fun e =>
    match e.2.logical with
    | some l => e.2.remap.map fun x => (0xB000000000 + 0x400000 * l + x.home, x.homeLen)
    | none => []
  match reads.find? fun w => homes.any (overlaps w) with
  | some w => d.logEv 1 Config.homeReadEvent r [] w.1
  | none => d

/-- The micro-batch of work, 256 where it is step-wide. -/
def mbCode (b : List Byte) : Nat := if flagWide b then 256 else microOf b

/-- Work of the step writes ranges, and uses the data of peers that stand in ranges it reads (R209 to R211). -/
def Dev.noteWork (d : Dev) (b : List Byte) (reads writes : List (Nat × Nat)) : Dev :=
  if flagSetup b then d
  else d.setTxn fun t =>
    let from' := ((t.got.filter fun g => reads.any (overlaps g.2)).map fun g => (g.1, mbCode b)).eraseDups
    { t with wrote := if flagWide b then t.wrote else t.wrote ++ writes.map fun w => (microOf b, w)
             used := t.used ++ from'.filter fun u => !t.used.contains u }

/-- Data of a peer's step reaches a range of this module (R211). -/
def Dev.noteGot (d : Dev) (step peer addr len : Nat) : Dev :=
  d.setTxn fun t => if t.step = step then { t with got := t.got ++ [(peer, addr, len)] } else t

/-- A descriptor takes up data of a peer (R211). -/
def Dev.noteUsed (d : Dev) (b : List Byte) (peer : Nat) : Dev :=
  if flagSetup b then d
  else d.setTxn fun t => { t with used := if t.used.contains (peer, mbCode b) then t.used else t.used ++ [(peer, mbCode b)] }

/-- Results of a micro-batch reach a peer (R209, R210). -/
def Dev.noteMb (d : Dev) (peer mb : Nat) : Dev :=
  d.setTxn fun t => { t with left := if t.left.contains (mb, peer) then t.left else t.left ++ [(mb, peer)] }

/-- Results of a descriptor's micro-batch reach a peer. -/
def Dev.noteLeft (d : Dev) (a : Active) (peer : Nat) : Dev :=
  if flagSetup a.bytes || flagWide a.bytes then d else d.noteMb peer (microOf a.bytes)

/-- Bytes of a range reach a peer: those of every micro-batch that wrote into it in the step. -/
def Dev.noteServed (d : Dev) (peer : Nat) (w : Nat × Nat) : Dev :=
  match d.ctl.txn with
  | some t => ((t.wrote.filter fun x => overlaps x.2 w).map (·.1)).foldl (Dev.noteMb · peer) d
  | none => d

/-- Starts the head of a ring as a descriptor of the record `mk`; work descriptors take an operation index. -/
def Dev.start (d : Dev) (r : Nat) (x : Desc) (reads writes : List (Nat × Nat)) : Active × Dev :=
  let work := isWork r x.bytes
  let dh := if kindOf x.bytes = 0x01 then d else d.noteHome r reads
  let d0 := if work then dh.noteWork x.bytes reads writes else dh
  let i := if work then d0.takeIota (r - 1) (flagSetup x.bytes) else (0, d0)
  let a : Active :=
    { uid := i.2.nextUid, ring := r, place := x.place, gen := (d.ring r).gen, bytes := x.bytes, iota := i.1, indexed := work, reads := reads, writes := writes,
      step := d.stepNo, parts := [], status := 0, nonfin := 0, poison := [], wait := [], done := false, kept := [], mem := [], hold := false }
  (a, { (i.2.popHead r) with nextUid := i.2.nextUid + 1, acts := i.2.acts ++ [a] })

/-! ### Poison and abort causes (R233, R344, R345) -/

/-- A consumption of poison: an event with its row of the table Poison rules and the address of the first poisoned sector (R233,
R515). -/
def Dev.consume (d : Dev) (row unit addr : Nat) : Dev := (d.logEv 1 0x0021 unit (natLE 1 row) addr).health 16

/-- Causes that abort a step to which the module is pledged (column Pledged of the table Abort causes); code 10 is decided at the
message. -/
def pledgedCause (c : Nat) : Bool := [2, 3, 5, 6, 9, 10, 12].contains c

/-- Whether a started descriptor belongs to the open step (R335): colony work without the setup flag, TXN_END, and a transfer-ring
descriptor that touches an epoch-buffered region. -/
def Dev.ofStep (d : Dev) (a : Active) : Bool :=
  if isColony a.ring then kindOf a.bytes == 0x0C || !flagSetup a.bytes
  else decide (9 ≤ a.ring) && (a.reads ++ a.writes).any fun w => d.regions.any fun g => overlaps w (g.copy0, g.len)

/-- Moves the head of a finished-tile queue past entries that are free (R174). -/
def normQueue (t : Tile) : Tile :=
  if t.queue.all fun e => e.state == 0 then { t with qHead := t.qTail }
  else { t with qHead := ((List.range 4).map fun i => (t.qHead + i) % 4).find? (fun i => (t.queue.getD i qentry0).state != 0) |>.getD t.qHead }

/-- Drops what tiles hold for a set of descriptors of an aborted step: banks, queue entries, checks and remap entries (R345 orders 2
and 3). -/
def dropTileWork (uids : List Nat) (t : Tile) : Tile :=
  normQueue { t with
    banks := t.banks.filter fun b => !uids.contains b.2.uid
    queue := t.queue.map fun e => if uids.contains e.uid then qentry0 else e
    checks := t.checks.filter fun c => flagSetup c.bytes
    overflowChecks := t.overflowChecks.filter fun c => flagSetup c.bytes
    remap := [] }

/-- A peer's CLEAN of an aborted attempt no longer counts where the peer has departed in the attempt or has sent its STEP_ABORT: no later
CLEAN of the attempt follows it (R339, R345). -/
def dropClean (txn : Option Txn) (a : Nat) (p : Peer) : Peer :=
  match txn with
  | some t => if p.cleanStep = t.step ∧ (t.gone.contains a = true ∨ p.abortStep = t.step) then { p with cleanStep := 0 } else p
  | none => p

/-- Orders 1 to 3 of the table Abort of step s: cause recorded, work abandoned, its descriptors completed, its traces cleared; the
rings remove the rest of the step (R345, R411). -/
def Dev.abortStep (d : Dev) (cause origin : Nat) : Dev :=
  let uids := (d.acts.filter d.ofStep).map (·.uid)
  let d1 := ((d.setCtl fun c =>
    { c with abortCause := cause, abortOrigin := origin, abortCount := satAdd 16 c.abortCount 1, abortStep := d.stepNo,
             written := [], buckets := [], early := c.early.filter (fun m => m.2.step != d.stepNo), routes := [], held := c.held, sems := [], nextSetup := [],
             txn := c.txn.map fun t => { t with aborted := true, cause := cause, origin := origin, rsent := [], rrecv := [] } }).logEv
    0 0x0006 0xFFFF (natLE 1 cause ++ natLE 1 origin) 0).irq 23
  let d2 : Dev := { d1.flushAll with tiles := d1.flushAll.tiles.map fun e => (e.1, dropTileWork uids e.2) }
  let d3 := uids.foldl (fun d u => d.finish u 0x11 (some (cause + 256 * origin))) d2
  let ends (r : Nat) : Bool := match d.ctl.pattern with | some p => isColony r && thas p.colonies (r - 1) | none => false
  { d3 with
    rings := d3.rings.map fun e =>
      (e.1, if ends e.1 then { e.2 with removing := !e.2.ended && e.2.enable, ended := false }
            else if e.1 = 0 then { e.2 with removing := e.2.openAhead } else e.2)
    peers := d3.peers.map fun e => (e.1, dropClean d.ctl.txn e.1 e.2) }

/-- Raises an abort cause (R344, R466): no effect with no step open; a cause that does not abort a pledged step takes effect at the next
step. -/
def Dev.raise (d : Dev) (cause : Nat) (origin : Nat := 0) : Dev :=
  match d.ctl.txn with
  | some t =>
    if t.aborted then d
    else if t.pledged && !pledgedCause cause then d.setCtl fun c => { c with deferred := some (cause, origin) }
    else d.abortStep cause origin
  | none => d

/-- Entry into FAULT (R23, R31, R47, R233, R251, R292): the open step aborts with cause 12, every JOINED peer receives LEAVE with
cause 6. -/
def Dev.enterFault (d : Dev) : Dev :=
  if d.ctl.state = 9 then d
  else
    let d1 := ((d.raise 12).setState 9).setCtl fun c => { c with loading := none }
    d1.sendLeave 6

/-- Address of the first poisoned sector among bytes read from address `a` on (R233). -/
def poisonSector (a : Nat) (bs : List PB) : Nat := (a + bs.findIdx (·.2)) / 64 * 64

/-- A ring fetch or a structure read that returns poison (rows 13 and 15 of the table Poison rules). -/
def Dev.poisonedRead (d : Dev) (row r addr : Nat) : Dev := (d.consume row r addr).raise 14

/-- A sector of a table is rewritten from the loaded pattern (R233): the two shard entries of the sector from the fabric plan; of the route
table, the peer contexts and a remap table the pattern gives no more than they hold, and the sector's parity is fresh (log entry 150). -/
def Dev.rewriteTable (d : Dev) (k : Nat) : Dev :=
  let e := k % 65536 * 2
  let entry (i : Nat) : Shard := planShard ((planEntries d.ctl.sections).getD i [])
  let put (b : Nat) (t : Tab (Tab Shard)) : Tab (Tab Shard) :=
    tset t b (tset (tset (tget [] t b) e (entry e)) (e + 1) (entry (e + 1)))
  let d1 : Dev := if k / 65536 < 2 then d.setCtl fun c => { c with banks := put (k / 65536) c.banks } else d
  { d1 with tableBad := tdel d1.tableBad k }

/-- Abort cause of a poisoned table entry: one of those whose source is the table Poison rules (R344; log entry 150). -/
def tableCause : Nat := [3, 4, 12, 14].getD (Config.tableCause % 4) 12

/-- The control plane reads a sector of a table (R226, R228, R233): where its parity fails, a parity event unless the sector was poisoned
already, then the consumption; the sector is rewritten, and the step aborts, or the module enters FAULT at the second poisoned read
since the last commit. -/
def Dev.readTable (d : Dev) (k : Nat) : Dev :=
  let f := popcount64 (tget 0 d.tableBad k)
  if f = 0 then d
  else
    let d1 := ((if f = 64 then d else d.sramEvent 0xFFFF f 0).consume 12 0xFFFF 0).rewriteTable k
    if d1.tableReads.contains k then d1.enterFault else Dev.raise { d1 with tableReads := k :: d1.tableReads } tableCause

/-- A sector of a table has no failing parity. -/
def Dev.tableClean (d : Dev) (k : Nat) : Bool := popcount64 (tget 0 d.tableBad k) == 0

/-- The control plane reads sectors of tables and goes on; where one delivers poison, what it was read for waits and reads it again. -/
def Dev.withTables (d : Dev) (ks : List Nat) (f : Dev → Dev) : Dev :=
  match ks.find? fun k => !d.tableClean k with
  | some k => d.readTable k
  | none => f d

/-- The sectors of the route table and of the peer contexts that messages to and from a peer read. -/
def peerSectors (a : Nat) : List Nat := [tableKey 2 a, tableKey 3 a]

/-- Sector of entry e in the active bank of the shard table. -/
def Dev.shardSector (d : Dev) (e : Nat) : Nat := tableKey d.ctl.bank (e / 2)

/-- Puts the head of a ring to work, where it has the kind of the command: it waits, it is illegal, or it starts under its own rules
(R391, R406, R407, R410). On the control ring, a descriptor that follows a COMMIT waits until the COMMIT has completed (R406). A header
with `tiles` above 96 is refused at the start, whatever the kind (R393). -/
def Dev.issue (d : Dev) (r k : Nat) (adopt : Bool) (f : Desc → Dev) : Dev :=
  match d.head r with
  | none => d
  | some x =>
    if kindOf x.bytes ≠ k ∨ x.fetch ≠ 0 then d
    else if isColony r && (d.ring r).ended then d
    else
      match d.judge r x.bytes adopt with
      | .waits => d
      | .illegal => d.refuseHead r 0x01
      | .legal =>
        if r = 0 ∧ d.commitAct.isSome = true then d else if 96 < tilesOf x.bytes then d.refuseHead r 0x02 else f x

/-- What the checks of a head find (R391, R517): it waits, it is refused with a status code once its checks have read what they read,
or it starts with what they give. -/
inductive Plan (α : Type) where
  | waits
  | refuses (d : Dev) (code : Nat)
  | goes (a : α)

/-- Does what a plan says with the head of ring r. -/
def Dev.follow {α : Type} (d : Dev) (r : Nat) (p : Plan α) (go : α → Dev) : Dev :=
  match p with
  | .waits => d
  | .refuses d' code => d'.refuseHead r code
  | .goes a => go a

/-! ### Lifeline drains that end (R354) -/

/-- A drain or restore ends: logged with its step and its outcome, 1 for success and 0 otherwise (log entry 31); interrupt source
27. -/
def Dev.lifelineEnded (d : Dev) (step : Nat) (ok : Bool) : Dev := (d.logEv 0 0x0052 0xFFFF (natLE 8 step ++ natLE 1 (b2n ok)) 0).irq 27

/-- A drain ends; a host drain that a LIFELINE asked for completes its descriptor. -/
def Dev.endDrain (d : Dev) (x : Drain) (ok : Bool) : Dev :=
  let d1 := (d.setCtl fun c => { c with drains := c.drains.filter (· != x), llLast := if ok && !x.host then x.step else c.llLast }).lifelineEnded x.step ok
  match x.uid with
  | some u => d1.finish u (if ok then 0 else 0x12)
  | none => d1

/-- Every drain ends unsuccessfully (R425). -/
def Dev.drainsEnd (d : Dev) : Dev := d.ctl.drains.foldl (fun d x => d.endDrain x false) d

/-- The host drain ends unsuccessfully (R354, R421). -/
def Dev.hostDrainEnds (d : Dev) : Dev := (d.ctl.drains.filter (·.host)).foldl (fun d x => d.endDrain x false) d

/-! ### Heads that complete without a command of their own (R390, R393, R411) -/

/-- Removes the head of a ring of an aborted step (R411): up to TXN_END on a colony ring, up to but not including COMMIT on the
control ring. -/
def Dev.removeHead (d : Dev) (r : Nat) : Dev :=
  match (d.ring r).queue with
  | [] => d
  | x :: _ =>
    if r = 0 then
      (if kindOf x.bytes = 0x0D then d else d.refuseHead r 0x11 d.abortDetail)
    else
      let d1 := d.refuseHead r 0x11 d.abortDetail
      if kindOf x.bytes = 0x0C then d1.setRing r fun y => { y with removing := false } else d1

/-- Completes the heads of a ring that no command starts: slots that could not be read, kinds that the ring does not accept,
and the rest of an aborted step. -/
def Dev.settleRing : Nat → Nat → Dev → Dev
  | 0, _, d => d
  | k + 1, r, d =>
    let x := d.ring r
    if !(d.fetched r && x.enable && !x.halted) then d
    else
      match x.queue with
      | [] => d
      | h :: _ =>
        if h.fetch ≠ 0 then Dev.settleRing k r ((if h.fetch = 0x13 then d.poisonedRead 13 r (x.sBase + 64 * (h.place % x.sSize)) else d).refuseHead r h.fetch)
        else if x.removing then (if r = 0 ∧ kindOf h.bytes = 0x0D then d else Dev.settleRing k r (d.removeHead r))
        else if !kindOk r h.bytes then Dev.settleRing k r (d.refuseHead r 0x02)
        else d

/-- Settles every ring. -/
def Dev.settle (d : Dev) : Dev := (List.range 11).foldl (fun d r => Dev.settleRing ((d.ring r).queue.length + 1) r d) d

/-- The next state of a command of the data or the control plane: its effect, and the heads it leaves settled. -/
def nextD (s : State) (f : Dev → Dev) : Host.Outcome State Fault Refusal := .next { s with d := (f s.d).settle }

/-- The next state of a command that also reaches the power path or the management plane. -/
def nextS (s : State) (f : State → State) : Host.Outcome State Fault Refusal :=
  .next { f s with pending := s.pending, d := (f s).d.settle }

end Sys2Proof.Machine
end

