-- ==== Sys2Proof/Machine/Buckets.lean ====
section
/-! DEFINITION. Buckets.lean: withdrawals and retractions (R195, R196, R209 to R212), the split of R299, chains, and the running of a
bucket's pieces: sums, results, updates and re-runs (R253 to R271, R310 to R322). -/
namespace Sys2Proof.Machine
open Sys2Proof

/-! ### The split and the chains (R299, R310, R311) -/

/-- First unit and number of units of position i when U units are split among P positions (R299). -/
def splitShare (u p i : Nat) : Nat × Nat := (i * (u / p) + min i (u % p), u / p + b2n (decide (i < u % p)))

/-- A chain of the pattern. -/
def Dev.chain (d : Dev) (n : Nat) : Option Chain :=
  match d.ctl.pattern with
  | some p => p.chains.find? fun c => c.number == n
  | none => none

/-- The rails of a chain; none where the pattern has no such chain. -/
def Dev.rails (d : Dev) (n : Nat) : List (List Nat) := match d.chain n with | some c => c.rails | none => []

/-- The members of an ordering that the active bank does not map out (R310). -/
def Dev.expected (d : Dev) (rail : List Nat) : List Nat := rail.filter fun a => !d.ctl.mapped.testBit a

/-- The module itself, or a JOINED peer. -/
def Dev.alive (d : Dev) (a : Nat) : Bool := a == d.ctl.address || (d.peer a).state == 3

/-- The expected members of a chain in rail-0 order. -/
def Dev.chainMembers (d : Dev) (n : Nat) : List Nat := d.expected ((d.rails n).headD [])

/-- The leader of a chain (R310). -/
def Dev.leader (d : Dev) (n : Nat) : Option Nat := (d.chainMembers n).find? d.alive

/-- The members a piece visits, in order: cyclically from place k, passing over members that are not there (R311). -/
def Dev.pieceOrder (d : Dev) (n rail k : Nat) : List Nat :=
  let l := d.expected ((d.rails n).getD rail [])
  (l.drop k ++ l.take k).filter d.alive

/-! ### Records, withdrawals and retractions -/

/-- The 32 bytes of a repeat record (R212). -/
def repeatRecord (step kind colony tile mb op layer a b c flags e f : Nat) : List Byte :=
  natLE 8 step ++ natLE 1 kind ++ natLE 1 colony ++ natLE 1 tile ++ natLE 1 mb ++ natLE 6 op ++ natLE 2 layer ++ natLE 1 a ++ natLE 1 b ++
    natLE 1 c ++ natLE 1 flags ++ natLE 4 e ++ natLE 4 f

/-- Records a retraction sent (0x13) or received (0x14). -/
def Dev.logRetract (d : Dev) (kind step peer mb cause : Nat) : Dev :=
  d.logEv 0 kind peer (repeatRecord step kind 0xFF 0xFF mb 0 0 cause 0 0 0 0 0) 0

/-- Changes a bucket. -/
def Dev.setBucket (d : Dev) (chain bucket : Nat) (f : Bucket → Bucket) : Dev :=
  d.setCtl fun c => { c with buckets := c.buckets.map fun b => if b.chain = chain ∧ b.bucket = bucket then f b else b }

/-- A bucket in REDUCE. -/
def Dev.bucket (d : Dev) (chain bucket : Nat) : Option Bucket := d.ctl.buckets.find? fun b => b.chain == chain && b.bucket == bucket

/-- The module counts as absent from a bucket (R199, R313, R334). -/
def Dev.absent (d : Dev) (b : Bucket) : Dev :=
  if b.present then (d.setBucket b.chain b.bucket fun x => { x with present := false }).setCtl fun c => { c with absentCnt := satAdd 32 c.absentCnt 1 } else d

/-- In a frog, the step that is open repeats a logged one (R360). -/
def Dev.inFrog (d : Dev) : Bool := decide (d.ctl.committed < d.ctl.frogTarget)

/-! ### Elements of a bucket (R255 to R258, R311, R312) -/

/-- Groups of a bucket. -/
def Bucket.total (b : Bucket) : Nat := if b.entries.isEmpty then b.groups else (b.entries.map (·.groups)).sum

/-- Place of group g of a bucket: entry, group in the entry, elements of a group, and index of its first element. -/
def groupPlace : List UEntry → Nat → Nat → Nat → Nat × Nat × Nat × Nat
  | [], ei, g, base => (ei, g, 64, base + 64 * g)
  | e :: es, ei, g, base =>
    if g < e.groups ∨ es.isEmpty then (ei, g, e.g, base + e.g * g) else groupPlace es (ei + 1) (g - e.groups) (base + e.g * e.groups)

/-- Base and unit count of the contribution of entry `ei`, for a contribution that begins at `c` (R312). -/
def contribRegion : List UEntry → Nat → Nat → Nat × Nat
  | [], _, c => (c, 1)
  | e :: _, 0, c => (c, e.hContrib)
  | e :: es, i + 1, c => contribRegion es i (c + (regionEnd 0 e.hContrib e.groups + 131071) / 131072 * 131072)

/-- Base and unit count of the results of entry `ei`, and whether they are B16P. -/
def Bucket.resultRegion (b : Bucket) (ei : Nat) : Nat × Nat × Bool :=
  match b.entries[ei]? with
  | some e => (e.result, e.hResult, e.resPair)
  | none => (b.result, 1, b.resPair)

/-- Reads `n` bytes of the content of group q of a region, unit by unit. -/
def Dev.readUnits (d : Dev) (base h q : Nat) : Nat → Nat → Nat → List PB × Dev
  | 0, _, _ => ([], d)
  | k + 1, t, n =>
    if n = 0 then ([], d)
    else
      let r := d.read (unitAddr base h q t) (min n 256)
      let rest := r.2.readUnits base h q k (t + 1) (n - 256)
      (r.1 ++ rest.1, rest.2)

/-- The content of a group: its first `n` bytes. -/
def Dev.readGroup (d : Dev) (base h q n : Nat) : List PB × Dev := d.readUnits base h q h 0 n

/-- Address of the first poisoned sector among bytes read from offset `o` of the content of group q (R233). -/
def unitPoison (base h q o : Nat) (bs : List PB) : Nat :=
  let i := o + bs.findIdx (·.2)
  unitAddr base h q (i / 256) + i % 256 / 64 * 64

/-- Address of the first poisoned sector among the bytes of parts, given each entry's region and the bytes of its elements (R233). -/
def partPoison (region : Nat → Nat × Nat) (z : Nat → Nat) : List (Nat × Nat × Nat × Nat) → List PB → Nat
  | [], _ => 0
  | p :: ps, bs =>
    let n := z p.1 * p.2.2.2
    if (bs.take n).any (·.2) then unitPoison (region p.1).1 (region p.1).2 p.2.1 (z p.1 * p.2.2.1) (bs.take n)
    else partPoison region z ps (bs.drop n)

/-- Writes bytes at offset `o` of the content of group q. -/
def Dev.writeUnits (d : Dev) (src base h q : Nat) : Nat → Nat → List PB → Dev
  | 0, _, _ => d
  | k + 1, o, bs =>
    if bs.isEmpty then d
    else
      let n := 256 - o % 256
      (d.write src (unitAddr base h q (o / 256) + o % 256) (bs.take n)).writeUnits src base h q k (o + n) (bs.drop n)

/-- Groups of a piece: first group and number (R311). -/
def Dev.pieceSpan (d : Dev) (b : Bucket) (rail k : Nat) : Nat × Nat :=
  let rails := d.rails b.chain
  let share := splitShare b.total rails.length rail
  let piece := splitShare share.2 (d.expected (rails.getD rail [])).length k
  (share.1 + piece.1, piece.2)

/-- Elements of groups g0 to g0 + n − 1. -/
def elemsOf (b : Bucket) (g0 n : Nat) : Nat := ((List.range n).map fun i => (groupPlace b.entries 0 (g0 + i) 0).2.2.1).sum

/-- The parts of elements `off` to `off + n − 1` of a piece: entry, group, first element in the group and number. -/
def pieceParts (b : Bucket) (g0 count off n : Nat) : List (Nat × Nat × Nat × Nat) :=
  let e0 := (groupPlace b.entries 0 g0 0).2.2.2
  (List.range count).filterMap fun i =>
    let p := groupPlace b.entries 0 (g0 + i) 0
    let s := p.2.2.2 - e0
    let lo := max s off
    let hi := min (s + p.2.2.1) (off + n)
    if lo < hi then some (p.1, p.2.1, lo - s, hi - lo) else none

/-- Reads the module's own contribution to elements of a piece, as pairs with the poison of their bytes. -/
def Dev.readContrib (d : Dev) (b : Bucket) (parts : List (Nat × Nat × Nat × Nat)) : List PB × Dev :=
  parts.foldl (fun (acc : List PB × Dev) p =>
    let r := contribRegion b.entries p.1 b.contrib
    let v := acc.2.readGroup r.1 r.2 p.2.1 (4 * (p.2.2.1 + p.2.2.2))
    (acc.1 ++ v.1.drop (4 * p.2.2.1), v.2)) ([], d)

/-- Pairs of a byte string. -/
def pairsOf (bs : List PB) : List Pair := (List.range (bs.length / 4)).map fun i => pairOf (((bs.drop (4 * i)).take 4).map (·.1)) 0

/-- M-die that serves group q of a region (R256). -/
def groupMdie (q : Nat) : Nat := (stackPlace (256 * (q % 512))).m

/-- Counts B16P additions of an NME (R265, R272). -/
def Dev.countAdds (d : Dev) (q n : Nat) : Dev :=
  d.setMdie (groupMdie q) fun x => { x with nmeAccum := (x.nmeAccum + n) % 2 ^ 64, nmeLaneOps := (x.nmeLaneOps + n) % 2 ^ 64 }

/-- Counts the additions of parts of a piece. -/
def Dev.countParts (d : Dev) (parts : List (Nat × Nat × Nat × Nat)) : Dev := parts.foldl (fun d p => d.countAdds p.2.1 p.2.2.2) d

/-! ### Sums and results (R314 to R318) -/

/-- The params of RSUM and RESULT. -/
def sumParams (b : Bucket) (rail k off sumP : Nat) : List Byte :=
  natLE 2 b.chain ++ natLE 2 b.bucket ++ natLE 4 b.runId ++ natLE 1 rail ++ zeros 1 ++ natLE 2 k ++ natLE 4 off ++ natLE 4 sumP

/-- The 512 bytes of a mask of 4,096 bits. -/
def maskBytes (m : Nat) : List Byte := natLE 512 m

/-- A fresh piece. -/
def piece0 (rail k : Nat) : Piece := ⟨rail, k, 0, 0, 0, 0⟩

/-- The record of a piece of a bucket. -/
def Bucket.piece (b : Bucket) (rail k : Nat) : Piece := (b.pieces.find? fun p => p.rail == rail && p.k == k).getD (piece0 rail k)

/-- Changes a piece of a bucket. -/
def Bucket.setPiece (b : Bucket) (p : Piece) : Bucket :=
  { b with pieces := (b.pieces.filter fun x => !(x.rail == p.rail && x.k == p.k)) ++ [p] }

/-- Every piece of every rail of a chain. -/
def Dev.piecesOf (d : Dev) (n : Nat) : List (Nat × Nat) :=
  ((d.rails n).mapIdx fun r l => (List.range (d.expected l).length).map fun k => (r, k)).flatten

/-- The result of every piece is held. -/
def Dev.resultsHeld (d : Dev) (b : Bucket) : Bool :=
  (d.piecesOf b.chain).all fun p => let s := d.pieceSpan b p.1 p.2; elemsOf b s.1 s.2 == (b.piece p.1 p.2).results

/-- Messages of a descriptor that are not acknowledged. -/
def Dev.outstanding (d : Dev) (uid : Nat) : Bool := d.peers.any fun e => e.2.unacked.any fun m => m.uid == some uid

/-- Completes a descriptor whose own work is done and whose messages are all acknowledged (R284, R297, R467). -/
def Dev.tryFinish (d : Dev) (uid : Nat) : Dev :=
  match d.act uid with
  | some a => if a.done && !a.hold && !d.outstanding uid && !d.stopped a then (d.makeKept a).finish uid a.status else d
  | none => d

/-- Completes what it can of the descriptors started: messages were acknowledged, or HOLD has ended (R467). -/
def Dev.tryFinishAll (d : Dev) : Dev := (d.acts.map (·.uid)).foldl Dev.tryFinish d

/-- The use of a peer's contribution by a bucket ends with the completion of this run or a newer one: the present run where it excludes
the peer, the next where it does not (R211, R319). -/
def Bucket.useEnds (b : Bucket) (peer : Nat) : Nat := if b.excluded.testBit peer then b.runId else b.runId + 1

/-- Uses of a peer's data that a retraction of it concerns and that still stand (R211). -/
def Dev.usesOf (t : Txn) (peer : Nat) : List Nat := (t.used.filter fun u => u.1 == peer).map (·.2)

/-- Answers RETRACT_DONE for a retraction once every use of its data has been withdrawn or re-run, with every re-run and retraction those
uses caused (R338). -/
def Dev.answerRetract (d : Dev) (r : Retract) : Dev :=
  let rerun := r.uses.all fun u => match d.bucket u.1 u.2.1 with | some b => decide (u.2.2 ≤ b.runId) && b.complete | none => true
  let withdrawn := match d.ctl.txn with
    | some t => (Dev.usesOf t (r.peers.headD 0)).isEmpty && !t.rsent.any fun x => r.mbs.contains x.mb
    | none => true
  let settled := rerun && withdrawn
  if settled then
    let d1 := d.setTxn fun t => { t with rrecv := t.rrecv.filter (· != r) }
    d1.send (r.peers.headD 0) 5 0x83 d1.stepNo (natLE 8 r.moduleId ++ natLE 1 r.mb ++ natLE 1 (b2n r.consumed)) []
  else d

/-- Looks at every retraction that waits. -/
def Dev.answerRetracts (d : Dev) : Dev :=
  match d.ctl.txn with
  | some t => if t.aborted then d else t.rrecv.foldl Dev.answerRetract d
  | none => d

/-- A bucket that holds its results and whose updates are complete is complete; a non-finite weight or moment of the newest version
aborts the step (R267, R269, R322). -/
def Dev.checkBucket (d : Dev) (chain bucket : Nat) : Dev :=
  match d.bucket chain bucket with
  | none => d
  | some b =>
    if b.complete || !d.resultsHeld b || !(b.entries.isEmpty || decide (b.updated.length = b.total)) then d
    else
      let d1 := d.setBucket chain bucket fun x => { x with complete := true }
      if b.bite ≠ 0 then d1.raise b.bite
      else if b.nonfin then d1.raise 2
      else ((d1.setAct b.uid fun a => { a with done := true }).tryFinish b.uid).answerRetracts

/-- Converts a final sum to the result format (R315); `q` is the element's index in the bucket. -/
def resultBytes (seed bucket : Nat) (rne' : Bool) (pair : Bool) (q : Nat) (x : Pair) : List Byte :=
  if pair then pairBytes x
  else natLE 2 (encodeF .b16 (roundF .b16 (if rne' then rne else ⟨true, reduceDraw seed bucket q⟩) .ieee (pairVal x)).val)

/-- Bytes per element and format of the results of a part. -/
def Bucket.partFmt (b : Bucket) (p : Nat × Nat × Nat × Nat) : Bool := (b.resultRegion p.1).2.2

/-- Step seed of the step that is open (R52). -/
def Dev.seed (d : Dev) : Nat := stepSeed (match d.ctl.pattern with | some p => p.jobSeed | none => 0) d.stepNo

/-- Writes the results of parts from their bytes, and says whether an element is non-finite. -/
def Dev.writeResults (d : Dev) (b : Bucket) (parts : List (Nat × Nat × Nat × Nat)) (bs : List PB) : Bool × Dev :=
  let r := parts.foldl (fun (acc : Bool × List PB × Dev) p =>
    let g := b.resultRegion p.1
    let z := if g.2.2 then 4 else 2
    let mine := acc.2.1.take (z * p.2.2.2)
    let bad := (List.range p.2.2.2).any fun i => !(decodeF .b16 (field (mine.map (·.1)) (z * i) 2)).finite
    (acc.1 || bad, acc.2.1.drop (z * p.2.2.2),
      acc.2.2.writeUnits (0x20 + b.colony) g.1 g.2.1 p.2.1 (g.2.1 + 2) (z * p.2.2.1) mine)) (false, bs, d)
  (r.1, r.2.2)

/-- The divisor n of a piece: members in its mask (R316). -/
def maskCount (m : Nat) : Nat := ((List.range 4096).filter fun i => m.testBit i).length

/-- The withdrawal threshold (R318): L' members, M micro-batches each, Σp contributed. -/
def overThreshold (l m sumP w : Nat) : Bool := decide (l * m < (l * m - sumP) * 2 ^ w)

/-- The buckets whose results have begun to arrive come first, in the order of their arrival (R268). -/
def beginUpdates (bs : List Bucket) (chain bucket : Nat) : List Bucket :=
  let mine := bs.filter fun b => b.chain == chain && b.bucket == bucket
  if mine.any fun b => b.pieces.any fun p => decide (0 < p.results) then bs
  else
    let rest := bs.filter fun b => !(b.chain == chain && b.bucket == bucket)
    let begun (b : Bucket) : Bool := b.pieces.any fun p => decide (0 < p.results)
    rest.filter begun ++ mine ++ rest.filter fun b => !begun b

/-- The hash of a part-digest item (R348): its address and its bytes as written, a poisoned sector as 64 bytes of 0xFF. -/
def itemHash (addr : Nat) (bs : List PB) : Nat :=
  leNat (shake256 (natLE 8 addr ++ bs.map fun b => if b.2 then (0xFF : Byte) else b.1) 16)

/-- The item of a group's result in the result region (table Part digests). -/
def Dev.resultItem (d : Dev) (b : Bucket) (g : Nat) : Nat :=
  let p := groupPlace b.entries 0 g 0
  let r := b.resultRegion p.1
  itemHash (unitAddr r.1 r.2.1 p.2.1 0) (d.readGroup r.1 r.2.1 p.2.1 (p.2.2.1 * if r.2.2 then 4 else 2)).1

/-- Elements that a byte string of results holds, part by part. -/
def Bucket.elemsIn (b : Bucket) : List (Nat × Nat × Nat × Nat) → Nat → Nat
  | [], _ => 0
  | p :: ps, n =>
    let z := if b.partFmt p then 4 else 2
    if z * p.2.2.2 ≤ n then p.2.2.2 + b.elemsIn ps (n - z * p.2.2.2) else n / z

/-- The member that a RESULT goes to after this one: from the tail to the first member visited, then on to the one before the tail
(R315). -/
def nextForResult (order : List Nat) (me : Nat) : Option Nat :=
  if order.getLast? = some me then order.dropLast.head?
  else (order.dropLast.drop (order.dropLast.findIdx (· == me) + 1)).head?

/-- Notes that peer `a` received a result of the bucket's micro-batches from this module (R210). -/
def Dev.noteSumLeft (d : Dev) (b : Bucket) (a : Nat) : Dev :=
  d.setTxn fun t => { t with left := t.left ++ ((b.mbs.map fun m => (m, a)).filter fun x => !t.left.contains x) }

/-- A RESULT is held (R315, R316, R318, R199): written to the result region and passed on along the piece's order; it is then checked
for poison, non-finite elements and the withdrawal threshold. -/
def Dev.takeResult (d : Dev) (b : Bucket) (rail k off mask sumP : Nat) (bs : List PB) (pois : Bool) : Dev :=
  let span := d.pieceSpan b rail k
  let p := b.piece rail k
  let n := b.elemsIn (pieceParts b span.1 span.2 off (elemsOf b span.1 span.2)) bs.length
  let parts := pieceParts b span.1 span.2 off n
  let w := d.writeResults b parts bs
  let fwd := nextForResult (w.2.pieceOrder b.chain rail k) w.2.ctl.address
  let d1 := match fwd with
    | some a =>
      let x := w.2.send a 1 0x41 w.2.stepNo (sumParams b rail k off sumP) (clean (maskBytes mask) ++ bs) (some b.uid)
      if mask.testBit w.2.ctl.address then x.noteSumLeft b a else x
    | none => w.2
  let fresh := (List.range span.2).filterMap fun i =>
    let e := elemsOf b span.1 (i + 1)
    if p.results < e ∧ e ≤ off + n then some (span.1 + i) else none
  let dig := (fresh.map fun g => d1.resultItem b g).sum
  let d2 := (d1.setCtl fun c => { c with buckets := beginUpdates c.buckets b.chain b.bucket }).setBucket b.chain b.bucket fun x =>
    { (x.setPiece { x.piece rail k with results := off + n, mask := mask, sumP := sumP }) with
      arrived := if x.entries.isEmpty then x.arrived else x.arrived ++ fresh
      stale := if fresh.isEmpty then x.stale else []
      took := x.took ||| mask
      resDigest := (x.resDigest + dig) % 2 ^ 128 }
  let pol := d2.policy
  if pois then (d2.consume 9 0xFFFF (partPoison (fun e => ((b.resultRegion e).1, (b.resultRegion e).2.1)) (fun e => if (b.resultRegion e).2.2 then 4 else 2) parts bs)).raise 3
  else if w.1 then d2.raise 2
  else if overThreshold (d2.chainMembers b.chain).length pol.microBatches sumP pol.withdrawW then d2.raise 5
  else d2.checkBucket b.chain b.bucket

/-- A running sum of elements `off` on meets this member (R314, R315, R317): it adds its contribution where it is present, then passes
the sum on, or, as the tail, forms the results. -/
def Dev.visitSum (d : Dev) (b : Bucket) (rail k off mask sumP : Nat) (sums : List Pair) : Dev :=
  let span := d.pieceSpan b rail k
  let parts := pieceParts b span.1 span.2 off sums.length
  let me := d.ctl.address
  let c := if b.present then d.readContrib b parts else ([], d)
  if b.present && c.1.any (·.2) then (c.2.consume 7 0xFFFF (partPoison (fun e => contribRegion b.entries e b.contrib) (fun _ => 4) parts c.1)).raise 3
  else
    let xs := if b.present then List.zipWith addPairs sums (pairsOf c.1) else sums
    let mask1 := if b.present then mask ||| 2 ^ me else mask
    let sumP1 := if b.present then sumP + b.p else sumP
    let d1 := if b.present then c.2.countParts parts else c.2
    let order := d1.pieceOrder b.chain rail k
    let d2 := d1.setBucket b.chain b.bucket fun x =>
      { (x.setPiece { x.piece rail k with sums := off + sums.length, mask := mask1 }) with took := x.took ||| mask }
    if order.getLast? = some me then
      let e0 := (groupPlace b.entries 0 span.1 0).2.2.2 + off
      let fmts := (parts.map fun p => List.replicate p.2.2.2 (b.partFmt p)).flatten
      let bytes := (xs.zipIdx.map fun x => resultBytes d2.seed b.bucket b.rne (fmts.getD x.2 false) (e0 + x.2) x.1).flatten
      match d2.bucket b.chain b.bucket with
      | some b2 => d2.takeResult b2 rail k off mask1 sumP1 (clean bytes) false
      | none => d2
    else
      match (order.drop (order.findIdx (· == me) + 1)).head? with
      | some a =>
        let d3 := d2.send a 1 0x40 d2.stepNo (sumParams b rail k off sumP1) (clean (maskBytes mask1 ++ (xs.map pairBytes).flatten)) (some b.uid)
        if b.present then d3.noteSumLeft b a else d3
      | none => d2

/-- Starts the pieces whose first member is this one, in messages of up to 16,384 elements (R311, R317). -/
def Dev.startRun (d : Dev) (chain bucket : Nat) : Dev :=
  (d.piecesOf chain).foldl (fun d p =>
    match d.bucket chain bucket with
    | none => d
    | some b =>
      if (d.pieceOrder chain p.1 p.2).head? ≠ some d.ctl.address then d
      else
        let span := d.pieceSpan b p.1 p.2
        let n := elemsOf b span.1 span.2
        (List.range ((n + 16383) / 16384)).foldl (fun d i =>
          match d.bucket chain bucket with
          | some b => d.visitSum b p.1 p.2 (16384 * i) 0 0 (List.replicate (min 16384 (n - 16384 * i)) ⟨0, 0⟩)
          | none => d) d) d

/-! ### Re-runs (R319 to R322) -/

/-- Divisor of the updates of a group: members in the mask of the piece that holds it (R316). -/
def Dev.divisorOf (d : Dev) (b : Bucket) (g : Nat) : Nat :=
  match (d.piecesOf b.chain).find? fun p => let s := d.pieceSpan b p.1 p.2; decide (s.1 ≤ g) && decide (g < s.1 + s.2) with
  | some p => maskCount (b.piece p.1 p.2).mask
  | none => 0

/-- A member accepts a newer run of a bucket (R321, R322): its REDUCE waits for the new run, and the groups queued from the old one stay
queued until the first group of the new one arrives (R269). -/
def Dev.acceptRun (d : Dev) (chain bucket run excluded : Nat) : Dev :=
  match d.bucket chain bucket with
  | none => d
  | some b =>
    if run ≤ b.runId then d
    else
      let d0 := if excluded.testBit d.ctl.address then d.absent b else d
      let d1 := ((d0.setBucket chain bucket fun x =>
        { x with runId := run, runs := x.runs + 1, excluded := excluded, asked := x.asked ||| excluded, pieces := [], arrived := [],
                 stale := b.stale ++ b.arrived.map fun g => (g, d.divisorOf b g)
                 updated := [], nonfin := false, resDigest := 0, updDigest := 0, bite := 0, complete := false }).setAct b.uid
        fun a => { a with done := false }).setCtl fun c => { c with rerunCnt := satAdd 32 c.rerunCnt 1 }
      let d2 := d1.setTxn fun t => { t with settledOnce := false }
      if d2.policy.rerunLimit < b.runs + 1 then d2.raise 6 else d2.startRun chain bucket

/-- The leader issues a new run of a bucket (R319, R320). -/
def Dev.issueRun (d : Dev) (chain bucket : Nat) : Dev :=
  match d.bucket chain bucket with
  | none => d
  | some b =>
    let place := ((d.rails chain).headD []).findIdx (· == d.ctl.address)
    let run := 2 ^ 20 * place + (b.leads + 1)
    let d1 := d.setBucket chain bucket fun x => { x with leads := x.leads + 1 }
    let rcv := (d1.chainMembers chain).filter fun a => a != d1.ctl.address && (d1.peer a).state == 3
    let d2 := rcv.foldl (fun d a => d.send a 1 0x43 d.stepNo (natLE 2 chain ++ natLE 2 bucket ++ natLE 4 run) (clean (maskBytes b.asked))) d1
    d2.acceptRun chain bucket run b.asked

/-- A member asks for a re-run of a bucket: the leader is told, or acts where it is this module (R319). -/
def Dev.askRun (d : Dev) (b : Bucket) : Dev :=
  match d.leader b.chain with
  | none => d
  | some a =>
    if a = d.ctl.address then (d.setBucket b.chain b.bucket fun x => { x with asked := x.asked ||| 2 ^ a }).issueRun b.chain b.bucket
    else d.send a 1 0x42 d.stepNo (natLE 2 b.chain ++ natLE 2 b.bucket ++ natLE 4 b.runId) []

/-- Withdraws micro-batch `mb` of the open step (R196, R210, R313, R319): peers that received results of it are told, buckets that
hold it run again without this module. In a frog it aborts the step (R360). -/
def Dev.withdraw (d : Dev) (mb cause : Nat) : Dev :=
  match d.ctl.txn with
  | none => d
  | some t =>
    if t.aborted || t.withdrawn.contains mb then d
    else if d.inFrog then d.raise 16
    else
      let told := ((t.left.filter fun x => x.1 == mb).map (·.2)).eraseDups.filter fun a => (d.peer a).state == 3
      let d1 := d.setTxn fun t => { t with withdrawn := t.withdrawn ++ [mb] }
      let d2 := told.foldl (fun d a =>
        ((d.send a 0 0x20 d.stepNo (natLE 8 d.ctl.moduleId ++ natLE 1 mb ++ natLE 1 cause) []).logRetract 0x13 d.stepNo a mb cause).setTxn fun t =>
          { t with rsent := t.rsent ++ [⟨d.ctl.moduleId, mb, [a], cause, false, [], []⟩] }) d1
      (d2.ctl.buckets.filter fun b => b.mbs.contains mb && b.present).foldl (fun d b => (d.absent b).askRun b) d2

/-- A finding in a descriptor's work (R195, R199, R233, R303): nothing for setup work, an abort for step-wide work, else the
withdrawal of its micro-batch. -/
def Dev.workFails (d : Dev) (b : List Byte) (retract abort : Nat) : Dev :=
  if flagSetup b then d else if flagWide b then d.raise abort else d.withdraw (microOf b) retract

/-- Abort cause of step-wide work that used retracted data, from the cause of the retraction (R195, R210, R344). -/
def retractAbort (cause : Nat) : Nat := match cause with | 1 => 7 | 2 => 2 | 3 => 1 | _ => 3

/-- Withdraws every use of data that a peer has retracted: the micro-batch that used it, or the step for step-wide work (R211; log entry
157). -/
def Dev.withdrawUses (d : Dev) : Dev :=
  match d.ctl.txn with
  | none => d
  | some t =>
    if t.aborted then d
    else t.used.foldl (fun d u =>
      match t.retracted.find? fun r => r.1 == u.1 with
      | none => d
      | some r =>
        if u.2 = 256 then d.raise (retractAbort r.2)
        else (d.withdraw u.2 r.2).setTxn fun t => { t with used := t.used.filter (· != u) }) d

/-! ### The start of a REDUCE: the local contribution (R312) -/

/-- Adds the gradient of one micro-batch into the accumulated pairs of a group. -/
def Dev.addGradient (d : Dev) (entries : List UEntry) (base g : Nat) (acc : List Pair) : List Pair × Bool × Dev :=
  let p := groupPlace entries 0 g 0
  let r := contribRegion entries p.1 base
  let v := d.readGroup r.1 r.2 p.2.1 (4 * p.2.2.1)
  (List.zipWith addPairs acc (pairsOf v.1), v.1.any (·.2), v.2.countAdds p.2.1 p.2.2.1)

/-- Whether a micro-batch's gradient holds poison. -/
def Dev.gradPoisoned (d : Dev) (entries : List UEntry) (total base : Nat) : Option Nat × Dev :=
  (List.range total).foldl (fun (acc : Option Nat × Dev) g =>
    let p := groupPlace entries 0 g 0
    let r := contribRegion entries p.1 base
    let v := acc.2.readGroup r.1 r.2 p.2.1 (4 * p.2.2.1)
    (acc.1.or (if v.1.any (·.2) then some (unitPoison r.1 r.2 p.2.1 0 v.1) else none), v.2)) (none, d)

/-- Forms the contribution of one group from the micro-batches' gradient bases; the flag says whether an element is non-finite. -/
def Dev.contribGroup (d : Dev) (b : Bucket) (bases : List Nat) (g : Nat) : Bool × Dev :=
  let p := groupPlace b.entries 0 g 0
  let acc := bases.foldl (fun (acc : List Pair × Dev) base =>
    let v := acc.2.addGradient b.entries base g acc.1
    (v.1, v.2.2)) (List.replicate p.2.2.1 (⟨0, 0⟩ : Pair), d)
  let c := acc.1.map fun x => toPair rne ((pairVal x).div (numOf bases.length))
  let r := contribRegion b.entries p.1 b.contrib
  (c.any fun x => !(decodeF .b16 x.hi).finite,
   acc.2.writeUnits (0x10 + b.colony) r.1 r.2 p.2.1 (r.2 + 1) 0 (clean (c.map pairBytes).flatten))

/-- The local phase of R312: poisoned micro-batches are withdrawn first and stay out; the contribution is formed and retained. -/
def Dev.localPhase (d : Dev) (b : Bucket) (grads : List Nat) : Dev :=
  let have' (d : Dev) (m : Nat) : Bool := match d.ctl.txn with | some t => !t.withdrawn.contains m | none => false
  let d1 := (List.range grads.length).foldl (fun d m =>
    if have' d m then
      let v := d.gradPoisoned b.entries b.total (grads.getD m 0)
      match v.1 with
      | some a => (v.2.consume 6 0xFFFF a).withdraw m 4
      | none => v.2
    else d) d
  let mbs := (List.range grads.length).filter (have' d1)
  let r := if mbs.isEmpty then (false, d1)
    else (List.range b.total).foldl (fun (acc : Bool × Dev) g =>
      let v := acc.2.contribGroup b (mbs.map fun m => grads.getD m 0) g
      (acc.1 || v.1, v.2)) (false, d1)
  let ok := !mbs.isEmpty && !r.1
  (r.2.setBucket b.chain b.bucket fun x => { x with mbs := mbs, p := mbs.length, present := ok }).setCtl fun c =>
    if ok then c else { c with absentCnt := satAdd 32 c.absentCnt 1 }

end Sys2Proof.Machine
end

