-- ==== Sys2Proof/Machine/Rings.lean ====
section
/-! DEFINITION. Rings.lean: doorbells, ring control, descriptor fetch, and the descriptors that need nothing but memory, semaphores
and the gauge phase: FILL, COPY, MARK, WAIT, SIGNAL and the FENCE barrier (R388 to R409, R451, R452). -/
namespace Sys2Proof.Machine
open Sys2Proof

/-- Bit number of an AER uncorrectable error (R428; the numbers are those of the PCI Express standard, log entry 25). No rule makes the
module answer with Completer Abort, which would be 15. -/
def aerDataLink : Nat := 4
def aerPoisoned : Nat := 12
def aerTimeout : Nat := 14
def aerUnexpected : Nat := 16
def aerMalformed : Nat := 18
def aerUnsupported : Nat := 20
def aerIde : Nat := 28

/-- A correctable error by its bit: Receiver Error 0, Bad TLP 6, REPLAY_NUM Rollover 8, Replay Timer Timeout 12, Advisory Non-Fatal Error
13, Header Log Overflow 15 (R428). -/
def aerCorrectable (b : Nat) : Nat := 32 + b

/-- The error of a transaction, whose header is logged; a header that finds the log in use overflows it (R413, R428). -/
def HostPort.logHeader (h : HostPort) (e addr : Nat) : HostPort :=
  if e = aerDataLink ∨ e = aerTimeout ∨ 32 ≤ e then h
  else match h.headerLog with
    | none => { h with headerLog := some (e, addr) }
    | some _ => { h with aer := ⟨aerCorrectable 15, false, addr⟩ :: h.aer }

/-- Logs an AER error with the severity that configuration space gives it (R428). -/
def Dev.aer (d : Dev) (e addr : Nat) : Dev :=
  d.setHost fun h => { h with aer := ⟨e, decide (e < 32) && bitAt h.cfg.severity e, addr⟩ :: h.aer }.logHeader e addr

/-- Logs an error that is an Advisory Non-Fatal Error besides where its severity is not fatal (R428; log entry 25). -/
def Dev.aerAdvisory (d : Dev) (e addr : Nat) : Dev :=
  if bitAt d.host.cfg.severity e then d.aer e addr else (d.aer e addr).aer (aerCorrectable 13) addr

/-- The error of a transaction that the port drops before any unit sees it (R428, R429). -/
def dropError : Tlp → Option Nat
  | .ide => some aerIde
  | .malformed => some aerMalformed
  | _ => none

/-- A completion with status UR for a read, or a write dropped as an Unsupported Request (R417, R428). -/
def Dev.unsupported (d : Dev) (tag : Option Nat) (a : Nat) : Dev :=
  match tag with
  | some t => (d.setHost fun h => { h with out := .ur t :: h.out }).aerAdvisory aerUnsupported a
  | none => d.aer aerUnsupported a

/-! ### Ring control (R451, R452, R408, R409) -/

/-- Slots of a ring for a log2_size field: below 6 acts as 6, above 16 as 16 (R451). -/
def ringSize (ctrl : Nat) : Nat := 2 ^ min 16 (max 6 (slice ctrl 12 8))

/-- The size that a ring's doorbells and registers use: the sampled one while enabled. -/
def Ring.size (x : Ring) : Nat := if x.enable then x.sSize else ringSize x.ctrl

/-- A ring as an enable leaves it (R451). -/
def enabledRing (x : Ring) : Ring :=
  let dev := bitAt x.ctrl 1
  let cdev := bitAt x.ctrl 2
  { x with
    enable := true, sSize := ringSize x.ctrl, sRingDev := dev, sCplDev := cdev
    sBase := if dev then x.base % 2 ^ 40 else x.base
    sCpl := if cdev then x.cplBase % 2 ^ 40 else x.cplBase
    halted := false, haltCode := 0, haltAt := 0, head := 0, fetchAt := 0, retired := 0, done := [], queue := [], removing := false,
    gen := x.gen + 1 }

/-- RING_RESUME (R409): ignored on a ring that is not halted. -/
def resumedRing (x : Ring) : Ring :=
  if x.halted then { x with halted := false, haltCode := 0, haltAt := 0, queue := [], fetchAt := x.head } else x

/-- A ring after a write of CTL_RING_CTRL (R451, R452, R409): the locations and the size, then enable, then resume. -/
def ctrlWritten (val : Nat) (x : Ring) : Ring :=
  let y := { x with ctrl := (val &&& 0x1F06) }
  let z := if bitAt val 0 then (if x.enable then y else enabledRing y)
    else if x.enable then { y with enable := false, queue := [], fetchAt := y.head } else y
  if bitAt val 16 then resumedRing z else z

/-- A ring after a write of CTL_RING_HEAD (R409): on a halted ring, a slot of the span from the halting slot forward to the tail
becomes the head; places passed over count as retired, places to run again do not (log entry 26). -/
def headWritten (slot : Nat) (x : Ring) : Ring :=
  let off := (slot + x.sSize - x.haltAt % x.sSize) % x.sSize
  let span := (x.tail % x.sSize + x.sSize - x.haltAt % x.sSize) % x.sSize
  if !x.halted || decide (x.sSize ≤ slot) || decide (span < off) then x
  else
    let h := x.haltAt + off
    let passed := ((List.range (h - x.head)).map fun i => x.head + i)
    let kept := (x.done ++ passed).filter fun p => decide (p < h)
    let run := retireRun (kept.length + 1) (min x.retired h) kept
    { x with head := h, fetchAt := h, queue := [], retired := run.1, done := run.2 }

/-- The function takes BAR requests: not in D3hot (R422). -/
def Dev.barOpen (d : Dev) : Bool := !d.host.d3hot

/-- Whether the die of a block is powered and has its clock (R31, R432): the I/O dies from order 4 of the table Power-up on, C-dies and
M-dies from order 5, the management island always. -/
def State.readable (s : State) (off : Nat) : Bool :=
  let alive (order x : Nat) : Bool := decide (order ≤ s.pwr.bootOrder) && !s.pwr.deadDies.contains x
  if off < 0x100000 then alive 4 12
  else if off < 0x2A0000 then alive 5 ((off - 0x100000) / 0x4000 / 26)
  else if off < 0x380000 then alive 5 (4 + (off - 0x300000) / 0x10000)
  else if off < 0x480000 then alive 4 (12 + (off - 0x400000) / 0x4000 / 16)
  else if off < 0x1000000 then alive 4 12
  else true

/-- A write of the driver to BAR0 or BAR4 (R421, R422, R428, R429): none arrives while the link is down; one that fails its IDE check or is
malformed is dropped; one that `bad` calls unsupported, or any in D3hot, is an Unsupported Request; a poisoned one is dropped. -/
def State.barWrite (s : State) (off : Nat) (tlp : Tlp) (bad : Bool) (f : State → State) : State :=
  if !s.d.host.linkUp then s
  else match dropError tlp with
    | some e => { s with d := s.d.aer e off }
    | none =>
      if !s.d.barOpen || bad then { s with d := s.d.unsupported none off }
      else if tlp = .poisoned then { s with d := s.d.aer aerPoisoned off }
      else f s

/-- A write of the driver to one register, dropped where its block has no power or no clock (R432). -/
def State.regSet (s : State) (off : Nat) (f : Dev → Dev) : State :=
  s.barWrite off .good false fun s => if s.readable off then { s with d := f s.d } else s

/-- BAR0 offset of a register of ring r (R451). -/
def ringReg (r o : Nat) : Nat := 0x11000 + 0x40 * r + o

/-- DOORBELL (R389, R416): a one-DW write with all byte enables; every other write is ignored. The tail it sets is the control plane's. -/
def execDoorbell (ring val be : Nat) (tlp : Tlp) (s : State) : Host.Outcome State Fault Refusal :=
  nextS s fun s => s.barWrite (0x1000 * ring) tlp false fun s =>
    if be = 15 ∧ s.readable (ringReg ring 0x1C) = true then
      { s with d := s.d.setRing ring fun x => { x with tail := (val % 65536) % x.size } }
    else s

/-- RING_ENABLE (R451): a write of CTL_RING_CTRL with enable set. -/
def execRingEnable (ring val : Nat) (s : State) : Host.Outcome State Fault Refusal :=
  nextS s fun s => s.regSet (ringReg ring 0x10) fun d => if bitAt val 0 then d.setRing ring (ctrlWritten val) else d

/-- RING_DISABLE (R452): a write of CTL_RING_CTRL with enable clear. -/
def execRingDisable (ring val : Nat) (s : State) : Host.Outcome State Fault Refusal :=
  nextS s fun s => s.regSet (ringReg ring 0x10) fun d => if bitAt val 0 then d else d.setRing ring (ctrlWritten val)

/-- RING_RESUME (R409). -/
def execRingResume (ring : Nat) (s : State) : Host.Outcome State Fault Refusal :=
  nextS s fun s => s.regSet (ringReg ring 0x10) fun d => d.setRing ring resumedRing

/-- RING_HEAD_WRITE (R409). -/
def execRingHeadWrite (ring val : Nat) (s : State) : Host.Outcome State Fault Refusal :=
  nextS s fun s => s.regSet (ringReg ring 0x18) fun d => d.setRing ring (headWritten (val % 65536))

/-! ### Descriptor fetch (R389, R390, R420, R421) -/

/-- A slot that could not be read: its tag is 0 for an unmapped slot (R390), else a free value. -/
def unread (place status tag : Nat) : Desc := ⟨place, zeros 8 ++ natLE 8 tag ++ zeros 48, status⟩

/-- Slots between the fetch place and the tail. -/
def Ring.unfetched (x : Ring) : Nat := (x.tail % x.sSize + x.sSize - x.fetchAt % x.sSize) % x.sSize

/-- Appends a fetched slot. -/
def Dev.fetchedSlot (d : Dev) (r : Nat) (x : Desc) : Dev :=
  d.setRing r fun y => { y with queue := y.queue ++ [x], fetchAt := y.fetchAt + 1 }

/-- DESCRIPTOR_FETCH (R390): the next slot of a ring is read. Device memory gives its own bytes; from host memory the outcome is 0
for a completion with data, 1 for UR, 2 for a poisoned completion, 3 for a timeout and 4 for one that fails its IDE check (R429). -/
def execDescriptorFetch (ring : Nat) (bytes : List Byte) (outcome : Nat) (s : State) : Host.Outcome State Fault Refusal :=
  nextD s fun d =>
    let x := d.ring ring
    if !(d.fetched ring && x.enable && !x.halted) || x.unfetched == 0 then d
    else
      let addr := x.sBase + 64 * (x.fetchAt % x.sSize)
      if x.sRingDev then
        (if d.mapped addr 64 then
          let v := d.read addr 64
          if v.1.any (·.2) then v.2.fetchedSlot ring ⟨x.fetchAt, v.1.map (·.1), 0x13⟩
          else v.2.fetchedSlot ring ⟨x.fetchAt, v.1.map (·.1), 0⟩
        else d.fetchedSlot ring (unread x.fetchAt 0x03 0))
      else if d.host.linkUp && !d.hostReady then d
      else if d.host.linkUp && outcome == 0 then d.fetchedSlot ring ⟨x.fetchAt, sub bytes 0 64, 0⟩
      else
        let f := d.drawFree
        let d1 := if !d.host.linkUp || outcome == 3 then f.2.aer aerTimeout addr else if outcome == 2 then f.2.aer aerPoisoned addr
          else if outcome == 4 then f.2.aer aerIde addr else f.2
        d1.fetchedSlot ring (unread x.fetchAt 0x13 (Config.lostTag f.1 % 2 ^ 64))

/-! ### FILL and COPY (R401) -/

/-- Logical tiles of a colony in ascending order. -/
def Dev.members (d : Dev) (colony : Nat) : List Nat :=
  match d.ctl.pattern with
  | some p => (List.range p.tiles.length).filter fun l => (p.tiles[l]?.bind (·.colony)) == some colony
  | none => []

/-- The bytes of a FILL: byte b of the range is byte b mod 8 of its value. -/
def fillBytes (value : List Byte) (n : Nat) : List Byte := (List.range n).map fun b => value.getD (b % 8) 0

/-- An input entry (R356, R357): address, length, and the first 16 bytes of SHAKE256 over the bytes read. -/
def inputEntry (addr len : Nat) (bs : List PB) : List Byte :=
  natLE 8 addr ++ natLE 8 len ++ shake256 (bs.map (·.1)) 16

/-- The order key of an entry: colony, or 8, 9 and 10 for the rings without one, then operation index or place (R357). -/
def inputKey (r : Nat) (a : Active) : Nat := (if isColony r then r - 1 else if r = 0 then 10 else r - 1) * 2 ^ 64 + (if isColony r then a.iota else a.place)

/-- Records the input entry of a descriptor of the open step, those of the control ring between TXN_BEGIN and COMMIT among them (R357). -/
def Dev.recordInput (d : Dev) (a : Active) (addr len : Nat) (bs : List PB) : Dev :=
  if flagInput a.bytes && d.stepOpen && (a.ring == 0 || d.ofStep a) then
    d.setTxn fun t => { t with inputs := t.inputs ++ [(inputKey a.ring a, inputEntry addr len bs)] }
  else d

/-- Counts bytes that the DMA engine of the tile at a place moves (R395, R455). -/
def Dev.countDma (d : Dev) (r place n : Nat) : Dev :=
  if isColony r then
    match ((d.members (r - 1))[place]?).bind d.physOf with
    | some p => d.setTile p fun t => { t with dmaBytes := (t.dmaBytes + n) % 2 ^ 64 }
    | none => d
  else d

/-- The field checks that FILL and COPY share (R393, R395). -/
def Dev.transferFieldsOk (d : Dev) (r : Nat) (b : List Byte) : Bool :=
  (!isColony r || decide (placeOf b < (d.members (r - 1)).length)) && (kindOf b == 0x09 || !flagInput b)

/-- Every range that is mapped (R218). -/
def Dev.allMapped (d : Dev) (rs : List (Nat × Nat)) : Bool := rs.all fun w => decide (w.2 = 0) || d.mapped w.1 w.2

/-- FILL at the head (R401, R517). -/
def Dev.fillHead (d : Dev) (r : Nat) (x : Desc) : Dev :=
  let dst := addr40 x.bytes 16
  let len := addr40 x.bytes 24
  if d.clash r [] [(dst, len)] then d
  else if !d.transferFieldsOk r x.bytes then d.refuseHead r 0x02
  else if !d.allMapped [(dst, len)] then d.refuseHead r 0x03
  else
    let a := d.start r x [] [(dst, len)]
    let d1 := a.2.writeAs (.byStep (ringSource r)) a.1.uid dst (clean (fillBytes (sub x.bytes 32 8) len))
    (d1.countDma r (placeOf x.bytes) len).finish a.1.uid 0

/-- COPY at the head (R401, R517): source and destination that overlap complete with OVERLAP before anything is written. -/
def Dev.copyHead (d : Dev) (r : Nat) (x : Desc) : Dev :=
  let src := addr40 x.bytes 16
  let dst := addr40 x.bytes 24
  let len := addr40 x.bytes 32
  if d.clash r [(src, len)] [(dst, len)] then d
  else if !d.transferFieldsOk r x.bytes then d.refuseHead r 0x02
  else if !d.allMapped [(src, len), (dst, len)] then d.refuseHead r 0x03
  else if overlaps (src, len) (dst, len) then d.refuseHead r 0x0A
  else
    let a := d.start r x [(src, len)] [(dst, len)]
    let v := a.2.read src len
    let d1 := (v.2.recordInput a.1 src len v.1).writeAs (.byStep (ringSource r)) a.1.uid dst v.1
    (d1.countDma r (placeOf x.bytes) len).finish a.1.uid 0

/-- FILL (R401). -/
def execFill (ring : Nat) (s : State) : Host.Outcome State Fault Refusal :=
  nextD s fun d => d.issue ring 0x08 false (d.fillHead ring)

/-- COPY (R401). -/
def execCopy (ring : Nat) (s : State) : Host.Outcome State Fault Refusal :=
  nextD s fun d => d.issue ring 0x09 false (d.copyHead ring)

/-! ### MARK, WAIT, SIGNAL, FENCE barrier (R391, R401, R402, R484) -/

/-- Phases that a MARK may set (table Gauge phases). -/
def markPhase (p : Nat) : Bool := [1, 2, 3, 4, 5, 9, 10, 11, 15].contains p

/-- MARK at the head: the colony's gauge phase, or an event that carries the tag (R401, R484). -/
def Dev.markHead (d : Dev) (r : Nat) (x : Desc) : Dev :=
  let p := byteAt x.bytes 16
  if !markPhase p || flagInput x.bytes then d.refuseHead r 0x02
  else if isColony r then (d.setCtl fun c => { c with phase := tset c.phase (r - 1) p }).refuseHead r 0
  else (d.logEv 0 0x0050 r (natLE 8 (tagOf x.bytes)) 0).refuseHead r 0

/-- WAIT at the head: it waits until the semaphore is at least its value (R402). -/
def Dev.waitHead (d : Dev) (r : Nat) (x : Desc) : Dev :=
  let n := byteAt x.bytes 16
  if 64 ≤ n ∨ flagInput x.bytes then d.refuseHead r 0x02
  else if field x.bytes 20 4 ≤ tget 0 d.ctl.sems n then d.refuseHead r 0
  else d

/-- No earlier descriptor of the ring is incomplete (R391). -/
def Dev.ringIdle (d : Dev) (r : Nat) : Bool := d.acts.all fun a => a.ring != r

/-- SIGNAL at the head: after every earlier descriptor of its ring, it adds its value, saturating (R391, R402). -/
def Dev.signalHead (d : Dev) (r : Nat) (x : Desc) : Dev :=
  let n := byteAt x.bytes 16
  if !d.ringIdle r then d
  else if 64 ≤ n ∨ flagInput x.bytes then d.refuseHead r 0x02
  else (d.setCtl fun c => { c with sems := tset c.sems n (satAdd 32 (tget 0 c.sems n) (field x.bytes 20 4)) }).refuseHead r 0

/-- MARK (R401). -/
def execMark (ring : Nat) (s : State) : Host.Outcome State Fault Refusal :=
  nextD s fun d => d.issue ring 0x0F false (d.markHead ring)

/-- WAIT (R402). -/
def execWait (ring : Nat) (s : State) : Host.Outcome State Fault Refusal :=
  nextD s fun d => d.issue ring 0x10 false (d.waitHead ring)

/-- SIGNAL (R402). -/
def execSignal (ring : Nat) (s : State) : Host.Outcome State Fault Refusal :=
  nextD s fun d => d.issue ring 0x11 false (d.signalHead ring)

/-- FENCE barrier (R391). -/
def execFenceBarrier (ring : Nat) (s : State) : Host.Outcome State Fault Refusal :=
  nextD s fun d => d.issue ring 0x0A false fun x =>
    if byteAt x.bytes 16 ≠ 0 ∨ !d.ringIdle ring then d else d.refuseHead ring (if flagInput x.bytes then 0x02 else 0)

end Sys2Proof.Machine
end

