-- ==== Sys2Proof/Machine/Tiles.lean ====
section
/-! DEFINITION. Tiles.lean: what the tile commands share: members and shares (R299, R395), port blocks and port ranges (R397, R170),
operands of a GEMM (R396, R514), and the accumulation of an output tile (R153). -/
namespace Sys2Proof.Machine
open Sys2Proof

/-! ### Structure of the loaded pattern -/

/-- A colony of the loaded pattern. -/
def Dev.colony (d : Dev) (k : Nat) : Option Colony := d.ctl.pattern.bind fun p => tlook p.colonies k

/-- A cast profile of a colony. -/
def Dev.profile (d : Dev) (k i : Nat) : Option Profile := (d.colony k).bind fun c => tlook c.profiles i

/-- A stream graph of a colony. -/
def Dev.graph (d : Dev) (k i : Nat) : Option Graph := (d.colony k).bind fun c => tlook c.graphs i

/-- The scratchpad window of logical tile l (R218). -/
def winOf (l : Nat) : Nat := 0xB000000000 + 0x400000 * l

/-- Size of a tile's partition. -/
def Dev.partBytes (d : Dev) (l : Nat) : Nat := (d.part l).size * 65536

/-- Size of a tile's operand space, which the finished-tile area follows (R225). -/
def Dev.operandBytes (d : Dev) (l : Nat) : Nat := ((d.part l).size - (d.part l).ftArea - (d.part l).headroom) * 65536


/-- The step seed of the step that a descriptor works for (R52, R394). -/
def Dev.seedOf (d : Dev) (step : Nat) : Nat := stepSeed (match d.ctl.pattern with | some p => p.jobSeed | none => 0) step

/-- Changes the physical tile that holds a logical tile. -/
def Dev.setLogical (d : Dev) (l : Nat) (f : Tile → Tile) : Dev := match d.physOf l with | some p => d.setTile p f | none => d

/-- The physical tile that holds a logical tile; the record of tile 0xFF where none does. -/
def Dev.logical (d : Dev) (l : Nat) : Tile := d.tile ((d.physOf l).getD 0xFF)

/-- Colony of a logical tile. -/
def Dev.colonyOf (d : Dev) (l : Nat) : Option Nat :=
  match d.ctl.pattern with | some p => p.tiles[l]?.bind (·.colony) | none => none

/-- Duplicate checks of a logical tile's output tiles that are not resolved (R206). -/
def Dev.ownChecks (d : Dev) (l : Nat) : List Check :=
  d.tiles.flatMap fun e => (e.2.checks ++ e.2.overflowChecks).filter fun c => c.tile == l

/-- Physical tile of the current partner of a logical tile (R204); none in a colony of one tile. -/
def Dev.partnerOf (d : Dev) (l : Nat) : Option Nat :=
  let ms := match d.colonyOf l with | some k => d.members k | none => []
  if ms.length ≤ 1 then none else (ms[(ms.findIdx (· == l) + ms.length / 2) % ms.length]?).bind d.physOf

/-- The members that a descriptor runs on (R395); none where place and tiles leave the colony. -/
def Dev.shareTiles (d : Dev) (colony : Nat) (b : List Byte) : Option (List Nat) :=
  let ms := d.members colony
  let n := if tilesOf b = 0 then ms.length - placeOf b else tilesOf b
  if placeOf b < ms.length ∧ placeOf b + n ≤ ms.length then some ((ms.drop (placeOf b)).take n) else none

/-- The share of one tile: its first unit and their number, and the rows and columns of its port addressing (R397). -/
structure Share where
  tile : Nat
  first : Nat
  count : Nat
  nr : Nat
  nc : Nat
deriving DecidableEq, Repr

/-- Shares of `u` units among tiles; a tile without a unit has none. -/
def sharesOf (tiles : List Nat) (u : Nat) (nr nc : Nat → Nat → Nat) : List Share :=
  tiles.zipIdx.filterMap fun x =>
    let s := splitShare u tiles.length x.2
    if s.2 = 0 then none else some ⟨x.1, s.1, s.2, nr s.1 s.2, nc s.1 s.2⟩

/-! ### Port blocks (R157, R168, R170, R188, R397) -/

/-- Entry e of a port block: offset and row stride. -/
def portEntry (pb : List Byte) (e : Nat) : Nat × Nat := (field pb (16 * e) 4, field pb (16 * e + 4) 4)

/-- A range that a run's port covers: kind 0 the finished-tile area, 1 read, 2 write; offset in the partition, length, stride, and a
code of its format and shape. -/
structure Span where
  kind : Nat
  off : Nat
  len : Nat
  stride : Nat
  code : Nat
deriving DecidableEq, Repr

/-- Bytes from the first to the last of `nr` rows of `nc` elements. -/
def extent (nr nc stride z : Nat) : Nat := if nr = 0 ∨ nc = 0 then 0 else (nr - 1) * stride + nc * z

/-- The plain copy of a drain, as a graph (R168). -/
def copyGraph (pair : Bool) : Graph :=
  { readFmts := [0xFE, 0xFF, 0xFF, 0xFF, 0xFF], writePorts := 1, rowUsed := false, colUsed := false, constInt := 0, rowFmt := 0, colFmt := 0,
    consts := [], stages := [⟨0x50, 0x40, 0xFF, 0xFF, false, false, true, 0, b2n pair, 0, 0⟩] }

/-- The element size of a reduction's output. -/
def reduceBytes (op : Nat) : Nat := if op = 0x42 ∨ op = 0x43 then 2 else 4

/-- The CASTW stage of a graph: its index and itself. -/
def Graph.castw (g : Graph) : Option (Nat × Stage) := (g.stages.zipIdx.find? fun x => x.1.op == 0x51).map fun x => (x.2, x.1)

/-- Records of a tensor of `nr` rows and `nc` positions (R127). -/
def panelCount (nr nc : Nat) : Nat := ceilDiv nr 128 * ceilDiv nc 128

/-- The ranges of a run over a share (R397); `drain` leaves read port 0 to the record. DESIGN CHOICE (log entry 153): two write-type stages
of one graph that name the same write port have the same range, so the run ends with OVERLAP. -/
def runSpans (g : Graph) (pb : List Byte) (nr nc : Nat) (drain : Bool) (profile : Nat → Option Profile) : List Span :=
  let reads := (List.range 5).filterMap fun q =>
    let k := g.readFmts.getD q 0xFF
    if (drain && q == 0) || !portFmtOk k then none
    else let e := portEntry pb q; some ⟨1, e.1, extent nr nc e.2 (portBytes k), e.2, k⟩
  let vec (on : Bool) (e n k : Nat) : List Span := if on then [⟨1, (portEntry pb e).1, n * portBytes k, 0, 0x100 + e⟩] else []
  let writes := g.stages.filterMap fun st =>
    let e := portEntry pb (5 + st.port)
    if st.op = 0x50 then some ⟨2, e.1, extent nr nc e.2 (portBytes st.format), e.2, st.format⟩
    else if st.op = 0x51 then
      some ⟨2, e.1, panelCount nr nc * (match profile st.profile with | some p => recordSize p.target p.budget | none => 0), 0, 0x51⟩
    else if opTerminal st.op then some ⟨2, e.1, (if st.op = 0x45 then nc else nr) * reduceBytes st.op, 0, 0x200 + st.op⟩
    else none
  reads ++ vec g.rowUsed 9 nc g.rowFmt ++ vec g.colUsed 10 nr g.colFmt ++ writes

/-- The finished-tile area as a range. -/
def Dev.ftSpan (d : Dev) (l : Nat) : Span := ⟨0, d.operandBytes l, (d.part l).ftArea * 65536, 0, 0⟩

/-- Two ranges of one run share a byte. -/
def Span.meets (a b : Span) : Bool := decide (0 < a.len) && decide (0 < b.len) && overlaps (a.off, a.len) (b.off, b.len)

/-- A write port in place of a read port: the same range, format and shape (R170). -/
def Span.inPlace (a b : Span) : Bool :=
  ((a.kind == 1 && b.kind == 2) || (a.kind == 2 && b.kind == 1)) && a.off == b.off && a.len == b.len && a.stride == b.stride && a.code == b.code

/-- The pairs of a list. -/
def pairsIn {α : Type} : List α → List (α × α)
  | [] => []
  | x :: xs => xs.map (fun y => (x, y)) ++ pairsIn xs

/-- The ranges of a run overlap against R170, or a run with a CASTW stage writes in place (R188). -/
def badOverlap (spans : List Span) (castw : Bool) : Bool :=
  (pairsIn spans).any fun x => x.1.meets x.2 && (castw || !x.1.inPlace x.2)

/-- The ranges stay in the tile's partition (R157). -/
def Dev.spansInside (d : Dev) (l : Nat) (spans : List Span) : Bool := spans.all fun s => s.len == 0 || decide (s.off + s.len ≤ d.partBytes l)

/-- The device ranges of a run that are read, and those that are written. -/
def spanRanges (l kind : Nat) (spans : List Span) : List (Nat × Nat) := (spans.filter fun s => s.kind == kind).map fun s => (winOf l + s.off, s.len)

/-! ### GEMM fields (R396) -/

/-- The fields of a GEMM descriptor. -/
structure Gemm where
  aLocal : Bool
  aAddr : Nat
  bLocal : Bool
  bAddr : Nat
  m : Nat
  n : Nat
  k : Nat
  profile : Nat
  graph : Nat
  ref : Bool
  split : Bool
  ports : Nat
  key : Nat
deriving DecidableEq, Repr

/-- Reads the fields. -/
def gemmOf (b : List Byte) : Gemm :=
  let loc (i : Nat) : Bool := bitAt (byteAt b (i + 7)) 7
  let addr (i : Nat) : Nat := if loc i then field b i 3 % 2 ^ 22 else addr40 b i
  ⟨loc 16, addr 16, loc 24, addr 24, field b 32 4, field b 36 4, field b 40 4, byteAt b 44, byteAt b 45, bitAt (byteAt b 46) 0,
    bitAt (byteAt b 46) 1, addr40 b 48, field b 56 2⟩

/-- The ranges of R396. -/
def Gemm.fieldsOk (g : Gemm) : Bool :=
  decide (1 ≤ g.m) && decide (g.m ≤ 65536) && decide (1 ≤ g.n) && decide (g.n ≤ 65536) && decide (1 ≤ g.k) && decide (g.k ≤ 1048576) &&
    (decide (g.graph ≤ 63) || g.graph == 0xFF)

/-- Rows of an output tile (R130). -/
def Gemm.h (g : Gemm) (p : Profile) : Nat := if p.compensated && !g.ref then 64 else 128

/-- Columns of output tiles. -/
def Gemm.nj (g : Gemm) : Nat := ceilDiv g.n 512

/-- Panel columns. -/
def Gemm.npk (g : Gemm) : Nat := ceilDiv g.k 128

/-- The shares of a GEMM (R395). -/
def Gemm.shares (g : Gemm) (h : Nat) (tiles : List Nat) : List Share :=
  if g.split then sharesOf tiles (ceilDiv g.m h) (fun a c => min g.m (h * (a + c)) - h * a) (fun _ _ => g.n)
  else sharesOf tiles g.nj (fun _ _ => g.m) (fun a c => min g.n (512 * (a + c)) - 512 * a)

/-- Output tiles of a share, and the tile of an ordinal: ascending i, then ascending j (R395). -/
def Gemm.total (g : Gemm) (h : Nat) (s : Share) : Nat := s.count * if g.split then g.nj else ceilDiv g.m h
def Gemm.tileAt (g : Gemm) (first count ord : Nat) : Nat × Nat :=
  if g.split then (first + ord / g.nj, ord % g.nj) else (ord / count, first + ord % count)

/-- The first output tile of a share. -/
def Gemm.origin (g : Gemm) (first : Nat) : Nat × Nat := if g.split then (first, 0) else (0, first)

/-- Geometry of an operand on a share: panel row of its first record, the panel rows needed, and the panel rows it holds (R396). -/
def Gemm.geometry (g : Gemm) (h : Nat) (s : Share) (ofB : Bool) : Nat × Nat × Nat × Nat :=
  let rows := if ofB then g.n else g.m
  let npr := ceilDiv rows 128
  let cut := if ofB then !g.split else g.split
  let u := if ofB then 512 else h
  let lo := if cut then u * s.first / 128 else 0
  let hi := if cut then ceilDiv (min rows (u * (s.first + s.count))) 128 else npr
  let own := cut && (if ofB then g.bLocal else g.aLocal)
  (if own then lo else 0, lo, hi, if own then hi - lo else npr)

/-- Address of an operand on a tile. -/
def Gemm.base (g : Gemm) (l : Nat) (ofB : Bool) : Nat :=
  if ofB then (if g.bLocal then winOf l + g.bAddr else g.bAddr) else if g.aLocal then winOf l + g.aAddr else g.aAddr

/-- The range of an operand for the waits of R391: its records at the largest record size, a local one up to the end of the
partition. -/
def Dev.operandRange (d : Dev) (g : Gemm) (h : Nat) (s : Share) (ofB : Bool) : Nat × Nat :=
  let held := (g.geometry h s ofB).2.2.2 * g.npk * 33856
  let base := g.base s.tile ofB
  (base, if (if ofB then g.bLocal else g.aLocal) then min held (d.partBytes s.tile - base % 0x400000) else held)

/-! ### Operands (R191, R514) -/

/-- The remap entries of the bound tiles, each with the device address of its home range (R190, R191). -/
def Dev.homeRanges (d : Dev) : List (Nat × Remap) :=
  d.tiles.flatMap fun e => match e.2.logical with | some l => e.2.remap.map fun r => (winOf l + r.home, r) | none => []

/-- Record size that a home range was laid out with. -/
def Remap.size0 (r : Remap) : Nat := r.homeLen / max 1 r.recs

/-- The remap entry whose home range holds a device address. -/
def homeOf (homes : List (Nat × Remap)) (a : Nat) : Option (Nat × Remap) :=
  homes.find? fun x => decide (x.1 ≤ a) && decide (a < x.1 + x.2.homeLen)

/-- Where the record at a home address stands: in the widened tensor of its home range, or at home (R191). -/
def placeOfRec (homes : List (Nat × Remap)) (a : Nat) : Nat :=
  match homeOf homes a with | some x => x.2.places.getD ((a - x.1) / max 1 x.2.size0) a | none => a

/-- Places of the `n` records of an operand laid out at `base` with records of `size` bytes, and whether one stands in the fall-back
region; no places where no home range holds a record (R191, R192). -/
def Dev.locate (d : Dev) (base size n : Nat) : List Nat × Bool :=
  let homes := d.homeRanges.filter fun x => overlaps (x.1, x.2.homeLen) (base, n * size)
  if homes.isEmpty then ([], false)
  else
    let as := (List.range (min n ((0xB018000000 - base) / max 1 size + 1))).map fun x => base + x * size
    (as.map (placeOfRec homes), as.any fun a => match homeOf homes a with | some x => x.2.inRegion | none => false)

/-- Reads the first header of an operand and fixes its source (R514); the header comes with it. An operand lies at its home places with the
record size of the home range that holds its first record, or with that of its first header (R191). -/
def Dev.opSrc (d : Dev) (g : Gemm) (h : Nat) (s : Share) (ofB : Bool) : OpSrc × Hdr × Dev :=
  let base := g.base s.tile ofB
  let q := g.geometry h s ofB
  let n := q.2.2.2 * g.npk
  let v := d.read (placeOfRec d.homeRanges base) 64
  let hd := parseHdr (v.1.map (·.1))
  let str := !(if ofB then g.bLocal else g.aLocal)
  let size (s : Nat) : Nat := match homeOf d.homeRanges base with | some x => x.2.size0 | none => s
  match v.1.any (·.2), Target.ofCode hd.fmt with
  | false, some t =>
    let z := recordSize t hd.cap
    let loc := d.locate base (size z) n
    (⟨base, loc.1, loc.2, hd.fmt, hd.cap, z, rotF hd, q.1, str, q.2.1, q.2.2.1⟩, hd, v.2)
  | _, _ =>
    let loc := d.locate base (size 64) 1
    (⟨base, loc.1, loc.2, 0, 0, 64, 0, q.1, str, q.2.1, q.2.2.1⟩, hd, v.2)

/-- Address of the record of an index: the widened tensor's, or its place under R127. -/
def OpSrc.addr (o : OpSrc) (x : Nat) : Nat := o.slots.getD x (o.base + x * o.size)

/-- The address of the record of a panel. -/
def OpSrc.panel (o : OpSrc) (npk pr pk : Nat) : Nat := o.addr ((pr - o.first) * npk + pk)

/-- Reduction positions of a pass (R132, R412): D of the pair; where an operand is poisoned whole, that of the other records, 128. -/
def passWidth (g : Gemm) (a b : OpSrc) : Nat :=
  match Target.ofCode a.fmt, Target.ofCode b.fmt with
  | some x, some y => (passD g.ref x y).getD 128
  | _, _ => if g.ref then 16 else 128

/-- The records of an operand that each pass of one output tile reads, in reading order (R132, R412): panel rows `lo` to `hi − 1`, and the
panel columns that the `w` reduction positions of the pass lie in. A pass of less than a panel column reads its records whole (log entry
154). -/
def passes (k w lo hi : Nat) : List (List (Nat × Nat)) :=
  (List.range (ceilDiv k w)).map fun q =>
    (List.range (hi - lo)).flatMap fun r => ((List.range (ceilDiv (min k (w * (q + 1))) 128)).drop (w * q / 128)).map fun c => (lo + r, c)

/-- The panel rows of an operand that an output tile reads. -/
def tilePanels (g : Gemm) (h i j : Nat) (ofB : Bool) : Nat × Nat :=
  if ofB then (4 * j, ceilDiv (min g.n (512 * (j + 1))) 128) else (h * i / 128, ceilDiv (min g.m (h * (i + 1))) 128)

/-- A record with the panel it stands for. -/
structure PanelRec where
  pr : Nat
  pk : Nat
  raw : RawRec
deriving DecidableEq, Repr

/-- A record from its bytes. -/
def panelRec (o : OpSrc) (npk : Nat) (x : Nat × Nat) (bs : List PB) : PanelRec := ⟨x.1, x.2, ⟨o.panel npk x.1 x.2, bs.map (·.1), bs.map (·.2)⟩⟩

/-- Reads the records of an operand in place; of one that is poisoned whole, no further byte is read. -/
def Dev.readPanels (d : Dev) (o : OpSrc) (npk : Nat) (order : List (Nat × Nat)) : List PanelRec × Dev :=
  if o.fmt = 0 then ([], d)
  else order.foldl (fun (acc : List PanelRec × Dev) x =>
    let v := acc.2.read (o.panel npk x.1 x.2) o.size
    (acc.1 ++ [panelRec o npk x v.1], v.2)) ([], d)

/-- The table of an L4 record (R117). -/
def Dev.l4Of (d : Dev) (h : Hdr) : List Nat :=
  match d.profile h.colony h.profile with
  | some p => p.l4
  | none => Config.absentTable h.colony h.profile

/-- The format of an operand. -/
def OpSrc.target (o : OpSrc) : Target := (Target.ofCode o.fmt).getD .b16

/-- A record whose header does not have the format, the outlier_cap or the place that its operand requires (R514). -/
def PanelRec.wrong (o : OpSrc) (x : PanelRec) : Bool :=
  let h := parseHdr x.raw.bytes
  h.fmt != o.fmt || h.cap != o.cap || h.row != x.pr || h.col != x.pk

/-- The rows of blocks of an operand for an output tile: `n` rows from row `off` of panel row `lo`, each of `kb` blocks (R140). -/
def Dev.opRows (d : Dev) (o : OpSrc) (recs : List PanelRec) (npk kb lo hi off n : Nat) : List (List Blk) :=
  if o.fmt = 0 then List.replicate n (List.replicate kb (poisonBlk (o.addr 0 / 64 * 64)))
  else
    let rows := (List.range (hi - lo)).flatMap fun r =>
      let ps := (List.range npk).map fun k =>
        match recs.find? fun x => x.pr == lo + r && x.pk == k with
        | some x => panelRows o.target (d.l4Of (parseHdr x.raw.bytes)) x.raw (x.wrong o)
        | none => []
      (List.range 128).map fun i => ((ps.map fun p => p.getD i []).flatten).take kb
    (rows.drop off).take n

/-- Sums of column sums at each reduction position over the panels of an output tile (R200). -/
def opSums (o : OpSrc) (recs : List PanelRec) (npk : Nat) : List Num :=
  (List.range npk).flatMap fun k =>
    ((recs.filter fun x => x.pk == k).map fun x => panelSums o.target x.raw 1).foldl (List.zipWith Num.add) (List.replicate 128 (.zero false))

/-- Device addresses of the poisoned sectors that blocks carry (R138). -/
def blockHits (rows : List (List Blk)) : List Nat := rows.flatMap fun r => r.filterMap (·.poison)

/-! ### Accumulation of an output tile (R140 to R155) -/

/-- Code of an integer format. -/
def isIntCode (c : Nat) : Bool := c == 4 || c == 5

/-- The settings of a GEMM's engine. -/
def engSet (g : Gemm) (p : Profile) (a b : OpSrc) : EngSet :=
  ⟨p.compensated && !g.ref, !p.rescale, g.ref, p.runBlocks, if a.rotF = 1 ∧ b.rotF = 1 then 1 else 0, isIntCode a.fmt && isIntCode b.fmt, p.outPair, p.outSR⟩

/-- The draws of output rounding (R179). -/
def roundDraw (seed l iota nj i j p n : Nat) : Nat := tileDraw seed l iota n 0 ((i * nj + j) * 128 + p)

/-- What computes an output tile: settings, seed, and the work it belongs to. -/
structure TileJob where
  g : Gemm
  p : Profile
  l : Nat
  iota : Nat
  step : Nat
  a : OpSrc
  b : OpSrc
deriving DecidableEq, Repr

/-- Rows of output tiles of a job. -/
def TileJob.h (t : TileJob) : Nat := t.g.h t.p

/-- Its engine settings. -/
def TileJob.set (t : TileJob) : EngSet := engSet t.g t.p t.a t.b

/-- The reading order of an operand for output tile (i, j), pass by pass. -/
def TileJob.order (t : TileJob) (i j : Nat) (ofB : Bool) : List (List (Nat × Nat)) :=
  let r := tilePanels t.g t.h i j ofB
  passes t.g.k (passWidth t.g t.a t.b) r.1 r.2

/-- The records of an operand for output tile (i, j), each once. -/
def TileJob.panels (t : TileJob) (i j : Nat) (ofB : Bool) : List (Nat × Nat) :=
  let r := tilePanels t.g t.h i j ofB
  (List.range t.g.npk).flatMap fun c => (List.range (r.2 - r.1)).map fun x => (r.1 + x, c)

/-- Output tile (i, j) from its operands' records: the bank, P and Q for the sum check, and the poison consumed. -/
def Dev.makeTile (d : Dev) (t : TileJob) (i j : Nat) (ra rb : List PanelRec) : (Bank × List (Num × Num) × List (Num × Num)) × List Nat :=
  let g := t.g
  let h := t.h
  let kb := ceilDiv g.k 16
  let pa := tilePanels g h i j false
  let pb := tilePanels g h i j true
  let rows := min h (g.m - h * i)
  let cols := min 512 (g.n - 512 * j)
  let a := d.opRows t.a ra g.npk kb pa.1 pa.2 (h * i % 128) rows
  let b := d.opRows t.b rb g.npk kb pb.1 pb.2 0 cols
  let bk := computeTile t.set t.p.outScaleExp i j h (roundDraw (d.seedOf t.step) t.l t.iota g.nj i j) a b
  let sa := opSums t.a ra g.npk
  let sb := opSums t.b rb g.npk
  let f := t.set.f
  ((bk, a.map (fun r => predict f bk.o (rowVals r) sb), if h = 128 then b.map (fun r => predict f bk.o (rowVals r) sa) else []),
   blockHits a ++ blockHits b)

/-- The finished-tile record of a bank (R150). -/
def Dev.makeRecord (d : Dev) (t : TileJob) (bk : Bank) : FtRec :=
  finishTile t.set t.h t.step t.iota (roundDraw (d.seedOf t.step) t.l t.iota t.g.nj bk.i bk.j) bk

/-! ### Consumption of poison (R233, R518) -/

/-- Row of the table Poison rules for a sector that a descriptor consumes (R518). -/
def Dev.poisonRow (d : Dev) (b : List Byte) (a : Nat) : Nat := if (d.regionOf a).isSome then 8 else if flagWide b then 7 else 6

/-- Adds a consumed sector to a descriptor's list: the lowest address of each class stands. -/
def noteHit (l : List (Nat × Nat)) (row a : Nat) : List (Nat × Nat) :=
  match l.find? fun x => x.1 == row with
  | some x => if a < x.2 then l.map fun y => if y.1 = row then (row, a) else y else l
  | none => l ++ [(row, a)]

/-- Records what a descriptor's work consumed. -/
def Dev.noteHits (d : Dev) (uid : Nat) (hits : List Nat) : Dev :=
  match d.act uid with
  | none => d
  | some a => d.setAct uid fun x => { x with poison := hits.eraseDups.foldl (fun l s => noteHit l (d.poisonRow a.bytes s) s) x.poison }

/-- Colony of a started descriptor. -/
def Active.colony (a : Active) : Nat := a.ring - 1

/-- Changes the part of a started descriptor on a logical tile. -/
def Dev.setPart (d : Dev) (uid l : Nat) (f : Part → Part) : Dev :=
  d.setAct uid fun a => { a with parts := a.parts.map fun q => if q.tile = l then f q else q }

/-! ### The end of a descriptor's work (R195, R199, R206, R233) -/

/-- The consequences of what a descriptor consumed and produced, at its completion: poison by class, then non-finite events; of setup work
both are recorded and nothing more (R199; the event code is free, log entry 155). -/
def Dev.settleFindings (d : Dev) (a : Active) : Dev :=
  let d1 := a.poison.foldl (fun d x =>
    let d := d.consume x.1 0xFFFF x.2
    if flagSetup a.bytes then d else if x.1 = 8 then d.raise 4 else if x.1 = 7 then d.raise 3 else d.withdraw (microOf a.bytes) 4) d
  if a.nonfin = 0 then d1
  else if flagSetup a.bytes then d1.logEv 1 Config.setupNonfinEvent a.ring [] 0
  else d1.workFails a.bytes 2 2

/-- A tile descriptor completes when every part of it has ended. -/
def Dev.tryTileEnd (d : Dev) (uid : Nat) : Dev :=
  match d.act uid with
  | none => d
  | some a => if a.parts.all (·.resolved) then (d.settleFindings a).finish uid 0 else d

end Sys2Proof.Machine
end

