-- ==== Sys2Proof/Machine/Ladder.lean ====
section
/-! DEFINITION. Ladder.lean: casts on a tile (R94 to R127, R399), the fall-back ladder with its widened tensors and reports (R182 to
R198, R212). -/
namespace Sys2Proof.Machine
open Sys2Proof

/-! ### Widened tensors (R189, R190) -/

/-- The first place of `size` bytes between `lo` and `hi` that meets none of the used ranges: at `lo`, or right after one of them. -/
def firstFit (used : List (Nat × Nat)) (lo hi size : Nat) : Option Nat :=
  let ok (c : Nat) : Bool := decide (lo ≤ c) && decide (c + size ≤ hi) && !used.any fun u => overlaps u (c, size)
  ((lo :: used.map fun u => u.1 + u.2).filter ok).foldl (fun m c => some (match m with | none => c | some x => min x c)) none

/-- Finds the place of a widened output of `recs` records of `size` bytes (R190): free headroom beyond the slice buffer, where it fits
whole, else slots of the fall-back region; the flag says which. DESIGN CHOICE (log entry 156): of the places that fit the lowest is taken,
and of the free slots the lowest. -/
def Dev.placeWide (d : Dev) (l : Nat) (remap : List Remap) (recs size : Nat) : List Nat × Bool :=
  let p := d.part l
  let lo := d.operandBytes l + p.ftArea * 65536 + 338560
  let used := (remap.filter fun r => !r.inRegion).map fun r => (r.places.headD 0 - winOf l, r.recs * r.recSize)
  match firstFit used lo (d.partBytes l) (recs * size) with
  | some c => ((List.range recs).map fun x => winOf l + c + x * size, false)
  | none =>
    let taken := (remap.filter (·.inRegion)).flatMap (·.places)
    (((List.range (p.regionLen / 33856)).map fun k => p.regionBase + 33856 * k).filter (fun a => !taken.contains a) |>.take recs, true)

/-- Gives a unit's widened output its place and remap entry; an earlier entry of the home range goes (R190). `home` is an offset in the
partition. -/
def Dev.remapTo (d : Dev) (l uid home homeLen recs size width : Nat) : List Nat × Dev :=
  let kept := (d.logical l).remap.filter fun r => !overlaps (r.home, r.homeLen) (home, homeLen)
  let pl := d.placeWide l kept recs size
  (pl.1, d.setLogical l fun t =>
    { t with remap := kept ++ [⟨uid, home, homeLen, pl.2, pl.1, width, size, recs⟩], ldInRegion := pl.2 })

/-! ### A cast of a share (R94, R127, R179) -/

/-- What a cast on a tile runs with: the panels from panel row `pr0`, `prs` rows of `npk`, whose first record stands at device address
`home` when it has its profile's own target. -/
structure CastRun where
  uid : Nat
  l : Nat
  colony : Nat
  iota : Nat
  step : Nat
  p : Profile
  index : Nat
  rung : Nat
  key : Nat
  sigma : Nat
  home : Nat
  pr0 : Nat
  prs : Nat
  npk : Nat
deriving DecidableEq, Repr

/-- What a cast counted (R118), over all its panels. -/
structure CastSum where
  panels : Nat
  sat : Nat
  crush : Nat
  nonfin : Nat
  poison : Nat
  outliers : Nat
  ovf : Nat
  hits : List Nat
deriving DecidableEq, Repr

/-- One panel of a cast (R95, R101, R125, R179). -/
def Dev.castOne (d : Dev) (c : CastRun) (pr pk : Nat) (rows : List (List Elem)) : PanelOut :=
  let job := match d.ctl.pattern with | some p => p.jobSeed | none => 0
  let seed := stepSeed job c.step
  let nm : PanelName := ⟨pr, pk, c.index, c.colony, c.step, c.key, if c.p.rotJob then job else seed, c.p.rotJob⟩
  let q := pr * c.npk + pk
  castPanel (castSet c.p c.rung) nm (fun row k => tileDraw seed c.l c.iota (128 * (row % 4) + k) c.sigma (32 * q + row / 4)) rows

/-- Record size of a cast at its profile's own target. -/
def CastRun.size0 (c : CastRun) : Nat := recordSize c.p.target c.p.budget

/-- Addresses of a cast's records: at home, or at the place of a widened output with its remap entry. DESIGN CHOICE (log entry 156): a unit
that starts above width 0 under a storm writes no width-0 output, and its home bytes stay as they were. -/
def Dev.castPlaces (d : Dev) (c : CastRun) : List Nat × Dev :=
  let n := c.prs * c.npk
  if c.rung ≤ 1 then ((List.range n).map fun x => c.home + x * c.size0, d)
  else d.remapTo c.l c.uid (c.home % 0x400000) (n * c.size0) n (recordSize (castSet c.p c.rung).target 0) c.rung

/-- The outlier buffer of a tile is written anew, its parity with it (R226). -/
def Dev.freshOutliers (d : Dev) (l : Nat) : Dev :=
  match d.physOf l with
  | some p => { d with tableBad := tdel d.tableBad (tableKey 5 p) }
  | none => d

/-- Casts the panels of a share in ascending order; `src` reads the 128 × 128 elements of a panel. DESIGN CHOICE (log entry 156): each panel
is read after the records before it were written, so a destination that overlaps the source is seen by the later panels. -/
def Dev.castShare (d : Dev) (c : CastRun) (src : Dev → Nat → Nat → (List (List Elem) × List Nat) × Dev) : CastSum × Dev :=
  let pl := (d.freshOutliers c.l).castPlaces c
  (List.range (c.prs * c.npk)).foldl (fun (acc : CastSum × Dev) x =>
    let pr := c.pr0 + x / c.npk
    let pk := x % c.npk
    let v := src acc.2 pr pk
    let o := v.2.castOne c pr pk v.1.1
    let s := acc.1
    (⟨s.panels + 1, s.sat + o.sat, s.crush + o.crush, s.nonfin + o.nonfin, s.poison + o.poison, s.outliers + o.outliers, s.ovf + b2n o.ovf,
      s.hits ++ v.1.2⟩,
     v.2.writeAs (.byStep (0x10 + c.colony)) c.uid (pl.1.getD x 0) (clean o.bytes))) (⟨0, 0, 0, 0, 0, 0, 0, []⟩, pl.2)

/-- The last trigger of a set, as TILE_CAST_STATUS codes it. DESIGN CHOICE (log entry 156): where one cast's end raises several, the one of
the highest code is the last: outlier overflow, then crush, then saturation. -/
def lastTrigger (t old : Nat) : Nat := if bitAt t 2 then 3 else if bitAt t 1 then 2 else if bitAt t 0 then 1 else old

/-- Counts a cast in the tile's registers (R128, R214). -/
def castCounts (c : CastRun) (s : CastSum) (trig : Nat) (t : Tile) : Tile :=
  { t with
    castProfile := c.index, castTrigger := lastTrigger trig t.castTrigger, castPanels := satAdd 32 t.castPanels s.panels,
    castSat := (t.castSat + s.sat) % 2 ^ 64, castCrush := (t.castCrush + s.crush) % 2 ^ 64, castNonfin := (t.castNonfin + s.nonfin) % 2 ^ 64,
    castOutlier := (t.castOutlier + s.outliers) % 2 ^ 64, castOvf := satAdd 32 t.castOvf s.ovf, castPoison := satAdd 32 t.castPoison s.poison,
    seRngOp := c.iota % 2 ^ 32 }

/-- Ends the cast of a part's rung: events, triggers and consumption (R118, R119, R199). -/
def Dev.castEnds (d : Dev) (c : CastRun) (s : CastSum) (unit : Bool) : Dev :=
  let trig := castTriggers c.p s.sat s.crush (decide (0 < s.ovf)) s.panels
  let d1 := d.setLogical c.l (castCounts c s trig)
  let d2 := (d1.noteHits c.uid s.hits).setAct c.uid fun a => { a with nonfin := a.nonfin + s.nonfin }
  let d3 := d2.setPart c.uid c.l fun q =>
    { q with cur := trig, trig := q.trig ||| trig, sat := s.sat, crush := s.crush, panels := s.panels, ovf := decide (0 < s.ovf), castDone := true }
  if unit then
    let q := (d3.act c.uid).bind fun a => a.parts.find? fun q => q.tile == c.l
    let reported := match q with | some q => q.reported | none => false
    let seen := match q with | some q => q.trig | none => trig
    d3.setLogical c.l fun t =>
      { t with ldRung := if reported then 4 else c.rung, ldTriggers := seen, ldInRegion := decide (2 ≤ c.rung) && t.ldInRegion }
  else d3

/-! ### CAST (R399) -/

/-- The fields of a CAST descriptor. -/
structure CastD where
  src : Nat
  dLocal : Bool
  dst : Nat
  rows : Nat
  k : Nat
  stride : Nat
  profile : Nat
  fmt : Nat
  transposed : Bool
  key : Nat
deriving DecidableEq, Repr

/-- Reads the fields. -/
def castOf (b : List Byte) : CastD :=
  let loc := bitAt (byteAt b 31) 7
  ⟨addr40 b 16, loc, if loc then field b 24 3 % 2 ^ 22 else addr40 b 24, field b 32 4, field b 36 4, field b 40 4, byteAt b 44,
    byteAt b 45 % 4, bitAt (byteAt b 45) 2, field b 46 2⟩

/-- The ranges of R399. -/
def CastD.fieldsOk (c : CastD) : Bool := decide (1 ≤ c.rows) && decide (c.rows ≤ 1048576) && decide (1 ≤ c.k) && decide (c.k ≤ 1048576)

/-- Bytes of a source element, and of the source from its first to its last element. -/
def CastD.z (c : CastD) : Nat := if c.fmt = 1 then 4 else 2
def CastD.srcLen (c : CastD) : Nat := if c.transposed then extent c.k c.rows c.stride c.z else extent c.rows c.k c.stride c.z

/-- Panel columns. -/
def CastD.npk (c : CastD) : Nat := ceilDiv c.k 128

/-- Device address of the first record of a share whose records have `size` bytes. -/
def CastD.home (c : CastD) (l first size : Nat) : Nat := if c.dLocal then winOf l + c.dst else c.dst + first * c.npk * size

/-- Elements of a byte string of B16 or B16P values. -/
def elemsOfBytes (z : Nat) (bs : List PB) : List Elem :=
  (List.range (bs.length / z)).map fun i =>
    let x := (bs.drop (z * i)).take z
    let raw := x.map (·.1)
    ⟨if z = 4 then pairVal (pairOf raw 0) else decodeF .b16 (leNat raw), x.any (·.2)⟩

/-- Sectors of a read that are poisoned. -/
def hitsOf (a : Nat) (bs : List PB) : List Nat := ((bs.zipIdx.filter (·.1.2)).map fun x => (a + x.2) / 64 * 64).eraseDups

/-- A list padded or cut to 128 entries. -/
def pad128 {α : Type} (x : α) (l : List α) : List α := (l ++ List.replicate (128 - l.length) x).take 128

/-- The source elements of one panel (R94, R399): row `r` and position `k` at stride and element size, or transposed. -/
def Dev.srcPanel (d : Dev) (c : CastD) (pr pk : Nat) : (List (List Elem) × List Nat) × Dev :=
  let r0 := 128 * pr
  let k0 := 128 * pk
  let nr := min 128 (c.rows - r0)
  let nk := min 128 (c.k - k0)
  let major := if c.transposed then k0 else r0
  let minor := if c.transposed then r0 else k0
  let n := if c.transposed then nk else nr
  let w := if c.transposed then nr else nk
  let v := (List.range n).foldl (fun (acc : (List (List Elem) × List Nat) × Dev) i =>
    let a := c.src + (major + i) * c.stride + minor * c.z
    let x := acc.2.read a (w * c.z)
    ((acc.1.1 ++ [elemsOfBytes c.z x.1], acc.1.2 ++ hitsOf a x.1), x.2)) (([], []), d)
  let rows := if c.transposed then columns zeroElem w v.1.1 else v.1.1
  ((pad128 (List.replicate 128 zeroElem) (rows.map (pad128 zeroElem)), v.1.2), v.2)

/-- The destination of a share lies in the tile's own partition: its cast is a ladder unit (R182). -/
def Dev.ownRange (d : Dev) (l a n : Nat) : Bool := decide (winOf l ≤ a) && decide (a + n ≤ winOf l + d.partBytes l)

/-- The start rung of a ladder unit (R198): the layer's start width, capped at the last width of the target. -/
def Dev.startRung (d : Dev) (b : List Byte) (p : Profile) : Nat :=
  let w := min (tget (0, 0) d.ctl.storm (layerOf b)).1 ((widths p).length - 1)
  if w = 0 then 0 else w + 1

/-- A part before its work begins. -/
def part0 (s : Share) (total : Nat) (unit : Bool) (rung : Nat) : Part :=
  { tile := s.tile, first := s.first, count := s.count, next := 0, total := total, drained := 0, block := [], select := none, opA := opSrc0, opB := opSrc0, segA := 0,
    segB := 0, gotA := [], gotB := [], unit := unit, rung := rung, startRung := rung, cur := 0, trig := 0, castIn := [], sat := 0, crush := 0,
    panels := 0, ovf := false, castDone := false, resolved := false, reported := false, range := false }

/-- The part of a started descriptor on a tile. -/
def Active.part (a : Active) (l : Nat) : Option Part := a.parts.find? fun q => q.tile == l

/-- Casts the share of a CAST on one tile at the part's rung (R187). -/
def Dev.runCast (d : Dev) (uid l : Nat) : Dev :=
  match d.act uid with
  | none => d
  | some a =>
    let c := castOf a.bytes
    match a.part l, d.profile a.colony c.profile with
    | some q, some p =>
      let run : CastRun := ⟨uid, l, a.colony, a.iota, a.step, p, c.profile, q.rung, c.key, 33, c.home l q.first (recordSize p.target p.budget),
        q.first, q.count, c.npk⟩
      let r := d.castShare run fun d pr pk => d.srcPanel c pr pk
      r.2.castEnds run r.1 q.unit
    | _, _ => d

/-! ### Reports and the end of a unit (R183, R195, R197, R212) -/

/-- Records a ladder event of a part (R212): in the event log, and for work of the step among its repeat records. -/
def Dev.ladderRecord (d : Dev) (a : Active) (q : Part) (flags : Nat) : Dev :=
  let rec' := repeatRecord a.step 0x10 a.colony q.tile (microOf a.bytes) a.iota (layerOf a.bytes) q.startRung (if q.reported then 4 else q.rung)
    q.trig (b2n ((d.logical q.tile).remap.any fun r => r.uid == a.uid && r.inRegion) + flags + 16 * b2n (flagWide a.bytes)) q.sat q.crush
  let d1 := d.logEv 1 0x10 ((d.physOf q.tile).getD 0xFFFF) rec' 0
  if flagSetup a.bytes then d1 else d1.setTxn fun t => { t with repeats := t.repeats ++ [(q.tile * 2 ^ 48 + a.iota, rec')] }

/-- Counts a resolved unit in its layer (R197): widened where its final width exceeds its start width. -/
def Dev.countUnit (d : Dev) (a : Active) (q : Part) : Dev :=
  if !q.unit || flagSetup a.bytes then d
  else
    let width (r : Nat) : Nat := r - 1
    d.setTxn fun t => { t with layers := tmod (0, 0) t.layers (layerOf a.bytes) fun c => (c.1 + 1, c.2 + b2n (decide (width q.startRung < width q.rung))) }

/-- A report aborts the step (R195). -/
def Dev.reportAborts (d : Dev) (a : Active) : Bool := !flagSetup a.bytes && (flagWide a.bytes || d.policy.reportAbort)

/-- The record of a reported part (R212), once its last rung's cast has ended, and its count in its layer. -/
def Dev.reportRecord (d : Dev) (a : Active) (q : Part) : Dev :=
  (d.ladderRecord a q (2 + if flagSetup a.bytes then 0 else if d.reportAborts a then 8 else 4)).countUnit a q

/-- A report (R195): counted; it aborts the step or withdraws the micro-batch, and does neither for setup work (R199). It is recorded at once,
but for a range report of a ladder unit whose rung's cast is still to end and whose step goes on: LADDER_MOVE records that one, with the
counts of its rung (R212). -/
def Dev.reportPart (d : Dev) (uid l : Nat) : Dev :=
  let d1 := (d.setPart uid l fun q => { q with reported := true }).setLogical l fun t =>
    { t with ldReports := satAdd 32 t.ldReports 1 }
  match d1.act uid with
  | none => d1
  | some a =>
    match a.part l with
    | none => d1
    | some q =>
      let d2 := d1.setLogical l fun t => if q.unit then { t with ldRung := 4, ldTriggers := q.trig } else t
      let d3 := if q.unit && !q.castDone && !d.reportAborts a then d2 else d2.reportRecord a q
      if flagSetup a.bytes then d3 else if d.reportAborts a then d3.raise 1 else d3.withdraw (microOf a.bytes) 3

/-- A unit's result stands (R186); an event is recorded where triggers were raised on the way or the result stands above width 0. -/
def Dev.unitStands (d : Dev) (a : Active) (q : Part) : Dev :=
  (if q.trig = 0 ∧ q.rung = 0 then d else d.ladderRecord a q 0).countUnit a q

/-- The part on a tile has ended; the descriptor completes with its last part. -/
def Dev.endPart (d : Dev) (uid l : Nat) : Dev := (d.setPart uid l fun q => { q with resolved := true }).tryTileEnd uid

/-- A range trigger reports its GEMM at once, with no repeat (R183, R195). -/
def Dev.rangeReports (d : Dev) (l : Nat) : Dev :=
  ((d.acts.filter fun a => a.parts.any fun q => q.tile == l && q.range && !q.reported).map (·.uid)).foldl
    (fun d u => (d.setPart u l fun q => { q with trig := q.trig ||| 8 }).reportPart u l) d

/-- The next rung of a unit after the triggers `cur` (R184, R186); none is a report. A layer with a start width passes over the retry
rung (R198). -/
def nextRung (p : Profile) (stormy : Bool) (rung cur : Nat) : Option Nat :=
  if rung = 0 ∧ bitAt cur 2 = false ∧ holdsRetrySet p = false ∧ stormy = false then some 1
  else
    let w := (rung - 1) + 1
    if w < (widths p).length then some (w + 1) else none

end Sys2Proof.Machine
end

