-- ==== Sys2Proof/Machine/Gemm.lean ====
section
/-! DEFINITION. Gemm.lean: the GEMM: its start, the accumulation of output tiles, streamed segments, posts and drains (R129 to R177, R192,
R200 to R206, R396, R397, R412). -/
namespace Sys2Proof.Machine
open Sys2Proof

/-! ### Accumulation (R144 to R148, R153) -/

/-- The work of a GEMM on a tile, for the engine. -/
def Dev.tileJob (d : Dev) (bytes : List Byte) (colony iota step l : Nat) (oa ob : OpSrc) : Option TileJob :=
  let g := gemmOf bytes
  (d.profile colony g.profile).map fun p => ⟨g, p, l, iota, step, oa, ob⟩

/-- TILE_ME_CONFIG bits [15:0] of a GEMM: reference mode is never compensated (R130, R156). -/
def meConfigOf (g : Gemm) (p : Profile) : Nat :=
  p.runBlocks + 16 * b2n (p.compensated && !g.ref) + 32 * b2n p.outPair + 64 * b2n p.rescale + 128 * b2n p.outSR + 256 * toCode 8 p.outScaleExp

/-- The fields of the GEMM in the engine (R156). -/
def meShow (t : TileJob) (x : Tile) : Tile := { x with meReference := t.g.ref, meProfile := t.g.profile, meConfig := meConfigOf t.g t.p }

/-- Counts an accumulated output tile, the tile's own or a check's (R156). -/
def meAccumulate (t : TileJob) (bk : Bank) (x : Tile) : Tile :=
  { x with
    meO := toCode 8 bk.o, meRange := satAdd 32 x.meRange (b2n bk.range)
    meEvent := if bk.range then 3 else if bk.rescaled then 2 else x.meEvent
    meMac := (x.meMac + bk.macs) % 2 ^ 64, meSkip := (x.meSkip + bk.skips) % 2 ^ 64,
    meRescale := satAdd 32 x.meRescale (b2n bk.rescaled), seRngOp := t.iota % 2 ^ 32 }

/-- Counts the output events of a finished-tile record, posted or recomputed (R156). -/
def meFinish (r : FtRec) (x : Tile) : Tile :=
  { x with
    meSat := satAdd 32 x.meSat r.sat, meNonfin := satAdd 32 x.meNonfin r.nonfin, mePoison := satAdd 32 x.mePoison (b2n r.poisoned),
    meEvent := if r.poisoned then 5 else if 0 < r.nonfin then 4 else if 0 < r.sat then 1 else x.meEvent }

/-- The number of the bank that a new output tile takes: the banks alternate (R153). -/
def freeBank (t : Tile) : Nat :=
  match t.banks with
  | [] => t.posted % 2
  | e :: _ => 1 - e.1

/-- The order of a new output tile among the banks held. -/
def nextOrd (t : Tile) : Nat := (t.banks.map fun e => e.2.ord + 1).foldl max 0

/-- The bytes of a streamed operand for one output tile: how many segments each pass has, as lengths in reading order (R412). -/
def segLengths (o : OpSrc) (order : List (List (Nat × Nat))) : List Nat :=
  if o.fmt = 0 then []
  else order.flatMap fun p =>
    let n := p.length * o.size
    (List.range (ceilDiv n 65536)).map fun i => min 65536 (n - 65536 * i)

/-- The segments of an operand that an output tile needs are read; an operand in place needs none. -/
def segsDone (o : OpSrc) (order : List (List (Nat × Nat))) (read : Nat) : Bool := !o.streamed || decide ((segLengths o order).length ≤ read)

/-- The records of an operand for an output tile: from the segments read, or in place. -/
def Dev.operandRecs (d : Dev) (o : OpSrc) (npk : Nat) (order : List (List (Nat × Nat))) (once : List (Nat × Nat)) (got : List PB) : List PanelRec × Dev :=
  if o.streamed then
    ((if o.fmt = 0 then [] else (order.flatten.zip (chunksOf o.size order.flatten.length got)).foldl (fun rs x =>
      if rs.any fun r => r.pr == x.1.1 && r.pk == x.1.2 then rs else rs ++ [panelRec o npk x.1 x.2]) []), d)
  else d.readPanels o npk once

/-- The slices of an operand that stands in the fall-back region pass through the slice buffer (R189, R192): panel column k through half
k mod 2, record n of the five at 33,856 × n, that of A first (log entry 154). -/
def Dev.moveSlices (d : Dev) (a : Active) (l lo : Nat) (ofB : Bool) (o : OpSrc) (recs : List PanelRec) : Dev :=
  if !o.inRegion || o.streamed then d
  else recs.foldl (fun d x =>
    let dst := winOf l + d.operandBytes l + (d.part l).ftArea * 65536 + 169280 * (x.pk % 2) + 33856 * (if ofB then 1 + (x.pr - lo) else 0)
    (d.writeAs (.byStep (0x10 + a.colony)) a.uid dst (x.raw.bytes.zip x.raw.poison)).setLogical l fun t =>
      { t with dmaBytes := (t.dmaBytes + x.raw.bytes.length) % 2 ^ 64 }) d

/-- The parameter a of the fraction in effect selects output tile (i, j) (R202, R203). -/
def Dev.selects (d : Dev) (step l iota i j : Nat) : Bool :=
  match checkParam d.ctl.checkFraction with
  | some a => checkSelected (d.seedOf step) l iota i j a
  | none => false

/-- Accumulates the next output tile of a part into bank b. -/
def Dev.accumulateTile (d : Dev) (a : Active) (q : Part) (t : TileJob) (b : Nat) : Dev :=
  let ij := t.g.tileAt q.first q.count q.next
  let i := ij.1
  let j := ij.2
  let ra := d.operandRecs q.opA t.g.npk (t.order i j false) (t.panels i j false) q.gotA
  let rb := ra.2.operandRecs q.opB t.g.npk (t.order i j true) (t.panels i j true) q.gotB
  let dm := (rb.2.moveSlices a q.tile (tilePanels t.g t.h i j false).1 false q.opA ra.1).moveSlices a q.tile (tilePanels t.g t.h i j true).1 true q.opB rb.1
  let m := dm.makeTile t i j ra.1 rb.1
  let bk := m.1.1
  let sel := q.select.getD (d.selects a.step q.tile a.iota i j)
  let split := q.next == 0 && q.trig == 0 && (q.opA.inRegion || q.opB.inRegion)
  let d1 := dm.setLogical q.tile fun x =>
    { meAccumulate t bk (meShow t x) with
      banks := tset x.banks b ⟨a.uid, nextOrd x, sel, bk, m.1.2.1, m.1.2.2⟩
      ldSplits := satAdd 32 x.ldSplits (b2n split) }
  (d1.noteHits a.uid m.2).setPart a.uid q.tile fun q => { q with next := q.next + 1, segA := 0, segB := 0, select := none, gotA := [], gotB := [], range := q.range || bk.range }

/-- The GEMM part that a tile's engine works on: the oldest with an output tile to accumulate. -/
def Dev.enginePart (d : Dev) (l : Nat) : Option (Active × Part) :=
  d.acts.findSome? fun a =>
    if kindOf a.bytes = 0x01 then (match a.part l with | some q => if q.next < q.total then some (a, q) else none | none => none) else none

/-- The engine fills its free banks while the operands of the next output tile are there, and no check request waits on the tile: a check
runs ahead of the tile's next output tile (R153, R205, R412). -/
def Dev.engineFill : Nat → Nat → Dev → Dev
  | 0, _, d => d
  | k + 1, l, d =>
    match d.enginePart l with
    | none => d
    | some (a, q) =>
      let x := d.logical l
      match d.tileJob a.bytes a.colony a.iota a.step l q.opA q.opB with
      | none => d
      | some t =>
        let ij := t.g.tileAt q.first q.count q.next
        if !d.tilesRun || decide (2 ≤ x.banks.length) || !x.checks.isEmpty || !segsDone q.opA (t.order ij.1 ij.2 false) q.segA || !segsDone q.opB (t.order ij.1 ij.2 true) q.segB then d
        else Dev.engineFill k l (d.accumulateTile a q t (freeBank x))

/-- The tile's registers show the GEMM that its engine has in progress (R156). -/
def Dev.engineShow (d : Dev) (l : Nat) : Dev :=
  match d.enginePart l with
  | none => d
  | some (a, q) => match d.tileJob a.bytes a.colony a.iota a.step l q.opA q.opB with | some t => d.setLogical l (meShow t) | none => d

/-- Fills the banks of a tile and acts on a range trigger. -/
def Dev.engineGo (d : Dev) (l : Nat) : Dev := ((Dev.engineFill 2 l d).engineShow l).rangeReports l

/-! ### The start of a GEMM (R131, R395, R396, R514, R517) -/

/-- One tile's share of a GEMM with its operands. -/
structure GemmTile where
  s : Share
  a : OpSrc
  b : OpSrc
  ha : Hdr
  hb : Hdr
deriving DecidableEq, Repr

/-- Reads the first headers of every share. -/
def Dev.gemmTiles (d : Dev) (g : Gemm) (h : Nat) (ss : List Share) : List GemmTile × Dev :=
  ss.foldl (fun (acc : List GemmTile × Dev) s =>
    let a := acc.2.opSrc g h s false
    let b := a.2.2.opSrc g h s true
    (acc.1 ++ [⟨s, a.1, b.1, a.2.1, b.2.1⟩], b.2.2)) ([], d)

/-- Bytes of an operand's panel records on a share. -/
def heldBytes (g : Gemm) (h : Nat) (s : Share) (o : OpSrc) (ofB : Bool) : Nat :=
  if o.fmt = 0 then 64 else (g.geometry h s ofB).2.2.2 * g.npk * o.size

/-- The ranges of an operand that are read: its records at home, or each where it stands; the header alone where the operand is poisoned
whole. -/
def readRanges (g : Gemm) (h : Nat) (s : Share) (o : OpSrc) (ofB : Bool) : List (Nat × Nat) :=
  if o.slots.isEmpty then [(o.base, heldBytes g h s o ofB)] else o.slots.map fun a => (a, o.size)

/-- The places of an operand are mapped, a local one at home inside the partition (R218, R396). -/
def Dev.operandMapped (d : Dev) (g : Gemm) (h : Nat) (s : Share) (o : OpSrc) (ofB : Bool) : Bool :=
  let inside (w : Nat × Nat) : Bool := decide (w.1 % 0x400000 + w.2 ≤ d.partBytes s.tile)
  if o.streamed || !o.slots.isEmpty then d.allMapped (readRanges g h s o ofB) else (readRanges g h s o ofB).all inside

/-- A local operand meets the segment buffers while an operand streams (R412). -/
def Dev.meetsBuffers (d : Dev) (g : Gemm) (h : Nat) (x : GemmTile) : Bool :=
  let top := d.operandBytes x.s.tile
  let hit (o : OpSrc) (ofB : Bool) : Bool := !o.streamed && (readRanges g h x.s o ofB).any (overlaps (winOf x.s.tile + top - 262144, 262144))
  (x.a.streamed || x.b.streamed) && (hit x.a false || hit x.b true)

/-- A first header names another place than its operand's (R131, R514). -/
def badShape (o : OpSrc) (hd : Hdr) : Bool := o.fmt != 0 && (hd.col != 0 || hd.row != o.first)

/-- The rows of the table GEMM operand refusals that follow the addresses, in table order (R131); none where the GEMM may start. -/
def Dev.gemmRefusal (d : Dev) (g : Gemm) (castwOk : Bool) (xs : List GemmTile) : Option Nat :=
  let both (x : GemmTile) : Bool := x.a.fmt != 0 && x.b.fmt != 0
  let pairBad (x : GemmTile) : Bool := both x && (pairD x.a.target x.b.target).isNone
  let refBad (x : GemmTile) : Bool := g.ref && ((x.a.fmt != 0 && x.a.fmt != 7) || (x.b.fmt != 0 && x.b.fmt != 7))
  let rotBad (x : GemmTile) : Bool := both x && rotOf x.ha != rotOf x.hb
  let l4Bad (o : OpSrc) (hd : Hdr) : Bool := o.fmt == 6 && (d.profile hd.colony hd.profile).isNone
  if xs.any fun x => badShape x.a x.ha || badShape x.b x.hb then some 0x04
  else if xs.any pairBad then some 0x05
  else if xs.any refBad then some 0x05
  else if xs.any rotBad then some 0x06
  else if xs.any fun x => l4Bad x.a x.ha || l4Bad x.b x.hb then some 0x07
  else if !castwOk then some 0x07
  else none

/-- The drain graph of a GEMM: a plain copy, or the graph of the colony. -/
def Dev.drainGraph (d : Dev) (colony : Nat) (g : Gemm) (p : Profile) : Option Graph :=
  if g.graph = 0xFF then some (copyGraph p.outPair) else d.graph colony g.graph

/-- The CASTW stage of a graph and its profile. -/
def Dev.castwOf (d : Dev) (colony : Nat) (g : Graph) : Option (Nat × Stage × Profile) :=
  match g.castw with
  | some x => (d.profile colony x.2.profile).map fun p => (x.1, x.2, p)
  | none => none

/-- What the checks of a GEMM, a STREAM or a CAST give: the state after their reads, the parts of its tiles, the bytes that it reads and
writes, and those its drain reads beside the operands. -/
structure TileWork where
  d : Dev
  parts : List Part
  reads : List (Nat × Nat)
  writes : List (Nat × Nat)
  homes : List (Nat × Nat)
deriving DecidableEq, Repr

/-- The checks of a GEMM at the head (R517): fields, profile, graph, addresses, overlaps, the operand refusals. -/
def Dev.gemmPlan (d : Dev) (r : Nat) (x : Desc) : Plan TileWork :=
  let b := x.bytes
  let g := gemmOf b
  let col := r - 1
  match d.shareTiles col b with
  | none => .refuses d 0x02
  | some tiles =>
    if !g.fieldsOk || flagInput b then .refuses d 0x02
    else
      let h := match d.profile col g.profile with | some p => g.h p | none => 128
      let ss := g.shares h tiles
      let ops := ss.flatMap fun s => [d.operandRange g h s false, d.operandRange g h s true]
      let block := (g.ports, 176)
      if d.clash r (block :: ops) [] then .waits
      else
        let xs := d.gemmTiles g h ss
        if xs.1.any fun y => decide (2 ^ 32 < heldBytes g h y.s y.a false) || decide (2 ^ 32 < heldBytes g h y.s y.b true) then .refuses xs.2 0x02
        else
          match d.profile col g.profile with
          | none => .refuses xs.2 0x07
          | some p =>
            match d.drainGraph col g p with
            | none => .refuses xs.2 0x09
            | some gr =>
              if !d.mapped g.ports 176 then .refuses xs.2 0x03
              else
                let pb := xs.2.read g.ports 176
                if pb.1.any (·.2) then .refuses (pb.2.poisonedRead 15 r (poisonSector g.ports pb.1)) 0x13
                else
                  let block' := pb.1.map (·.1)
                  let spans (s : Share) : List Span := runSpans gr block' s.nr s.nc true (d.profile col)
                  let reads := block :: ops ++ ss.flatMap fun s => spanRanges s.tile 1 (spans s)
                  let writes := ss.flatMap fun s => spanRanges s.tile 2 (spans s)
                  let castw := gr.castw.isSome
                  if d.clash r reads writes then .waits
                  else if !(xs.1.all fun y => d.operandMapped g h y.s y.a false && d.operandMapped g h y.s y.b true && d.spansInside y.s.tile (spans y.s)) then
                    .refuses pb.2 0x03
                  else if xs.1.any fun y => badOverlap (d.ftSpan y.s.tile :: spans y.s) castw || d.meetsBuffers g h y then .refuses pb.2 0x0A
                  else
                    match d.gemmRefusal g (!castw || (d.castwOf col gr).isSome) xs.1 with
                    | some code => .refuses pb.2 code
                    | none =>
                      let rung := match d.castwOf col gr with | some c => d.startRung b c.2.2 | none => 0
                      .goes ⟨pb.2, xs.1.map fun y => { part0 y.s (g.total h y.s) castw rung with block := block', opA := y.a, opB := y.b }, reads, writes,
                        ss.flatMap fun s => spanRanges s.tile 1 (spans s)⟩

/-- A GEMM starts: its parts begin, and their engines fill their banks (R129, R396). -/
def Dev.gemmGo (r : Nat) (x : Desc) (w : TileWork) : Dev :=
  let st := (w.d.noteHome r w.homes).start r x w.reads w.writes
  (w.parts.foldl (fun d q => d.engineGo q.tile) (st.2.setAct st.1.uid fun a => { a with parts := w.parts })).tryTileEnd st.1.uid

/-- GEMM at the head; the remap tables of its share are read first (R226). -/
def Dev.gemmHead (d : Dev) (r : Nat) (x : Desc) : Dev :=
  d.withTables (((d.shareTiles (r - 1) x.bytes).getD []).filterMap fun l => (d.physOf l).map (tableKey 4)) fun d =>
    d.follow r (d.gemmPlan r x) (Dev.gemmGo r x)

/-- GEMM (R129, R396). -/
def execGemm (ring : Nat) (s : State) : Host.Outcome State Fault Refusal :=
  nextD s fun d => d.issue ring 0x01 false (d.gemmHead ring)

/-! ### Streamed operands (R412) -/

/-- Reads bytes `off` to `off + n − 1` of the concatenation of an operand's records in reading order. -/
def Dev.readSpan (d : Dev) (o : OpSrc) (npk : Nat) : List (Nat × Nat) → Nat → Nat → List PB × Dev
  | [], _, _ => ([], d)
  | x :: xs, off, n =>
    if n = 0 then ([], d)
    else if o.size ≤ off then d.readSpan o npk xs (off - o.size) n
    else
      let k := min n (o.size - off)
      let v := d.read (o.panel npk x.1 x.2 + off) k
      let w := v.2.readSpan o npk xs 0 (n - k)
      (v.1 ++ w.1, w.2)

/-- The part whose engine waits for a segment of an operand on a logical tile, with its job. -/
def Dev.segmentJob (d : Dev) (tile : Nat) (ofB : Bool) : Option (Active × Part × TileJob) :=
  match d.enginePart tile with
  | none => none
  | some (a, q) =>
    match d.tileJob a.bytes a.colony a.iota a.step tile q.opA q.opB with
    | none => none
    | some t =>
      let ij := t.g.tileAt q.first q.count q.next
      if !d.tilesRun || segsDone (if ofB then q.opB else q.opA) (t.order ij.1 ij.2 ofB) (if ofB then q.segB else q.segA) then none else some (a, q, t)

/-- Moves the next segment of an operand into its segment buffer, and the engine goes on. -/
def Dev.fillSegment (d : Dev) (tile : Nat) (ofB : Bool) (a : Active) (q : Part) (t : TileJob) : Dev :=
  let o := if ofB then q.opB else q.opA
  let k := if ofB then q.segB else q.segA
  let ij := t.g.tileAt q.first q.count q.next
  let order := t.order ij.1 ij.2 ofB
  let lens := segLengths o order
  let v := d.readSpan o t.g.npk order.flatten (lens.take k).sum (lens.getD k 0)
  let buf := winOf tile + d.operandBytes tile - 262144 + (if ofB then 131072 else 0) + 65536 * (k % 2)
  let d1 := (v.2.writeAs (.byStep (0x10 + a.colony)) a.uid buf v.1).setLogical tile fun x => { x with dmaBytes := (x.dmaBytes + v.1.length) % 2 ^ 64 }
  let sel := q.select.getD (d.selects a.step tile a.iota ij.1 ij.2)
  let d2 := d1.setPart a.uid tile fun q =>
    if ofB then { q with select := some sel, segB := q.segB + 1, gotB := q.gotB ++ v.1 }
    else { q with select := some sel, segA := q.segA + 1, gotA := q.gotA ++ v.1 }
  d2.engineGo tile

/-- SEGMENT_FILL (R412): the DMA engine of a logical tile moves the next segment of a streamed operand into its segment buffer, and the
engine takes it. -/
def execSegmentFill (tile : Nat) (ofB : Bool) (s : State) : Host.Outcome State Fault Refusal :=
  nextD s fun d => match d.segmentJob tile ofB with | some j => d.fillSegment tile ofB j.1 j.2.1 j.2.2 | none => d

/-! ### Sum checks and check requests (R200 to R206) -/

/-- The output tile fails its sum check (R200); a tile that holds a poisoned or a non-finite element is not checked. -/
def sumFails (e : Nat) (t : TileJob) (b : BankRec) (r : FtRec) : Bool :=
  let val (x : OutEl) : Num := if t.set.pair then pairVal x.pair else decodeF .b16 x.pair.hi
  let rows := chunksOf 512 t.h (r.els.map val)
  let u (vs : List Num) : Num := w32 ((vs.map Num.abs).foldl Num.add (.zero false))
  let cols := if b.colPQ.isEmpty then [] else columns (.zero false) b.bank.cols (rows.take b.bank.rows)
  let bad (tot : List Pair) (pq : List (Num × Num)) (vs : List (List Num)) : Bool :=
    pq.zipIdx.any fun x => !sumTest e (pairVal (tot.getD x.2 ⟨0, 0⟩)) x.1.1 x.1.2 (u (vs.getD x.2 []))
  !r.poisoned && r.nonfin == 0 && (bad r.rowTot b.rowPQ rows || bad r.colTot b.colPQ cols)

/-- An understudy that serves no logical tile and runs no check. -/
def Dev.idle (d : Dev) (p : Nat) : Bool :=
  let t := d.tile p
  !t.failed && !t.fenced && t.logical.isNone && t.checks.isEmpty && t.overflowChecks.isEmpty

/-- The first-choice understudy of a logical tile (R20). -/
def Dev.firstChoice (d : Dev) (l : Nat) : Nat :=
  match d.ctl.pattern with | some p => ((p.tiles[l]?).map (·.first)).getD 0xFF | none => 0xFF

/-- An idle understudy of a C-die, first choice first. -/
def Dev.idleOn (d : Dev) (die first : Nat) : Option Nat :=
  if first / 26 = die ∧ d.idle first = true then some first
  else ((List.range 26).map fun t => 26 * die + t).find? d.idle

/-- Puts a request on a tile's check queue; one that finds it full waits in the order of posting (R205). -/
def Dev.queueCheck (d : Dev) (p : Nat) (c : Check) : Dev :=
  d.setTile p fun t =>
    if t.checks.length < 8 ∧ t.overflowChecks.isEmpty = true then { t with checks := t.checks ++ [c] } else { t with overflowChecks := t.overflowChecks ++ [c] }

/-- Writes a check record (R212). -/
def Dev.checkRecord (d : Dev) (c : Check) (outcome : Nat) : Dev :=
  d.logEv 1 0x11 c.phys (repeatRecord c.step 0x11 (c.ring - 1) c.tile (microOf c.bytes) c.iota (layerOf c.bytes) outcome 0 0
    (b2n c.sumFail + 16 * b2n (flagWide c.bytes)) (c.i + 65536 * c.j) (c.partner + 256 * c.under)) 0

/-- A selected output tile: its request goes to the partner (R204); in a colony of one tile, to an idle understudy, or it is skipped. -/
def Dev.requestCheck (d : Dev) (c : Check) : Dev :=
  let helper := match d.partnerOf c.tile with | some p => some p | none => d.idleOn (c.phys / 26) (d.firstChoice c.tile)
  match helper with
  | some p => (d.queueCheck p { c with partner := p }).setTile c.phys fun t => { t with partner := p }
  | none => (d.checkRecord { c with partner := 0xFF } 6).setTile c.phys fun t => { t with lastOutcome := 6 }

/-! ### Posts (R150, R153, R174, R206) -/

/-- The largest finished-tile record that the profiles of a tile's colony can produce: the plain one, which reference mode gives even a
compensated profile (R225, R371; log entry 46). -/
def colonyRecord (c : Colony) : Nat := (c.profiles.map fun e => ftSize false e.2.outPair).foldl max 0

/-- The address of a finished-tile slot (R150, R225). -/
def Dev.slotAddr (d : Dev) (l slot : Nat) : Nat :=
  winOf l + d.operandBytes l + slot * (match (d.colonyOf l).bind d.colony with | some c => colonyRecord c | none => 0)

/-- The bank that posts next. -/
def oldestBank (t : Tile) : Option (Nat × BankRec) :=
  match t.banks with
  | [] => none
  | [e] => some e
  | e :: f :: _ => some (if e.2.ord ≤ f.2.ord then e else f)

/-- The record of a bank with its poisoned sectors, as bytes to write. -/
def recordBytes (r : FtRec) : List PB :=
  if r.bad.isEmpty then clean r.bytes else r.bytes.zipIdx.map fun x => (x.1, r.bad.contains (x.2 / 64))

/-- Posts the oldest bank of a tile (table Life of an output tile, orders 5 to 8). -/
def Dev.postTile (d : Dev) (l p : Nat) (b : Nat) (k : BankRec) (a : Active) (q : Part) (t : TileJob) : Dev :=
  let x := d.tile p
  let r := d.makeRecord t k.bank
  let slot := x.qTail
  let d1 := d.writeAs (.byStep (0x10 + a.colony)) a.uid (d.slotAddr l slot) (recordBytes r)
  let bad := d.ctl.sumCheck && sumFails d.policy.sumTol t k r
  let d2 := { d1 with free := d1.free + 1 }.setTile p fun y =>
    { meFinish r y with
      seStall := (y.seStall + Config.timing 0x610 d1.free) % 2 ^ 64
      banks := tdel y.banks b
      queue := y.queue.set slot ⟨2, a.uid, k.bank.i, k.bank.j, slot⟩
      qTail := (slot + 1) % 4
      posted := y.posted + 1
      meOut := satAdd 32 y.meOut 1
      sumFails := satAdd 32 y.sumFails (b2n bad) }
  let d3 := d2.setAct a.uid fun y => { y with nonfin := y.nonfin + r.nonfin }
  let h := t.h
  let c : Check :=
    { stage := 0, uid := a.uid, ring := a.ring, bytes := a.bytes, iota := a.iota, step := a.step, tile := l, phys := p, partner := 0xFF, under := 0xFF,
      i := k.bank.i, j := k.bank.j, opA := q.opA, opB := q.opB,
      ranges := let s : Share := ⟨l, q.first, q.count, 0, 0⟩; [d.operandRange t.g h s false, d.operandRange t.g h s true],
      d1 := r.digest, dp := [], d2 := [], sumFail := bad, ordinal := x.posted }
  (if k.selected || bad then d3.requestCheck c else d3).engineGo l

/-- What a post needs (R153, R206): the bank that posts next, and the part and the job that it belongs to; none while no queue entry is
free or an unresolved check lies 64 output tiles back. -/
def Dev.postJob (d : Dev) (tile p : Nat) : Option ((Nat × BankRec) × Active × Part × TileJob) :=
  let x := d.tile p
  match oldestBank x with
  | none => none
  | some k =>
    if !d.tilesRun || (x.queue.getD x.qTail qentry0).state != 0 || (d.ownChecks tile).any fun c => decide (c.ordinal + 64 ≤ x.posted) then none
    else
      match d.act k.2.uid with
      | none => none
      | some a =>
        match a.part tile with
        | none => none
        | some q => (d.tileJob a.bytes a.colony a.iota a.step tile q.opA q.opB).map fun t => (k, a, q, t)

/-- OUTPUT_TILE_POST (R153): the oldest bank of a logical tile posts. -/
def execOutputTilePost (tile : Nat) (s : State) : Host.Outcome State Fault Refusal :=
  nextD s fun d =>
    match d.physOf tile with
    | none => d
    | some p => match d.postJob tile p with | some j => d.postTile tile p j.1.1 j.1.2 j.2.1 j.2.2.1 j.2.2.2 | none => d

/-! ### Runs of a graph over ports (R157 to R168, R179) -/

/-- A read port's elements over `nr` rows of `nc`, and the poisoned sectors read. -/
def Dev.portRows (d : Dev) (base stride fmt nr nc : Nat) : (List (List LV) × List Nat) × Dev :=
  let z := portBytes fmt
  (List.range nr).foldl (fun (acc : (List (List LV) × List Nat) × Dev) r =>
    let a := base + r * stride
    let v := acc.2.read a (nc * z)
    let row := (chunksOf z nc v.1).map fun e => if e.any (·.2) then lvPoison else portRead fmt (e.map (·.1))
    ((acc.1.1 ++ [row], acc.1.2 ++ hitsOf a v.1), v.2)) (([], []), d)

/-- Writes elements as rows of `nc`, and counts the sectors written poisoned. -/
def Dev.writePort (d : Dev) (src uid base stride z nc : Nat) (els : List (List Byte × Bool)) : List Nat × Dev :=
  let rows := chunksOf nc els.length els
  rows.zipIdx.foldl (fun (acc : List Nat × Dev) r =>
    let a := base + r.2 * stride
    let bs := r.1.flatMap fun e => (sub e.1 0 z).map fun x => (x, e.2)
    (acc.1 ++ hitsOf a bs, acc.2.writeAs (.byStep src) uid a bs)) ([], d)

/-- What a run is part of: where its window, its rows and its columns begin, and its draws. -/
structure RunAt where
  uid : Nat
  colony : Nat
  l : Nat
  dr : Nat                   -- first row and column within the share
  dc : Nat
  nr : Nat
  nc : Nat
deriving DecidableEq, Repr

/-- The read ports, vectors, outputs and counts of one run (R168). `record` is read port 0 of a drain. DESIGN CHOICE (log entry 153): the
record of a drain is fed to read port 0 whatever format the graph gives that port. -/
def Dev.runPorts (d : Dev) (w : RunAt) (g : Graph) (pb : List Byte) (record : Option (List (List LV) × List Nat)) (draw : Nat → Nat → Nat → Nat) :
    (GraphOut × List Nat × List Nat) × Dev :=
  let win := winOf w.l
  let ports := (List.range 5).foldl (fun (acc : (List (List (List LV)) × List Nat) × Dev) q =>
    let k := g.readFmts.getD q 0xFF
    match q, record with
    | 0, some rec' => ((acc.1.1 ++ [rec'.1], acc.1.2 ++ rec'.2), acc.2)
    | _, _ =>
      if !portFmtOk k then ((acc.1.1 ++ [[]], acc.1.2), acc.2)
      else
        let e := portEntry pb q
        let v := acc.2.portRows (win + e.1 + w.dr * e.2 + w.dc * portBytes k) e.2 k w.nr w.nc
        ((acc.1.1 ++ [v.1.1], acc.1.2 ++ v.1.2), v.2)) (([], []), d)
  let vec (d : Dev) (on : Bool) (e k at' n : Nat) : (List LV × List Nat) × Dev :=
    if on then (let v := d.portRows (win + (portEntry pb e).1 + at' * portBytes k) 0 k 1 n; ((v.1.1.headD [], v.1.2), v.2)) else (([], []), d)
  let rv := vec ports.2 g.rowUsed 9 g.rowFmt w.dc w.nc
  let cv := vec rv.2 g.colUsed 10 g.colFmt w.dr w.nr
  let out := runGraph g w.nr w.nc (fun p r c => ((ports.1.1.getD p []).getD r []).getD c lvPoison) (fun c => rv.1.1.getD c lvPoison)
    (fun r => cv.1.1.getD r lvPoison) draw
  let src := 0x10 + w.colony
  let wr := out.outs.foldl (fun (acc : List Nat × Dev) t =>
    let e := portEntry pb (5 + t.2.1)
    match t.2.2 with
    | .write z els =>
      let x := acc.2.writePort src w.uid (win + e.1 + w.dr * e.2 + w.dc * z) e.2 z w.nc els
      (acc.1 ++ x.1, x.2)
    | .vec z els =>
      let csum := match g.stages[t.1]? with | some st => st.op == 0x45 | none => false
      let x := acc.2.writePort src w.uid (win + e.1 + (if csum then w.dc else w.dr) * z) 0 z els.length els
      (acc.1 ++ x.1, x.2)
    | .cast _ _ => acc) ([], cv.2)
  ((out, ports.1.2 ++ rv.1.2 ++ cv.1.2, wr.1.eraseDups), wr.2)

/-- log2 of a rate over 16. -/
def rateCode (r : Nat) : Nat := Nat.log2 (r / 16)

/-- Counts one work item of the stream engine (R181). -/
def seCounts (drain : Bool) (graph : Nat) (g : Graph) (f0 els sat nonfin bad iota : Nat) (t : Tile) : Tile :=
  { t with
    seDrain := drain, seGraph := graph, seStages := g.stages.length - 1, seRate := rateCode (runRate g f0),
    seElems := (t.seElems + els) % 2 ^ 64, seRuns := satAdd 32 t.seRuns 1, seSat := satAdd 32 t.seSat sat, seNonfin := satAdd 32 t.seNonfin nonfin,
    sePoison := satAdd 32 t.sePoison bad, seRngOp := iota % 2 ^ 32 }

/-- The lowest of a list of addresses. -/
def lowest (l : List Nat) : List Nat := match l with | [] => [] | x :: xs => [xs.foldl min x]

/-- The rows that a run sends to its CASTW stage. -/
def GraphOut.castRows (o : GraphOut) : Option (List (List Elem)) :=
  o.outs.findSome? fun t => match t.2.2 with | .cast _ rows => some rows | _ => none

/-- An element that the CASTW stage of a share received. -/
def castElem (l : List (Nat × Nat × List (List Elem))) (r c : Nat) : Elem :=
  match l.find? fun x => decide (x.1 ≤ r) && decide (r < x.1 + x.2.2.length) && decide (x.2.1 ≤ c) && decide (c < x.2.1 + (x.2.2.headD []).length) with
  | some x => ((x.2.2.getD (r - x.1) []).getD (c - x.2.1) zeroElem)
  | none => zeroElem

/-- The cast of a CASTW stage over a share of `nr` rows and `nc` positions, at the end of its last run (R163, R183, R397). -/
def Dev.runCastw (d : Dev) (uid l : Nat) (g : Graph) (pb : List Byte) (key nr nc : Nat) : Dev :=
  match d.act uid with
  | none => d
  | some a =>
    match a.part l, d.castwOf a.colony g with
    | some q, some (s, st, p) =>
      let run : CastRun := ⟨uid, l, a.colony, a.iota, a.step, p, st.profile, q.rung, key, s + 1, winOf l + (portEntry pb (5 + st.port)).1, 0,
        ceilDiv nr 128, ceilDiv nc 128⟩
      let r := d.castShare run fun d pr pk =>
        (((List.range 128).map fun i => (List.range 128).map fun k =>
          if 128 * pr + i < nr ∧ 128 * pk + k < nc then castElem q.castIn (128 * pr + i) (128 * pk + k) else zeroElem, []), d)
      (r.2.setPart uid l fun q => { q with castIn := [] }).castEnds run r.1 q.unit
    | _, _ => d

/-! ### Drains (R168, R171, R174, R177) -/

/-- A record as a drain reads it: its bytes and poison, and its valid rows and columns. -/
structure DrainRec where
  bs : List PB
  rows : Nat
  cols : Nat
deriving DecidableEq, Repr

/-- Element (p, n) of a record of elements of z bytes. -/
def DrainRec.el (r : DrainRec) (z p n : Nat) : List PB := (r.bs.drop (64 + (512 * p + n) * z)).take z

/-- Drains a record: the graph, or the plain copy of its elements, writes the ports (R168). -/
def Dev.drainRun (d : Dev) (a : Active) (q : Part) (t : TileJob) (g : Graph) (pb : List Byte) (e : QEntry) (rec' : DrainRec) (addr : Nat) : Dev :=
  let l := q.tile
  let o := t.g.origin q.first
  let z := if t.p.outPair then 4 else 2
  let w : RunAt := ⟨a.uid, a.colony, l, t.h * (e.i - o.1), 512 * (e.j - o.2), rec'.rows, rec'.cols⟩
  let els := rec'.rows * rec'.cols
  let f0 := b2n t.p.outPair
  if t.g.graph = 0xFF then
    let en := portEntry pb 5
    let raw := (List.range rec'.rows).flatMap fun p => (List.range rec'.cols).map fun n =>
      let x := rec'.el z p n
      (x.map (·.1), x.any (·.2))
    let wr := d.writePort (0x10 + a.colony) a.uid (winOf l + en.1 + w.dr * en.2 + w.dc * z) en.2 z w.nc raw
    wr.2.setLogical l (seCounts true 0xFF g f0 els 0 0 wr.1.eraseDups.length a.iota)
  else
    let record := (List.range rec'.rows).map fun p => (List.range rec'.cols).map fun n =>
      let x := rec'.el z p n
      if x.any (·.2) then lvPoison else portRead f0 (x.map (·.1))
    let seed := d.seedOf a.step
    let draw (s r c : Nat) : Nat := tileDraw seed l a.iota c (s + 1) ((e.i * t.g.nj + e.j) * 128 + r)
    let v := d.runPorts w g pb (some (record, hitsOf addr rec'.bs)) draw
    let out := v.1.1
    let d1 := (v.2.setLogical l (seCounts true t.g.graph g f0 els out.sat out.nonfin v.1.2.2.length a.iota)).setAct a.uid fun y => { y with nonfin := y.nonfin + out.nonfin }
    let d2 := if out.poisonUse then d1.noteHits a.uid (lowest v.1.2.1) else d1
    match out.castRows with
    | some rows => d2.setPart a.uid l fun q => { q with castIn := q.castIn ++ [(w.dr, w.dc, rows)] }
    | none => d2

/-- The last drain of a part has ended: a unit's cast runs and LADDER_MOVE decides; otherwise the part ends. -/
def Dev.drainEnd (d : Dev) (uid l : Nat) (g : Graph) (pb : List Byte) (t : TileJob) : Dev :=
  match d.act uid with
  | none => d
  | some a =>
    match a.part l with
    | none => d
    | some q =>
      if q.drained < q.total then d
      else if q.unit then
        let nr := if t.g.split then min t.g.m (t.h * (q.first + q.count)) - t.h * q.first else t.g.m
        let nc := if t.g.split then t.g.n else min t.g.n (512 * (q.first + q.count)) - 512 * q.first
        d.runCastw uid l g pb t.g.key nr nc
      else d.endPart uid l

end Sys2Proof.Machine
end

