-- ==== Sys2Proof/Machine/StreamCast.lean ====
section
/-! DEFINITION. StreamCast.lean: STREAM and CAST descriptors, and the moves of the fall-back ladder (R168, R169, R182 to R187, R398,
R399). -/
namespace Sys2Proof.Machine
open Sys2Proof

/-! ### STREAM (R168, R169, R398) -/

/-- The fields of a STREAM descriptor. -/
structure StreamD where
  rows : Nat
  len : Nat
  graph : Nat
  key : Nat
  ports : Nat
deriving DecidableEq, Repr

/-- Reads the fields. -/
def streamOf (b : List Byte) : StreamD := ⟨field b 16 4, field b 20 4, byteAt b 24, field b 26 2, addr40 b 32⟩

/-- The ranges of R398. -/
def StreamD.fieldsOk (s : StreamD) : Bool := decide (1 ≤ s.rows) && decide (s.rows ≤ 2 ^ 24) && decide (1 ≤ s.len) && decide (s.len ≤ 65536)

/-- Runs a STREAM on one tile of its share at the part's rung (R168, R179, R187). -/
def Dev.runStream (d : Dev) (uid l : Nat) : Dev :=
  match d.act uid with
  | none => d
  | some a =>
    let f := streamOf a.bytes
    match a.part l, d.graph a.colony f.graph with
    | some q, some g =>
      let seed := d.seedOf a.step
      let draw (s r c : Nat) : Nat := (fun e => tileDraw seed l a.iota (e % 512) (s + 1) (e / 512)) ((q.first + r) * f.len + c)
      let v := d.runPorts ⟨uid, a.colony, l, 0, 0, q.count, f.len⟩ g q.block none draw
      let out := v.1.1
      let els := if portFmtOk (g.readFmts.headD 0xFF) then q.count * f.len else 0
      let d1 := v.2.setLogical l (seCounts false f.graph g (g.readFmts.headD 0xFF) els out.sat out.nonfin v.1.2.2.length a.iota)
      let d2 := d1.setAct uid fun y => { y with nonfin := y.nonfin + out.nonfin }
      let d3 := (if out.poisonUse then d2.noteHits uid (lowest v.1.2.1) else d2).setPart uid l fun q =>
        { q with next := 1, castIn := match out.castRows with | some rows => [(0, 0, rows)] | none => [] }
      if q.unit then d3.runCastw uid l g q.block f.key q.count f.len else d3.endPart uid l
    | _, _ => d

/-- The first STREAM on a tile that has not run and waits for no drain of an earlier GEMM there (R169). -/
def streamReady (l : Nat) : List Active → Option Nat
  | [] => none
  | a :: as =>
    match a.part l with
    | none => streamReady l as
    | some q =>
      if kindOf a.bytes = 0x01 ∧ q.drained < q.total then none
      else if kindOf a.bytes = 0x02 ∧ q.next = 0 then some a.uid
      else streamReady l as

/-- Runs the STREAMs of a tile that can run. -/
def Dev.streamsGo : Nat → Nat → Dev → Dev
  | 0, _, d => d
  | k + 1, l, d =>
    if !d.tilesRun then d
    else match streamReady l d.acts with
    | some u => Dev.streamsGo k l (d.runStream u l)
    | none => d

/-- Runs what can run on a tile. -/
def Dev.streams (d : Dev) (l : Nat) : Dev := Dev.streamsGo d.acts.length l d

/-- A STREAM issued before a GEMM has not run on a tile: the GEMM's drains wait for it (R169). -/
def streamBefore (l uid : Nat) : List Active → Bool
  | [] => false
  | a :: as =>
    if a.uid = uid then false
    else (kindOf a.bytes == 0x02 && (match a.part l with | some q => q.next == 0 | none => false)) || streamBefore l uid as

/-- What the drain of the head of a tile's queue needs (R169, R174): its entry, the part and the job it belongs to, and the drain graph. -/
def Dev.drainJob (d : Dev) (tile p : Nat) : Option (QEntry × Active × Part × TileJob × Graph) :=
  let e := (d.tile p).queue.getD (d.tile p).qHead qentry0
  if !d.tilesRun || e.state != 2 || streamBefore tile e.uid d.acts then none
  else
    match d.act e.uid with
    | none => none
    | some a =>
      match a.part tile with
      | none => none
      | some q =>
        match d.tileJob a.bytes a.colony a.iota a.step tile q.opA q.opB with
        | none => none
        | some t => (d.drainGraph a.colony t.g t.p).map fun g => (e, a, q, t, g)

/-- Drains an entry of the queue of tile p through the drain graph, and frees it (R168, R174). -/
def Dev.drainEntry (d : Dev) (tile p : Nat) (e : QEntry) (a : Active) (q : Part) (t : TileJob) (g : Graph) : Dev :=
  let addr := d.slotAddr tile e.slot
  let v := d.read addr (ftSize (t.h == 64) t.p.outPair)
  let raw := v.1.map (·.1)
  let rec' : DrainRec := ⟨v.1, min t.h (field raw 10 2), min 512 (field raw 12 2)⟩
  let d1 := v.2.drainRun a q t g q.block e rec' addr
  let d2 := (d1.setTile p fun y => normQueue { y with queue := y.queue.set e.slot qentry0, qHead := (e.slot + 1) % 4 }).setPart a.uid tile fun q =>
    { q with drained := q.drained + 1 }
  (d2.drainEnd a.uid tile g q.block t).streams tile

/-- QUEUE_ENTRY_DRAIN (R168, R174): the stream engine of a logical tile drains the entry at the head of its queue and frees it. -/
def execQueueEntryDrain (tile : Nat) (s : State) : Host.Outcome State Fault Refusal :=
  nextD s fun d =>
    match d.physOf tile with
    | none => d
    | some p => match d.drainJob tile p with | some j => d.drainEntry tile p j.1 j.2.1 j.2.2.1 j.2.2.2.1 j.2.2.2.2 | none => d

/-- The checks of a STREAM at the head (R517). -/
def Dev.streamPlan (d : Dev) (r : Nat) (x : Desc) : Plan TileWork :=
  let b := x.bytes
  let f := streamOf b
  let col := r - 1
  match d.shareTiles col b with
  | none => .refuses d 0x02
  | some tiles =>
    if !f.fieldsOk || flagInput b then .refuses d 0x02
    else
      match d.graph col f.graph with
      | none => .refuses d 0x09
      | some g =>
        let block := (f.ports, 176)
        if g.readFmts.any (· == 0xFE) then .refuses d 0x08
        else if d.clash r [block] [] then .waits
        else if !d.mapped f.ports 176 then .refuses d 0x03
        else
          let pb := d.read f.ports 176
          if pb.1.any (·.2) then .refuses (pb.2.poisonedRead 15 r (poisonSector f.ports pb.1)) 0x13
          else
            let block' := pb.1.map (·.1)
            let ss := sharesOf tiles f.rows (fun _ n => n) (fun _ _ => f.len)
            let spans (s : Share) : List Span := runSpans g block' s.nr s.nc false (d.profile col)
            let reads := block :: ss.flatMap fun s => spanRanges s.tile 1 (spans s)
            let writes := ss.flatMap fun s => spanRanges s.tile 2 (spans s)
            let castw := g.castw.isSome
            if d.clash r reads writes then .waits
            else if !(ss.all fun s => d.spansInside s.tile (spans s)) then .refuses pb.2 0x03
            else if ss.any fun s => badOverlap (d.ftSpan s.tile :: spans s) castw then .refuses pb.2 0x0A
            else if castw && (d.castwOf col g).isNone then .refuses pb.2 0x07
            else
              let rung := match d.castwOf col g with | some c => d.startRung b c.2.2 | none => 0
              .goes ⟨pb.2, ss.map fun s => { part0 s 1 castw rung with block := block' }, reads, writes, []⟩

/-- A STREAM starts: the stream engines of its tiles run its graph (R168, R398). -/
def Dev.streamGo (r : Nat) (x : Desc) (w : TileWork) : Dev :=
  let st := w.d.start r x w.reads w.writes
  (w.parts.foldl (fun d q => d.streams q.tile) (st.2.setAct st.1.uid fun a => { a with parts := w.parts })).tryTileEnd st.1.uid

/-- STREAM at the head. -/
def Dev.streamHead (d : Dev) (r : Nat) (x : Desc) : Dev := d.follow r (d.streamPlan r x) (Dev.streamGo r x)

/-- STREAM (R168, R398). -/
def execStream (ring : Nat) (s : State) : Host.Outcome State Fault Refusal :=
  nextD s fun d => d.issue ring 0x02 false (d.streamHead ring)

/-! ### CAST (R94, R399) -/

/-- A part of a CAST that is no ladder unit ends with its cast; its triggers go straight to report (R182). -/
def Dev.castPartEnd (d : Dev) (uid l : Nat) : Dev :=
  match (d.act uid).bind fun a => a.part l with
  | some q => if q.unit then d else (if q.cur = 0 then d else d.reportPart uid l).endPart uid l
  | none => d

/-- The checks of a CAST at the head (R517). -/
def Dev.castPlan (d : Dev) (r : Nat) (x : Desc) : Plan TileWork :=
  let b := x.bytes
  let c := castOf b
  let col := r - 1
  match d.shareTiles col b with
  | none => .refuses d 0x02
  | some tiles =>
    if !c.fieldsOk then .refuses d 0x02
    else if 2 ≤ c.fmt then .refuses d 0x08
    else
      match d.profile col c.profile with
      | none => .refuses d 0x07
      | some p =>
        let size := recordSize p.target p.budget
        let ss := sharesOf tiles (ceilDiv c.rows 128) (fun _ n => n) (fun _ _ => c.npk)
        let dst (s : Share) : Nat × Nat := (c.home s.tile s.first size, s.count * c.npk * size)
        let src := (c.src, c.srcLen)
        if d.clash r [src] (ss.map dst) then .waits
        else if !d.mapped src.1 src.2 || !(ss.all fun s => if c.dLocal then d.ownRange s.tile (dst s).1 (dst s).2 else d.mapped (dst s).1 (dst s).2) then
          .refuses d 0x03
        else
          .goes ⟨d, ss.map fun s =>
            let unit := d.ownRange s.tile (dst s).1 (dst s).2
            part0 s 1 unit (if unit then d.startRung b p else 0), [src], ss.map dst, []⟩

/-- A CAST starts: every tile of the share casts its panel rows (R94, R399). -/
def Dev.castGo (r : Nat) (x : Desc) (w : TileWork) : Dev :=
  let c := castOf x.bytes
  let st := w.d.start r x w.reads w.writes
  let inp := if flagInput x.bytes then (let v := st.2.read c.src (c.rows * c.stride); v.2.recordInput st.1 c.src (c.rows * c.stride) v.1) else st.2
  (w.parts.foldl (fun d q => (d.runCast st.1.uid q.tile).castPartEnd st.1.uid q.tile)
    (inp.setAct st.1.uid fun a => { a with parts := w.parts })).tryTileEnd st.1.uid

/-- CAST at the head. -/
def Dev.castHead (d : Dev) (r : Nat) (x : Desc) : Dev := d.follow r (d.castPlan r x) (Dev.castGo r x)

/-- CAST (R94, R399). -/
def execCast (ring : Nat) (s : State) : Host.Outcome State Fault Refusal :=
  nextD s fun d => d.issue ring 0x03 false (d.castHead ring)

/-! ### LADDER_MOVE (R186, R187) -/

/-- The profile of a unit's cast: the CAST's own, or that of the CASTW stage. -/
def Dev.unitProfile (d : Dev) (a : Active) : Option Profile :=
  match kindOf a.bytes with
  | 0x03 => d.profile a.colony (castOf a.bytes).profile
  | 0x02 => ((d.graph a.colony (streamOf a.bytes).graph).bind (d.castwOf a.colony)).map (·.2.2)
  | _ => ((d.graph a.colony (gemmOf a.bytes).graph).bind (d.castwOf a.colony)).map (·.2.2)

/-- Runs a unit again on its tile (R187). -/
def Dev.repeatUnit (d : Dev) (a : Active) (l rung : Nat) : Dev :=
  let d1 := (d.setLogical l fun t => { t with ldRepeats := satAdd 32 t.ldRepeats 1, ldRung := rung }).setPart a.uid l fun q =>
    { q with rung := rung, cur := 0, castDone := false }
  match kindOf a.bytes with
  | 0x03 => d1.runCast a.uid l
  | 0x02 => d1.runStream a.uid l
  | _ =>
    (d1.setPart a.uid l fun q =>
      { q with next := 0, drained := 0, castIn := [], segA := 0, segB := 0, select := none, gotA := [], gotB := [] }).engineGo l

/-- The unit of a tile whose cast at its rung has ended. -/
def Dev.unitEnded (d : Dev) (l : Nat) : Option (Active × Part) :=
  d.acts.findSome? fun a =>
    match a.part l with
    | some q => if q.unit && q.castDone && !q.resolved then some (a, q) else none
    | none => none

/-- LADDER_MOVE (R186): at the end of a rung's cast the unit of a logical tile stands, repeats at its next rung, or reports. -/
def execLadderMove (tile : Nat) (s : State) : Host.Outcome State Fault Refusal :=
  nextD s fun d =>
    match d.unitEnded tile with
    | none => d
    | some (a, q) =>
      if !d.tilesRun then d
      else if q.reported then ((d.reportRecord a q).endPart a.uid tile).streams tile
      else if q.cur = 0 then ((d.unitStands a q).endPart a.uid tile).streams tile
      else
        match (d.unitProfile a).bind fun p => nextRung p (decide (1 ≤ (tget (0, 0) d.ctl.storm (layerOf a.bytes)).1)) q.rung q.cur with
        | some r => d.repeatUnit a tile r
        | none => ((d.reportPart a.uid tile).endPart a.uid tile).streams tile

end Sys2Proof.Machine
end

