-- ==== Sys2Proof/Machine/Checks.lean ====
section
/-! DEFINITION. Checks.lean: duplicate checks, their vote, and the fence of a tile with its hand-over (R21 to R23, R154, R177, R202 to
R212, R519). -/
namespace Sys2Proof.Machine
open Sys2Proof

/-! ### A check computation (R204, R180) -/

/-- A digest as a tile with a fault forms it: the fault's bits inverted. -/
def faulty (fault : Nat) (digest : List Byte) : List Byte := List.zipWith (fun x y => x ^^^ y) digest (natLE 16 fault)

/-- Computes the output tile of a check on physical tile p and forms its digest; nothing is written to memory. -/
def Dev.recompute (d : Dev) (p fault : Nat) (c : Check) : List Byte × Dev :=
  match d.tileJob c.bytes (c.ring - 1) c.iota c.step c.tile c.opA c.opB with
  | none => ([], d)
  | some t =>
    let ra := d.readPanels c.opA t.g.npk (t.panels c.i c.j false)
    let rb := ra.2.readPanels c.opB t.g.npk (t.panels c.i c.j true)
    let bk := (rb.2.makeTile t c.i c.j ra.1 rb.1).1.1
    let r := rb.2.makeRecord t bk
    (faulty fault r.digest, rb.2.setTile p fun x => { meFinish r (meAccumulate t bk x) with partnerCnt := satAdd 32 x.partnerCnt 1 })

/-- Takes the request at the head of a tile's check queue off it; the first waiting request joins the queue (R205). -/
def popCheck (t : Tile) : Tile := { t with checks := t.checks.drop 1 ++ t.overflowChecks.take 1, overflowChecks := t.overflowChecks.drop 1 }

/-! ### The fence of a tile (R21, R23, R154, R177, R519) -/

/-- An idle understudy for a third computation: on the checked tile's die, else on the lowest other C-die that has one (R207). -/
def Dev.thirdTile (d : Dev) (c : Check) : Option Nat :=
  let home := c.phys / 26
  match d.idleOn home (d.firstChoice c.tile) with
  | some u => some u
  | none => ((List.range 4).filter (· != home)).findSome? fun die => d.idleOn die 0xFF

/-- The understudy that takes a fenced tile's logical tile: its first choice, or the other one of the die (R21). -/
def Dev.heir (d : Dev) (die l : Nat) : Option Nat :=
  let free (p : Nat) : Bool := let t := d.tile p; !t.failed && !t.fenced && t.logical.isNone
  let first := d.firstChoice l
  if first / 26 = die ∧ free first = true then some first else ((List.range 26).map fun t => 26 * die + t).find? free

/-- Carries the partition of logical tile l from the scratchpad of tile p to that of tile u; a sector that fails parity arrives poisoned
(R519). -/
def Dev.carry (d : Dev) (l p u : Nat) : Dev :=
  let n := d.partBytes l
  let inSrc (k : Nat) : Bool := decide (scratchKey p 0 ≤ k) && decide (k < scratchKey p n)
  let inDst (k : Nat) : Bool := decide (scratchKey u 0 ≤ k) && decide (k < scratchKey u n)
  let secs := ((d.mem.cells.map (·.1) ++ d.mem.bad.map (·.1)).filter inSrc).map (· / 64 * 64)
  let m := d.mem
  let d1 : Dev := { d with mem := { m with cells := m.cells.filter fun c => !inDst c.1, bad := m.bad.filter fun c => !inDst c.1 } }
  secs.eraseDups.foldl (fun d b =>
    let off := b - scratchKey p 0
    let v := d.readKey (winOf l + off) b
    v.2.writeFull (scratchKey u off) v.1.1 v.1.2) d1

/-- The work of a fenced tile is taken up where its last posts and drains left it (R154). -/
def Dev.rewind (d : Dev) (l : Nat) (lost : Tab BankRec) : Dev :=
  { d with acts := d.acts.map fun a => { a with parts := a.parts.map fun q =>
      if q.tile = l then
        { q with next := q.next - (lost.filter fun b => b.2.uid == a.uid).length, segA := 0, segB := 0, select := none, gotA := [], gotB := [] }
      else q } }

/-- Understudy u takes over logical tile l from the fenced tile p, whose record was t (R21, R206). -/
def Dev.handOver (d : Dev) (l p u : Nat) (t : Tile) : Dev :=
  let d1 := (d.setTile u fun x =>
    { x with
      logical := some l, service := true, remap := t.remap, queue := t.queue, qHead := t.qHead, qTail := t.qTail, posted := t.posted,
      ldRung := t.ldRung, ldTriggers := t.ldTriggers, ldInRegion := t.ldInRegion }).carry l p u
  let d2 := (t.checks ++ t.overflowChecks).foldl (fun d c => d.queueCheck u (if c.stage = 0 then { c with partner := u } else c)) d1
  (d2.rewind l t.banks).engineGo l

/-! ### The vote (R206 to R208) -/

/-- Resolves a duplicate check with an outcome of the table TILE_CHECK_STATUS: recorded and counted, and the finding's action taken but
for the fences. -/
def Dev.resolveCheck (d : Dev) (c : Check) (outcome : Nat) : Dev :=
  let d1 := (d.setLogical c.tile fun t => { t with dupCnt := satAdd 32 t.dupCnt 1, lastOutcome := outcome }).checkRecord c outcome
  if flagSetup c.bytes then d1
  else if outcome = 2 ∨ outcome = 4 then d1.workFails c.bytes 1 7
  else if outcome = 5 then d1.raise 7
  else d1

/-- Asks an idle understudy for the third computation; with none the vote has no majority (R207). -/
def Dev.askThird (d : Dev) (c : Check) : Dev :=
  match d.thirdTile c with
  | some u => d.queueCheck u { c with stage := 2, under := u }
  | none => d.resolveCheck { c with under := 0xFF } 5

/-- Fences a physical tile: its understudy takes over, or none is left and the module enters FAULT. Requests of a fenced understudy go
to another tile. -/
def Dev.fenceTile (d : Dev) (p : Nat) : Dev :=
  let t := d.tile p
  if t.failed || t.fenced then d
  else
    let d1 := (d.setTile p fun x =>
      { x with
        fenced := true, logical := none, service := false, banks := [], checks := [], overflowChecks := [],
        queue := List.replicate 4 qentry0, qHead := 0, qTail := 0, remap := [] }).health 64
    match t.logical with
    | none => (t.checks ++ t.overflowChecks).foldl (fun d c => if c.stage = 2 then d.askThird c else d.requestCheck c) d1
    | some l =>
      match d1.heir (p / 26) l with
      | some u => d1.handOver l p u t
      | none => d1.enterFault

/-- The actions of an outcome with its fences, the fence first recorded. -/
def Dev.settleCheck (d : Dev) (c : Check) (outcome : Nat) : Dev :=
  let d1 := d.resolveCheck c outcome
  if outcome = 3 then d1.fenceTile c.partner else if outcome = 4 then d1.fenceTile c.phys else d1

/-- The finding of the table Voting once D3 is at hand. -/
def voteOutcome (d1 dp d2 d3 : List Byte) : Nat :=
  if d2 = d1 then (if d3 = d1 then 3 else if d3 = dp then 4 else 5) else if d3 = dp then 4 else 5

/-! ### The commands -/

/-- The matrix engine of physical tile p goes on with its own output tiles. -/
def Dev.goOn (d : Dev) (p : Nat) : Dev := match (d.tile p).logical with | some l => d.engineGo l | none => d

/-- Runs the check at the head of tile p's queue, if it is at a stage, and goes on with its digest; it takes a bank while it runs, and the
tile's own output tiles go on after it (R205). -/
def Dev.runCheck (d : Dev) (p fault stage : Nat) (k : Dev → Check → List Byte → Dev) : Dev :=
  match (d.tile p).checks with
  | [] => d
  | c :: _ =>
    if !d.tilesRun || c.stage != stage || decide (2 ≤ (d.tile p).banks.length) then d
    else
      let v := d.recompute p fault c
      (k (v.2.setTile p popCheck) c v.1).goOn p

/-- CHECK_COMPUTATION (R204, R207): the partner forms Dp; equal digests pass the check, different ones ask the checked tile to repeat. -/
def execCheckComputation (phys fault : Nat) (s : State) : Host.Outcome State Fault Refusal :=
  nextD s fun d => d.runCheck phys fault 0 fun d c g =>
    let c1 := { c with dp := g }
    if g = c.d1 then d.settleCheck c1 1
    else
      let d1 := (d.setLogical c.tile fun t => { t with dupMismatch := satAdd 32 t.dupMismatch 1 }).health 32
      match d1.physOf c.tile with
      | some p => d1.queueCheck p { c1 with stage := 1 }
      | none => d1

/-- CHECK_REPEAT (R207): the checked tile forms D2; where it equals Dp the fault was transient, otherwise a third computation decides. -/
def execCheckRepeat (phys fault : Nat) (s : State) : Host.Outcome State Fault Refusal :=
  nextD s fun d => d.runCheck phys fault 1 fun d c g =>
    let c1 := { c with d2 := g }
    if g = c.dp then d.settleCheck c1 2 else d.askThird c1

/-- THIRD_COMPUTATION (R207): an idle understudy forms D3, and the vote reaches its outcome. -/
def execThirdComputation (phys fault : Nat) (s : State) : Host.Outcome State Fault Refusal :=
  nextD s fun d => d.runCheck phys fault 2 fun d c g => d.settleCheck c (voteOutcome c.d1 c.dp c.d2 g)

end Sys2Proof.Machine
end

