-- ==== Sys2Proof/Machine/Peers.lean ====
section
/-! DEFINITION. Peers.lean: the acceptance of messages, acknowledgements and missed ones, departures, the scout, and probes (R284 to
R292, R331, R343, R346). -/
namespace Sys2Proof
open Sys2Proof.Machine

/-- The fields of params: byte `i` of the header, 24 to 55. -/
def Rx.par (m : Rx) (i k : Nat) : Nat := field m.params (i - 24) k

/-- The bytes of a message body. -/
def Rx.bytes (m : Rx) : List Byte := m.body.map (·.1)

/-- Whether any body byte is poisoned. -/
def Rx.poisoned (m : Rx) : Bool := m.body.any (·.2)

end Sys2Proof

namespace Sys2Proof.Machine
open Sys2Proof

/-- Sets a flag of PORT_ERR (R294). -/
def Dev.portErr (d : Dev) (p bit : Nat) : Dev := d.setPort p fun x => { x with err := x.err ||| 2 ^ bit }

/-- Takes a message out of the inbox. -/
def Dev.takeMessage (d : Dev) (typ : Nat) (m : Rx) : Dev := { d with inbox := d.inbox.erase (typ, m) }

/-- A message that R285 discards: not for this module, poisoned where that discards it, or out of form. Without a pattern the module
has no address of its own, and any destination is its own (log entry 34). -/
def Dev.malformed (d : Dev) (typ : Nat) (m : Rx) : Bool :=
  (m.dst != d.ctl.address && d.ctl.pattern.isSome) || m.hdrPoison || !m.framed || ((m.cls == 0 || typ == 0xA0) && m.poisoned)

/-- The members of the loaded pattern's member list, by address. -/
def Dev.members' (d : Dev) : List Nat := match d.ctl.pattern with | some p => List.range p.members.length | none => []

/-- A module that is behind, or on the minority side, enters STRANDED and says so (R328, R343, R292). -/
def Dev.strand (d : Dev) : Dev := (d.setState 8).sendState

/-- Whether a message of `step` from a fence peer shows that the module is behind (R343). -/
def Dev.showsBehind (d : Dev) (m : Rx) : Bool :=
  match d.ctl.txn with
  | some t => t.aborted && t.fence.contains m.src && decide (t.step < m.step)
  | none => false

/-- A module that learns from peer `a` that it is behind notes the committed step that the message shows, and enters STRANDED: at once
in RUNNING, from HOLD when it returns to RUNNING (R343, R329; log entry 59). -/
def Dev.fallBehind (d : Dev) (a step : Nat) : Dev :=
  let d1 := (d.setPeer a fun x => { x with committed := max x.committed step }).setTxn fun t => { t with behind := true }
  if d1.ctl.state = 5 then d1.strand else d1

/-- An unsequenced message taken from the inbox, and whether it is well formed. -/
def Dev.received (d : Dev) (typ : Nat) (m : Rx) : Dev × Bool :=
  if !d.inbox.contains (typ, m) then (d, false)
  else
    let d1 := d.takeMessage typ m
    if d1.malformed typ m then (d1.portErr m.port 5, false) else (d1, true)

/-- Accepts an unsequenced message: a well-formed one has its effect. -/
def Dev.receive (d : Dev) (typ : Nat) (m : Rx) (f : Dev → Dev) : Dev :=
  let r := d.received typ m
  if r.2 then f r.1 else r.1

/-- A sequenced message (R284, R285, R346): in sequence, from a JOINED peer; a message of an aborted attempt is acknowledged
and discarded, one of the retry is left for the sender's resend, as is one that `ready` does not admit (R331). With it, whether the
message has its effect. -/
def Dev.accepted (d : Dev) (typ : Nat) (m : Rx) (ready : Bool) : Dev × Bool :=
  let r := d.received typ m
  let d1 := r.1
  if !r.2 then r
  else
    let p := d1.peer m.src
    let want := p.rx.getD m.cls 0
    if p.state ≠ 3 ∨ m.sequenced = false then (d1.portErr m.port 5, false)
    else if m.seq ≠ want then
      (if (want + 2 ^ 32 - m.seq) % 2 ^ 32 < 2 ^ 31 then d1.setPeer m.src fun x => { x with ackDue := true } else d1, false)
    else
      let t := d1.ctl.txn
      let old := match t with | some t => t.aborted && m.step == t.step && m.cls != 5 && m.step != 0 | none => false
      let held := match t with | some t => p.abortStep == t.step | none => false
      if !ready || (old && held) then (d1, false)
      else
        let d2 := d1.setPeer m.src fun x => { x with rx := x.rx.set m.cls ((want + 1) % 2 ^ 32), missed := 0, ackDue := true }
        if d1.showsBehind m then (d2.fallBehind m.src (m.step - 1), false) else (d2, !old)

/-- Accepts a sequenced message, whose sender's route and context are read first (R226): its effect follows where it has one. -/
def Dev.accept (d : Dev) (typ : Nat) (m : Rx) (ready : Bool) (f : Dev → Dev) : Dev :=
  d.withTables (peerSectors m.src) fun d =>
    let r := d.accepted typ m ready
    if r.2 then f r.1 else r.1

/-! ### Departure (R291, R305, R319, R322, R326, R337, R341, R342, R354) -/

/-- A descriptor that waited for a departed peer (R291, R305, R322). -/
def Dev.departedAct (d : Dev) (uid : Nat) : Dev :=
  match d.act uid with
  | none => d
  | some a =>
    match kindOf a.bytes with
    | 0x07 => d.tryFinish uid
    | 0x04 | 0x05 =>
      ((d.finish uid 0x0E).setCtl fun c => { c with routes := c.routes.filter fun r => r.uid != uid }).workFails a.bytes Config.retractCause 13
    | _ => d.finish uid 0x0E

/-- A PERMUTE ends with PEER_DEPARTED: the old bank stays active (R326). -/
def Dev.permuteLost (d : Dev) (a : Nat) : Dev :=
  match d.ctl.permute with
  | some p =>
    if (d.members'.filter fun x => !d.ctl.mapped.testBit x).contains a then
      (d.setCtl fun c => { c with permute := none, adopt := false }).finish p.uid 0x0E
    else d
  | none => d

/-- The buddy of this module, from its member record (R352, R375). -/
def Dev.buddy (d : Dev) : Option Nat :=
  match d.ctl.pattern with
  | some p => (p.members[d.ctl.address]?).map (·.buddy)
  | none => none

/-- A departure's effect on the open step (R337, R341, R360). -/
def Dev.fenceLost (d : Dev) (a : Nat) : Dev :=
  match d.ctl.txn with
  | none => d
  | some t =>
    let fenced := t.fence.contains a
    let d1 := if fenced && !t.gone.contains a then d.setTxn fun t => { t with gone := t.gone ++ [a] } else d
    let d2 := if d1.inFrog && fenced then d1.raise 16 else d1
    let d3 := if t.rsent.any fun r => r.peers.contains a then d2.raise 9 else d2
    d3.setTxn fun t =>
      if t.aborted then t
      else { t with rrecv := t.rrecv.filter (fun r => !r.peers.contains a)
                    lostWait := t.lostWait || (fenced && (d.peer a).cleanStep != t.step) }

/-- A departure's effect on the buckets of the member's chains: the leader, unless pledged, runs them again (R319, R342). -/
def Dev.bucketsLose (d : Dev) (a : Nat) : Dev :=
  let pledged := match d.ctl.txn with | some t => t.pledged | none => false
  (d.ctl.buckets.filter fun b => (d.chainMembers b.chain).contains a).foldl (fun d b =>
    let d1 := d.setBucket b.chain b.bucket fun x => { x with asked := x.asked ||| 2 ^ a }
    if d1.leader b.chain = some d1.ctl.address ∧ !pledged then d1.issueRun b.chain b.bucket else d1) d

/-- RESULTs that the departed member did not acknowledge go to the member after it (R342). -/
def Dev.resendResults (d : Dev) (a : Nat) (before : Dev) (lost : List Sent) : Dev :=
  (lost.filter fun m => m.cls == 1 && m.typ == 0x41).foldl (fun d m =>
    let rail := field m.params 8 1
    let order := before.pieceOrder (field m.params 0 2) rail (field m.params 10 2)
    match nextForResult order a with
    | some b => d.send b 1 0x41 m.step m.params m.body m.uid
    | none => d) d

/-- The descriptors that wait for an owner's answer: outstanding requests to it, or its slots in a routed SCATTER. -/
def Dev.waitsFor (d : Dev) (a : Nat) : List Nat :=
  ((d.acts.filter fun x => x.wait.any fun w => w.headD 4096 == a).map (·.uid)) ++
    ((d.ctl.routes.filter fun r => r.owners.contains a).map (·.uid))

/-- The restore under way reads a host slot. -/
def Dev.restoreHost (d : Dev) : Bool :=
  match d.ctl.restore with
  | some r => (match d.act r.1 with | some a => byteAt a.bytes 17 == 1 | none => false)
  | none => false

/-- A transmit queue without the sequenced messages to address `a` that have not begun to leave: a departed peer's messages are dropped
(R291). The flag says whether the message that the first chunk belongs to is dropped. -/
def dropMessages (a : Nat) : Bool → List Chunk → List Chunk
  | _, [] => []
  | drop, c :: cs =>
    let out := if c.first then field c.bytes 0 2 == a && bitAt (byteAt c.bytes 6) 0 else drop
    if out then dropMessages a out cs else c :: dropMessages a out cs

/-- A JOINED peer departs with a cause: 1 route empty, 2 missed acknowledgements, 3 LEAVE (R291). -/
def Dev.depart (d : Dev) (a cause : Nat) : Dev :=
  let p := d.peer a
  if p.state ≠ 3 then d
  else
    let d0 := (d.route a).foldl (fun d p => d.setPort p fun x => { x with queues := x.queues.map (dropMessages a false) }) d
    let d1 := d0.setPeer a fun x => { x with state := 5, cause := cause, departures := satAdd 16 x.departures 1, unacked := [], probing := false, ackDue := false }
    let d2 := d1.logEv 0 0x0031 a (natLE 8 p.moduleId ++ natLE 1 cause) 0
    let d3 := ((p.unacked.filterMap (·.uid)) ++ d.waitsFor a).eraseDups.foldl Dev.departedAct d2
    let d4 := (d3.resendResults a d p.unacked).permuteLost a
    let d5 := (d4.setCtl fun c => { c with held := c.held.filter fun h => h.src != a }).fenceLost a
    let d6 := d5.bucketsLose a
    let d7 := if d6.buddy = some a then (d6.ctl.drains.filter fun x => !x.host).foldl (fun d x => d.endDrain x false) d6 else d6
    match d7.ctl.restore with
    | some r => if d7.buddy = some a ∧ d7.restoreHost = false then (d7.setCtl fun c => { c with restore := none }).finish r.1 0x12 else d7
    | none => d7
/-! ### Acknowledgements (R284, R288, R291, R326) -/


/-- Writes bytes of a new shard: into the visible copy, in adopt mode into the working copy. -/
def Dev.writeShard (d : Dev) (bank : Nat) (adopt : Bool) (e off : Nat) (bs : List PB) : Dev :=
  d.writeAs (if adopt then .working else .visible) 0 ((d.shardAt bank e).addr + off) bs

/-- The ranges of outgoing reads of a PERMUTE that are not acknowledged. -/
def Dev.permuteReads (d : Dev) (p : Permute) : List (Nat × Nat) :=
  (p.reads.filter fun r => (d.peer r.1).unacked.any fun m =>
    m.uid == some p.uid && m.typ == 0x60 && field m.params 0 2 == r.2.1 && decide (r.2.2.1 ≤ field m.params 8 8) &&
      decide (field m.params 8 8 < r.2.2.1 + r.2.2.2.1)).map fun r => (r.2.2.2.2, r.2.2.2.1)

/-- Makes the writes of a PERMUTE that overlap no outgoing read still to be acknowledged (R325). -/
def Dev.permuteWrites (d : Dev) : Dev :=
  match d.ctl.permute with
  | none => d
  | some p =>
    let other := 1 - d.ctl.bank
    let waits (w : Nat × Nat × List PB) : Bool := (d.permuteReads p).any (overlaps ((d.shardAt other w.1).addr + w.2.1, w.2.2.length))
    let d1 := (p.writes.filter fun w => !waits w).foldl (fun d w => d.writeShard other p.adopt w.1 w.2.1 w.2.2) d
    d1.setCtl fun c => { c with permute := some { p with writes := p.writes.filter waits } }

/-- A PERMUTE whose outgoing bytes are all acknowledged tells every expected member; in adopt mode it sends nothing (R326, R327). -/
def Dev.permuteAcked (d : Dev) : Dev :=
  match d.ctl.permute with
  | some p =>
    if p.adopt || p.sentDone || d.outstanding p.uid then d
    else
      let rcv := d.members'.filter fun a => !d.ctl.mapped.testBit a && a != d.ctl.address
      let d1 := d.setCtl fun c => { c with permute := some { p with sentDone := true } }
      rcv.foldl (fun d a => d.send a 3 0x61 0 (zeros 2 ++ natLE 2 p.gen ++ zeros 4 ++ natLE 8 p.bytesOut) []) d1
  | none => d

/-- What follows once messages have been acknowledged: descriptors complete, a PERMUTE goes on. -/
def Dev.ackEffects (d : Dev) : Dev := d.tryFinishAll.permuteWrites.permuteAcked

/-- ACK (R284, R286): the next expected sequences of the sender's view. -/
def execAck (m : Rx) (s : State) : Host.Outcome State Fault Refusal :=
  nextD s fun d => d.receive 0x01 m fun d =>
    if (d.peer m.src).state ≠ 3 then d
    else
      (d.setPeer m.src fun p =>
        { p with missed := 0, probing := false, resends := 0, unacked := p.unacked.filter fun x => !seqBefore x.seq (m.par (24 + 4 * x.cls) 4) }).ackEffects

/-- The params of an ACK to a peer. -/
def ackParams (p : Peer) : List Byte := ((List.range 8).map fun c => natLE 4 (p.rx.getD c 0)).flatten

/-- ACK_SEND (R284). -/
def execAckSend (peer : Nat) (s : State) : Host.Outcome State Fault Refusal :=
  nextD s fun d =>
    if (d.peer peer).ackDue then
      (d.setPeer peer fun p => { p with ackDue := false }).sendRoute peer 0x01 (ackParams (d.peer peer)) []
    else d

/-- A missed acknowledgement is counted; four in a row make the peer depart (R291). -/
def Dev.missed (d : Dev) (a : Nat) : Dev :=
  let d1 := d.setPeer a fun p => { p with missed := p.missed + 1, missedTotal := satAdd 16 p.missedTotal 1 }
  if 4 ≤ (d1.peer a).missed then d1.depart a 2 else d1

/-- The usable port after `last` in a route's list order, cyclically (R284, R288). -/
def nextUsable (route usable : List Nat) (last : Nat) : Option Nat :=
  let i := route.findIdx (· == last) + 1
  ((route.drop i ++ route.take i).filter fun p => usable.contains p).head?

/-- ACK_TIMEOUT (R284, R291): every unacknowledged message of the class is resent, from the oldest, on the next usable port. -/
def execAckTimeout (peer cls : Nat) (s : State) : Host.Outcome State Fault Refusal :=
  nextD s fun d =>
    let p := d.peer peer
    let mine := p.unacked.filter fun m => m.cls == cls
    if p.state ≠ 3 ∨ mine.isEmpty then d
    else
      let d1 := d.missed peer
      if (d1.peer peer).state ≠ 3 then d1
      else
        match nextUsable (d1.route peer) (d1.usable peer) (p.lastPort.getD cls 0 - 1) with
        | none => d1
        | some port =>
          let d2 := d1.setPeer peer fun x => { x with lastPort := x.lastPort.set cls (port + 1), resends := x.resends + 1 }
          mine.foldl (fun d m => d.queueOn port peer m) d2

/-- PEER_SILENCE_TIMEOUT (R291): a PROBE goes to a JOINED peer that has been silent. -/
def execPeerSilenceTimeout (peer : Nat) (s : State) : Host.Outcome State Fault Refusal :=
  nextD s fun d =>
    if (d.peer peer).state = 3 then (d.setPeer peer fun p => { p with probing := true }).sendRoute peer 0x02 [] [] else d

/-- PROBE_TIMEOUT (R291): an unanswered PROBE counts as one missed acknowledgement, and a new one goes out. -/
def execProbeTimeout (peer : Nat) (s : State) : Host.Outcome State Fault Refusal :=
  nextD s fun d =>
    if (d.peer peer).state = 3 ∧ (d.peer peer).probing = true then
      (let d1 := d.missed peer
       if (d1.peer peer).state = 3 then d1.sendRoute peer 0x02 [] [] else d1)
    else d

/-- PROBE (R286): answered by an ACK. -/
def execProbe (m : Rx) (s : State) : Host.Outcome State Fault Refusal :=
  nextD s fun d => d.receive 0x02 m fun d =>
    if (d.peer m.src).state = 3 then
      ((d.setPeer m.src fun p => { p with missed := 0, ackDue := false }).sendRoute m.src 0x01 (ackParams (d.peer m.src)) [])
    else d

/-! ### The scout (R286, R290, R292) -/

/-- Records a peer's scout body. -/
def recordScout (b : List Byte) (p : Peer) : Peer :=
  { p with moduleId := field b 0 8, jobId := field b 8 8, digest := (b.drop 16).take 32, committed := field b 48 8, mstate := byteAt b 56,
           onAux := bitAt (byteAt b 57) 0, stranded := bitAt (byteAt b 57) 1 }

/-- A context becomes JOINED: its sequences restart at 0; messages kept from before are numbered anew (R290, log entry 35). -/
def joinedPeer (keep : Bool) (b : List Byte) (p : Peer) : Peer :=
  let renum := p.unacked.zipIdx.map fun m => ({ m.1 with seq := ((p.unacked.take m.2).filter fun x => x.cls == m.1.cls).length } : Sent)
  { (recordScout b p) with
    state := 3, cause := 0, missed := 0, probing := false, ackDue := false, joins := if p.state = 3 then p.joins else satAdd 16 p.joins 1
    rx := List.replicate 8 0, tx := (List.range 8).map fun c => (renum.filter fun x => x.cls == c).length, unacked := renum
    cleanStep := if keep then p.cleanStep else 0, abortStep := 0, refused := 0 }

/-- Peer `a` is a fence peer of the open step that departed after its CLEAN arrived: the commit still counts that CLEAN (R340). -/
def Dev.cleanStands (d : Dev) (a : Nat) : Bool :=
  match d.ctl.txn with
  | some t => !t.aborted && t.gone.contains a && (d.peer a).cleanStep == t.step
  | none => false

/-- Joins a peer, with its event (R290). -/
def Dev.joinPeer (d : Dev) (a : Nat) (b : List Byte) : Dev :=
  let was := (d.peer a).state
  let d1 := d.setPeer a (joinedPeer (d.cleanStands a) b)
  if was = 3 then d1 else d1.logEv 0 0x0031 a (natLE 8 (field b 0 8) ++ natLE 1 0) 0

/-- A JOINED peer whose route has no usable port departs (R288, R291). -/
def Dev.departUnreachable (d : Dev) (a : Nat) : Dev := if (d.usable a).isEmpty then d.depart a 1 else d

/-- Module states that send hellos (R290). -/
def sendsHello (st : Nat) : Bool := st == 4 || st == 5 || st == 6 || st == 7 || st == 8

/-- HELLO_TIMER (R290): a HELLO to every member that is not joined and whose route has a usable port. -/
def execHelloTimer (s : State) : Host.Outcome State Fault Refusal :=
  nextD s fun d =>
    if !sendsHello d.ctl.state then d
    else
      (d.members'.filter fun a => a != d.ctl.address && [0, 2, 4, 5].contains (d.peer a).state && !(d.usable a).isEmpty).foldl (fun d a =>
        (d.setPeer a fun p => { p with state := 2 }).sendRoute a 0x10 [] (d.scout 0)) d

/-- The cause that a HELLO is refused with, in the order of the table Scout causes; none where it is welcome (R290). -/
def Dev.helloCause (d : Dev) (src : Nat) (b : List Byte) : Option Nat :=
  match d.ctl.pattern with
  | none => some (if d.ctl.state = 9 then 6 else 5)
  | some p =>
    if d.ctl.state = 3 then some 5
    else if d.ctl.state = 9 then some 6
    else if (b.drop 16).take 32 ≠ sub d.ctl.digest 0 32 then some 1
    else if field b 8 8 ≠ p.jobId then some 2
    else if p.members.length ≤ src ∨ src = d.ctl.address then some 3
    else if (d.peer src).state = 3 ∧ (d.peer src).moduleId ≠ field b 0 8 then some 4
    else none

/-- Sends an unsequenced control message back on the port on which one arrived. -/
def Dev.replyOn (d : Dev) (m : Rx) (typ : Nat) (params body : List Byte) : Dev :=
  d.queueFrom m.port m.src m.dst ⟨0, typ, false, 0, 0, params, clean body, none⟩

/-- HELLO (R290): answered by REFUSE on the port on which it arrived, or by WELCOME on the peer's route. -/
def execHello (m : Rx) (s : State) : Host.Outcome State Fault Refusal :=
  nextD s fun d => d.receive 0x10 m fun d =>
    match d.helloCause m.src m.bytes with
    | some c => d.replyOn m 0x12 [] (d.scout c)
    | none => ((d.joinPeer m.src m.bytes).sendRoute m.src 0x11 [] (d.scout 0)).departUnreachable m.src

/-- WELCOME (R290): the context becomes JOINED. -/
def execWelcome (m : Rx) (s : State) : Host.Outcome State Fault Refusal :=
  nextD s fun d => d.receive 0x11 m fun d =>
    if sendsHello d.ctl.state && d.members'.contains m.src && m.src != d.ctl.address && (d.peer m.src).state != 3 then d.joinPeer m.src m.bytes else d

/-- REFUSE (R290): the context records the cause; an event for each change of it. -/
def execRefuse (m : Rx) (s : State) : Host.Outcome State Fault Refusal :=
  nextD s fun d => d.receive 0x12 m fun d =>
    let c := byteAt m.bytes 58
    let p := d.peer m.src
    if !(d.members'.contains m.src) || m.src == d.ctl.address || p.state == 3 then d
    else
      let d1 := d.setPeer m.src fun p => { p with state := 4, cause := c % 8, refused := c }
      if p.refused = c then d1 else d1.logEv 0 0x0031 m.src (natLE 8 (field m.bytes 0 8) ++ natLE 1 c) 0

/-- LEAVE (R291). -/
def execLeave (m : Rx) (s : State) : Host.Outcome State Fault Refusal :=
  nextD s fun d => d.receive 0x13 m fun d => d.depart m.src 3

/-- STATE (R292, R384): the receiver records the flags, the digest and the committed step. -/
def execState (m : Rx) (s : State) : Host.Outcome State Fault Refusal :=
  nextD s fun d => d.accept 0x14 m true fun d => d.setPeer m.src (recordScout m.bytes)

end Sys2Proof.Machine
end

