-- ==== Sys2Proof/Machine/Collect.lean ====
section
/-! DEFINITION. Collect.lean: REDUCE, its messages, retractions and the near-memory engines' updates (R253 to R271, R310 to R322, R337,
R338, R400). -/
namespace Sys2Proof.Machine
open Sys2Proof

/-! ### The checks of a REDUCE (R259, R400, R517) -/

/-- A range that an update entry's region may occupy: in stack memory, below the retirement pool, not in a copy 1 (R259). -/
def Dev.regionPlaceOk (d : Dev) (base len : Nat) : Bool :=
  decide (base + len ≤ 0x8FE0000000) && !(d.regions.any fun r => overlaps (base, len) (r.copy1, r.len))

/-- A weight or moment region: inside one epoch-buffered region whose writer is the NMEs acting for the colony (R257, R259). -/
def Dev.nmeRegionOk (d : Dev) (colony base len : Nat) : Bool :=
  match d.regionOf base with
  | some (_, r) => decide (base + len ≤ r.copy0 + r.len) && r.writer == ⟨true, colony⟩
  | none => false

/-- One entry of an update table (R259). -/
def Dev.entryOk (d : Dev) (colony : Nat) (e : UEntry) : Bool :=
  entryFieldsOk e && d.regionPlaceOk e.weight (regionEnd 0 1 e.groups) && d.regionPlaceOk e.moment (regionEnd 0 e.hMoment e.groups) &&
    d.regionPlaceOk e.result (regionEnd 0 e.hResult e.groups) && d.nmeRegionOk colony e.weight (regionEnd 0 1 e.groups) &&
    d.nmeRegionOk colony e.moment (regionEnd 0 e.hMoment e.groups)

/-- The weight and moment ranges of an entry. -/
def stateRanges (e : UEntry) : List (Nat × Nat) := [(e.weight, regionEnd 0 1 e.groups), (e.moment, regionEnd 0 e.hMoment e.groups)]

/-- No entry's state overlaps another's (R259). -/
def entriesApart : List UEntry → Bool
  | [] => true
  | e :: es => (es.all fun f => !((stateRanges e).any fun a => (stateRanges f).any (overlaps a))) && entriesApart es

/-- Length of a contribution or gradient region set (R312). -/
def contribLen (entries : List UEntry) (groups : Nat) : Nat :=
  match entries with
  | [] => 256 * groups
  | _ => (contribRegion entries (entries.length - 1) 0).1 + (match entries.getLast? with | some e => regionEnd 0 e.hContrib e.groups | none => 0)

/-- The bucket of a REDUCE descriptor, before its local phase. -/
def bucketOf (colony uid step : Nat) (b : List Byte) (entries : List UEntry) : Bucket :=
  { chain := field b 16 2, bucket := field b 18 2, uid := uid, colony := colony, step := step, entries := entries, rne := bitAt (byteAt b 21) 0,
    resPair := bitAt (byteAt b 21) 1, contrib := addr40 b 40, result := addr40 b 48, groups := field b 56 4, mbs := [], p := 0,
    present := false, runId := 0, runs := 1, leads := 0, excluded := 0, asked := 0, pieces := [], arrived := [], updated := [],
    stale := [], took := 0, everUpdated := [], nonfin := false, resDigest := 0, updDigest := 0, bite := 0, complete := false }

/-! ### Messages of the collective class (R317, R321) -/

/-- Keeps an accepted message for later. -/
def Dev.keepEarly (d : Dev) (typ : Nat) (m : Rx) : Dev := d.setCtl fun c => { c with early := c.early ++ [(typ, m)] }

/-- Where a message of step `s` finds this module: in that step, before it, or past it. -/
inductive InStep where
  | now | later | past
deriving DecidableEq, Repr

/-- The step of a message against the module's own. -/
def Dev.inStep (d : Dev) (step : Nat) : InStep :=
  if step < d.stepNo then .past else if step = d.stepNo ∧ d.stepOpen = true then .now else .later

/-- A bucket message: kept while its bucket has not begun here or its run is newer than the one held, dropped where it is older. -/
def Dev.bucketMessage (d : Dev) (typ : Nat) (m : Rx) (newer : Bool) (f : Bucket → Dev) : Dev :=
  match d.inStep m.step with
  | .past => d
  | .later => d.keepEarly typ m
  | .now =>
    match d.bucket (m.par 24 2) (m.par 26 2) with
    | none => d.keepEarly typ m
    | some b =>
      if newer then f b
      else if m.par 28 4 < b.runId then d
      else if b.runId < m.par 28 4 then d.keepEarly typ m
      else f b

/-- An RSUM (R314, R233). -/
def Dev.sumIn (d : Dev) (m : Rx) : Dev :=
  d.bucketMessage 0x40 m false fun b =>
    if m.poisoned then (d.consume 10 m.src 0).raise 3
    else
      d.visitSum b (m.par 32 1) (m.par 34 2) (m.par 36 4) (leNat (m.bytes.take 512)) (m.par 40 4) (pairsOf (m.body.drop 512))

/-- A RESULT (R315, R318). -/
def Dev.resultIn (d : Dev) (m : Rx) : Dev :=
  d.bucketMessage 0x41 m false fun b =>
    if (m.body.take 512).any (·.2) then (d.consume 10 m.src 0).raise 3
    else
      d.takeResult b (m.par 32 1) (m.par 34 2) (m.par 36 4) (leNat (m.bytes.take 512)) (m.par 40 4) (m.body.drop 512) ((m.body.drop 512).any (·.2))

/-- A RERUN_REQ reaches the leader (R319, R342). -/
def Dev.rerunAsked (d : Dev) (m : Rx) : Dev :=
  d.bucketMessage 0x42 m true fun b =>
    let d1 := d.setBucket b.chain b.bucket fun x => { x with asked := x.asked ||| 2 ^ m.src }
    if d1.leader b.chain = some d1.ctl.address then d1.issueRun b.chain b.bucket else d1

/-- A RERUN (R321). -/
def Dev.rerunIn (d : Dev) (m : Rx) : Dev :=
  d.bucketMessage 0x43 m true fun b =>
    if m.poisoned then (d.consume 10 m.src 0).raise 3 else d.acceptRun b.chain b.bucket (m.par 28 4) (leNat (m.bytes.take 512))

/-- Takes up one kept message. -/
def Dev.takeEarly (d : Dev) (e : Nat × Rx) : Dev :=
  match e.1 with
  | 0x40 => d.sumIn e.2
  | 0x41 => d.resultIn e.2
  | 0x42 => d.rerunAsked e.2
  | 0x43 => d.rerunIn e.2
  | _ => d.keepEarly e.1 e.2

/-- Takes up the messages kept, until no more of them can be. -/
def Dev.replayEarly : Nat → Dev → Dev
  | 0, d => d
  | k + 1, d =>
    let l := d.ctl.early
    let d1 := l.foldl Dev.takeEarly (d.setCtl fun c => { c with early := [] })
    if d1.ctl.early.length < l.length then Dev.replayEarly k d1 else d1

/-- Takes up every message that can be. -/
def Dev.settleEarly (d : Dev) : Dev := Dev.replayEarly (d.ctl.early.length + 1) d

/-- RSUM (R314, R317). -/
def execRsum (m : Rx) (s : State) : Host.Outcome State Fault Refusal :=
  nextD s fun d => d.accept 0x40 m true fun d => (d.sumIn m).settleEarly

/-- RESULT (R315, R318). -/
def execResult (m : Rx) (s : State) : Host.Outcome State Fault Refusal :=
  nextD s fun d => d.accept 0x41 m true fun d => (d.resultIn m).settleEarly

/-- RERUN_REQ (R319). -/
def execRerunReq (m : Rx) (s : State) : Host.Outcome State Fault Refusal :=
  nextD s fun d => d.accept 0x42 m true fun d => (d.rerunAsked m).settleEarly

/-- RERUN (R321). -/
def execRerun (m : Rx) (s : State) : Host.Outcome State Fault Refusal :=
  nextD s fun d => d.accept 0x43 m true fun d => (d.rerunIn m).settleEarly

/-! ### REDUCE (R310 to R313, R400) -/

/-- Reads the update table of a REDUCE. -/
def Dev.readEntries (d : Dev) (b : List Byte) : List PB × Dev := d.read (addr40 b 24) (64 * byteAt b 20)

/-- The update entries of a table's bytes. -/
def entriesOf (bs : List Byte) : List UEntry := (List.range (bs.length / 64)).map fun i => parseEntry ((bs.drop (64 * i)).take 64)

/-- The first run of a bucket here: run 0, or, at the leader of a chain that a member left during the step, a run without the departed
members (R319, R320). -/
def Dev.firstRun (d : Dev) (chain bucket : Nat) : Dev :=
  let lost := match d.ctl.txn with | some t => (d.chainMembers chain).filter t.gone.contains | none => []
  if lost.isEmpty then d.startRun chain bucket
  else
    let d1 := d.setBucket chain bucket fun x => { x with asked := lost.foldl (fun m a => m ||| 2 ^ a) x.asked }
    if d1.leader chain = some d1.ctl.address then d1.issueRun chain bucket else d1.startRun chain bucket

/-- What the checks of a REDUCE give: the state after their reads, the bucket, its gradient bases, the table's bytes, and the ranges. -/
structure ReduceWork where
  d : Dev
  bucket : Bucket
  grads : List Nat
  table : List PB
  reads : List (Nat × Nat)
  writes : List (Nat × Nat)
deriving DecidableEq, Repr

/-- The checks of a REDUCE at the head (R391, R517): its table and gradient bases are read and checked. -/
def Dev.reducePlan (d : Dev) (r : Nat) (x : Desc) : Plan ReduceWork :=
  let b := x.bytes
  let n := byteAt b 20
  let chain := field b 16 2
  let tab := (addr40 b 24, 64 * n)
  let arr := (addr40 b 32, 8 * d.policy.microBatches)
  if n > 64 ∨ flagInput b = true ∨ !(d.chainMembers chain).contains d.ctl.address then .refuses d 0x02
  else if d.clash r [tab, arr] [] then .waits
  else if !d.allMapped [tab, arr] then .refuses d 0x03
  else
    let t := d.readEntries b
    let g := t.2.read arr.1 arr.2
    if t.1.any (·.2) then .refuses (g.2.poisonedRead 15 r (poisonSector tab.1 t.1)) 0x13
    else if g.1.any (·.2) then .refuses (g.2.poisonedRead 15 r (poisonSector arr.1 g.1)) 0x13
    else
      let entries := entriesOf (t.1.map (·.1))
      let grads := (List.range d.policy.microBatches).map fun i => field (g.1.map (·.1)) (8 * i) 8 % 2 ^ 40
      let bk := bucketOf (r - 1) g.2.nextUid g.2.stepNo b entries
      let len := contribLen entries bk.groups
      let reads := [tab, arr] ++ grads.map fun a => (a, len)
      let writes := (bk.contrib, len) :: (if entries.isEmpty then [(bk.result, 256 * bk.groups)] else bk.ranges)
      if d.clash r reads writes then .waits
      else if !g.2.allMapped (grads.map (fun a => (a, len)) ++ [(bk.contrib, len)]) || (entries.isEmpty && !g.2.allMapped [(bk.result, 256 * bk.groups)]) then
        .refuses g.2 0x03
      else if !(entries.all (g.2.entryOk (r - 1)) && entriesApart entries) then .refuses g.2 0x0B
      else .goes ⟨g.2, bk, grads, t.1, reads, writes⟩

/-- A REDUCE starts: its bucket begins with the local phase and its first run (R310 to R313). -/
def Dev.reduceGo (r : Nat) (x : Desc) (w : ReduceWork) : Dev :=
  let bk := w.bucket
  let a := w.d.start r x w.reads w.writes
  let inTab := inputEntry (addr40 x.bytes 24) (64 * byteAt x.bytes 20) w.table
  let d1 := a.2.setTxn fun t => { t with tables := t.tables ++ [((r - 1) * 2 ^ 64 + a.1.iota, inTab)] }
  let d2 := d1.setCtl fun c => { c with buckets := (c.buckets.filter fun y => !(y.chain == bk.chain && y.bucket == bk.bucket)) ++ [{ bk with uid := a.1.uid }] }
  let d3 := match d2.bucket bk.chain bk.bucket with | some y => d2.localPhase y w.grads | none => d2
  ((d3.firstRun bk.chain bk.bucket).checkBucket bk.chain bk.bucket).settleEarly

/-- REDUCE at the head. -/
def Dev.reduceHead (d : Dev) (r : Nat) (x : Desc) : Dev := d.follow r (d.reducePlan r x) (Dev.reduceGo r x)

/-- REDUCE (R310, R400). -/
def execReduce (ring : Nat) (s : State) : Host.Outcome State Fault Refusal :=
  nextD s fun d => d.issue ring 0x07 false (d.reduceHead ring)

/-! ### NME updates (R258 to R271) -/

/-- Smallest element of a list. -/
def minOf : List Nat → Option Nat
  | [] => none
  | x :: xs => some (xs.foldl min x)

/-- The groups of a bucket that wait for the update of an M-die, those of a superseded version among them (R269, R272). -/
def Bucket.queued (b : Bucket) (m : Nat) : List Nat :=
  (b.stale.map (·.1) ++ b.arrived).filter fun g => groupMdie (groupPlace b.entries 0 g 0).2.1 == m

/-- The next queued group of an NME: the bucket whose results began first, then the least group that it serves (R268). -/
def Dev.nextGroup (d : Dev) (m : Nat) : Option (Bucket × Nat) :=
  d.ctl.buckets.findSome? fun b => (minOf (b.queued m)).map fun g => (b, g)

/-- Updates one group of a bucket (R260 to R267, R269). An update from a superseded version writes and counts, and takes no part in the
completion of the newest. -/
def Dev.updateOne (d : Dev) (m : Nat) (b : Bucket) (g : Nat) : Dev :=
  let p := groupPlace b.entries 0 g 0
  match b.entries[p.1]? with
  | none => d
  | some e =>
    let q := p.2.1
    let w := d.readGroup e.weight 1 q (e.g * e.bw)
    let mo := w.2.readGroup e.moment e.hMoment q (e.g * (e.bm + e.bv))
    let re := mo.2.readGroup e.result e.hResult q (e.g * e.br)
    let bad := w.1.any (·.2) || mo.1.any (·.2) || re.1.any (·.2)
    let old := b.stale.find? fun x => x.1 == g
    let n := match old with | some x => x.2 | none => d.divisorOf b g
    let raw (l : List PB) : List Byte := l.map (·.1)
    let out := updateGroup e d.seed p.1 q n (raw w.1) (raw mo.1) (raw re.1)
    let mark (l : List Byte) : List PB := l.map fun x => (x, bad)
    let src := 0x20 + b.colony
    let d1 := (re.2.writeUnits src e.weight 1 q 2 0 (mark out.weight)).writeUnits src e.moment e.hMoment q (e.hMoment + 1) 0 (mark out.moment)
    let d2 := d1.setMdie m fun x =>
      { x with nmeGroups := satAdd 32 x.nmeGroups 1, nmeRepeats := satAdd 32 x.nmeRepeats (b2n (b.everUpdated.contains g)),
               nmeSat := satAdd 32 x.nmeSat out.sat, nmeNonfin := satAdd 32 x.nmeNonfin out.nonfin, nmePoison := satAdd 32 x.nmePoison (b2n bad),
               nmeLaneOps := (x.nmeLaneOps + if n = 0 then 0 else laneOps e * e.g) % 2 ^ 64, nmeLayer := e.layer % 4096 }
    let d3 := if w.1.any (·.2) then d2.consume 8 m (unitPoison e.weight 1 q 0 w.1) else if mo.1.any (·.2) then d2.consume 8 m (unitPoison e.moment e.hMoment q 0 mo.1)
      else if re.1.any (·.2) then d2.consume 9 m (unitPoison e.result e.hResult q 0 re.1) else d2
    let item := itemHash (unitAddr e.weight 1 q 0) (mark (out.weight ++ out.moment))
    let ever (x : Bucket) : List Nat := if x.everUpdated.contains g then x.everUpdated else x.everUpdated ++ [g]
    d3.setBucket b.chain b.bucket fun x =>
      if old.isSome then { x with stale := x.stale.filter (·.1 != g), everUpdated := ever x }
      else
        { x with
          arrived := x.arrived.filter (· != g), updated := x.updated ++ [g], everUpdated := ever x
          nonfin := x.nonfin || decide (0 < out.nonfin), updDigest := (x.updDigest + item) % 2 ^ 128
          bite := if x.bite ≠ 0 then x.bite else if w.1.any (·.2) || mo.1.any (·.2) then 4 else if re.1.any (·.2) then 3 else 0 }

/-- NME_GROUP_UPDATE (R268, R269): the NME of an M-die updates its next group. -/
def execNmeGroupUpdate (mdie : Nat) (s : State) : Host.Outcome State Fault Refusal :=
  nextD s fun d =>
    if d.stepOpen then
      match d.nextGroup mdie with
      | some (b, g) => (d.updateOne mdie b g).checkBucket b.chain b.bucket
      | none => d
    else d

/-! ### Retractions (R210, R211, R337, R338) -/

/-- The micro-batches of this module that used data of a peer, 256 for step-wide work. -/
def Dev.usedFrom (d : Dev) (peer : Nat) : List Nat := match d.ctl.txn with | some t => Dev.usesOf t peer | none => []

/-- The uses of a peer's contributions by buckets: those it reached, and those whose contribution here used other data of it (R211). -/
def Dev.bucketUses (d : Dev) (peer : Nat) : List (Nat × Nat × Nat) :=
  (d.ctl.buckets.filterMap fun b => if b.took.testBit peer then some (b.chain, b.bucket, b.useEnds peer) else none) ++
    d.ctl.buckets.filterMap fun b =>
      if b.present && b.mbs.any (d.usedFrom peer).contains then some (b.chain, b.bucket, b.useEnds d.ctl.address) else none

/-- RETRACTION (R210, R211): recorded; the work that used the data is withdrawn, and the answer waits for it; where nothing of the sender
was consumed, it is answered at once (R338). -/
def execRetraction (m : Rx) (s : State) : Host.Outcome State Fault Refusal :=
  nextD s fun d => d.accept 0x20 m true fun d =>
    let mb := m.par 32 1
    let d1 := d.logRetract 0x14 m.step m.src mb (m.par 33 1)
    if d1.inStep m.step = .now then
      let uses := d1.bucketUses m.src
      let mbs := d1.usedFrom m.src
      (d1.setTxn fun t =>
        { t with rrecv := t.rrecv ++ [⟨m.par 24 8, mb, [m.src], m.par 33 1, !(uses.isEmpty && mbs.isEmpty), uses, mbs⟩]
                 retracted := t.retracted ++ [(m.src, m.par 33 1)]
                 settledOnce := false }).withdrawUses.answerRetracts
    else d1.send m.src 5 0x83 m.step (natLE 8 (m.par 24 8) ++ natLE 1 mb ++ natLE 1 0) []

/-- RETRACT_DONE (R337, R338). -/
def execRetractDone (m : Rx) (s : State) : Host.Outcome State Fault Refusal :=
  nextD s fun d => d.accept 0x83 m true fun d =>
    if d.inStep m.step = .now then
      (d.setTxn fun t => { t with rsent := t.rsent.filter fun r => !(r.peers == [m.src] && r.mb == m.par 32 1) }).answerRetracts
    else d

end Sys2Proof.Machine
end

