-- ==== Sys2Proof/Machine/Integrity.lean ====
section
/-! DEFINITION. Integrity.lean: BAR2 reads and writes, confirmation reads, row repair, granule retirement, scrubbing and the idle
merge entry (R42, R228 to R249, R417, R418, R429). -/
namespace Sys2Proof.Machine
open Sys2Proof

/-! ### BAR2 (R417, R418, R429) -/

/-- Whether one sector's address can be reached through BAR2 (R417). -/
def Dev.bar2Sector (d : Dev) (a : Nat) : Bool :=
  match d.key false a with
  | some k => decide (stackEnd ≤ k) || (d.mdie (stackPlace k).m).trained
  | none => false

/-- Whether BAR2 reaches every byte of a request. -/
def Dev.bar2Reach (d : Dev) (a n : Nat) : Bool :=
  decide (a + n ≤ 2 ^ d.host.cfg.bar2Log2) && (List.range ((a % 64 + n + 63) / 64)).all fun i => d.bar2Sector (a / 64 * 64 + 64 * i)

/-- Splits the bytes of a read into completions: each poisoned sector in one of its own with EP set, the rest unsplit up to the maximum
payload (R413, R418). -/
def splitCompletions (tag : Nat) : Nat → Nat → List PB → Option (Nat × List Byte) → List HostOut
  | 0, _, _, held => match held with | some h => [.completion tag h.1 h.2 false] | none => []
  | k + 1, a, bs, held =>
    let flush : List HostOut := match held with | some h => [.completion tag h.1 h.2 false] | none => []
    if bs.isEmpty then flush
    else
      let n := 64 - a % 64
      let part := bs.take n
      if part.any (·.2) then flush ++ .completion tag a (part.map (·.1)) true :: splitCompletions tag k (a + n) (bs.drop n) none
      else if held.any fun h => decide (maxPayload < h.2.length + part.length) then
        flush ++ splitCompletions tag k (a + n) (bs.drop n) (some (a, part.map (·.1)))
      else
        let h := match held with | some h => (h.1, h.2 ++ part.map (·.1)) | none => (a, part.map (·.1))
        splitCompletions tag k (a + n) (bs.drop n) (some h)

/-- Records the poisoned sectors of a read by the host, one event each (row 11 of the table Poison rules). -/
def Dev.hostPoison : Nat → Dev → Nat → List PB → Dev
  | 0, d, _, _ => d
  | k + 1, d, a, bs =>
    if bs.isEmpty then d
    else
      let n := 64 - a % 64
      Dev.hostPoison k (if (bs.take n).any (·.2) then d.consume 11 0xFFFF (a / 64 * 64) else d) (a + n) (bs.drop n)

/-- BAR2_READ (R417, R418). -/
def execBar2Read (tag addr len : Nat) (tlp : Tlp) (s : State) : Host.Outcome State Fault Refusal :=
  nextD s fun d =>
    if !d.host.linkUp then d
    else if let some e := dropError tlp then d.aer e addr
    else if !d.barOpen || !d.bar2Reach addr len then d.unsupported (some tag) addr
    else
      let v := d.read addr len
      let d1 := Dev.hostPoison (len / 64 + 2) v.2 addr v.1
      d1.setHost fun h => { h with out := (splitCompletions tag (len / 64 + 2) addr v.1 none).reverse ++ h.out }

/-- BAR2_WRITE (R42, R43, R417, R429). -/
def execBar2Write (addr : Nat) (bytes : List Byte) (tlp : Tlp) (s : State) : Host.Outcome State Fault Refusal :=
  nextD s fun d =>
    if !d.host.linkUp then d
    else if let some e := dropError tlp then d.aer e addr
    else if !d.barOpen || !d.bar2Reach addr bytes.length then d.unsupported none addr
    else
      let poisoned := tlp == .poisoned
      let d1 := if poisoned then d.aer aerPoisoned addr else d
      d1.write 0 addr (bytes.map fun b => (b, poisoned))

/-! ### The row fault flow (R230, R246 to R249) -/

/-- Device address of a key: a pool granule belongs to the granule whose newest list entry names it (R221). A key that no device address
reaches (the old place of a retired granule, a free pool granule), which only the scrubber reads, counts as its own address (log entry
149). -/
def Dev.deviceOf (d : Dev) (k : Nat) : Nat :=
  if 0x8FE0000000 ≤ k ∧ k < stackEnd then
    match d.retired.reverse.find? (fun e => e.2 == (k - 0x8FE0000000) / 65536) with
    | some e => e.1 * 65536 + k % 65536
    | none => k
  else k

/-- The row of a key. -/
def rowOf (k : Nat) : Row := let p := stackPlace k; ⟨p.m, p.pc, p.bank, p.row⟩

/-- Payload of the events row repaired and granule retired. -/
def rowPayload (r : Row) : List Byte := natLE 1 r.mdie ++ natLE 1 r.pc ++ natLE 1 r.bank ++ natLE 2 r.row

/-- Memory degraded is reported: when the retirement list becomes full, and for each retirement that the full list turns away (R246,
R249). -/
def Dev.degrade (d : Dev) : Dev := d.logEv 1 0x0024 0xFFFF [] 0

/-- A confirmed cell fault takes its row into the table Row fault flow (R246). A repair that is queued holds its spare row and its place in
the list; a fault of a row whose repair, or of a granule whose retirement, is queued queues nothing more. -/
def Dev.rowFault (d : Dev) (k : Nat) : Dev :=
  let r := rowOf k
  let a := d.deviceOf k
  let queued := (d.repairs.map (·.1)).filter fun y => y.mdie == r.mdie
  let rows := (d.mdie r.mdie).repaired ++ queued
  let spare := decide ((rows.filter fun y => y.pc == r.pc && y.bank == r.bank).length < Config.spareRows r.mdie r.pc r.bank)
  let known := (d.mdie r.mdie).repaired.contains r
  if queued.contains r then d
  else if !known && spare && decide (rows.length < 1024) then { d with repairs := d.repairs ++ [(r, a)] }
  else
    let d1 := if !known && !spare then d.setMdie r.mdie fun y => { y with noSpare := satAdd 16 y.noSpare 1 } else d
    if d1.degraded then d1.degrade
    else if d1.retires.any fun c => c.2 / 65536 == a / 65536 then d1
    else { d1 with retires := d1.retires ++ [(r, a)] }

/-- Takes the first entry of a list that meets a condition. -/
def takeFirst {α : Type} (p : α → Bool) : List α → Option α × List α
  | [] => (none, [])
  | x :: xs => if p x then (some x, xs) else (let r := takeFirst p xs; (r.1, x :: r.2))

/-- CONFIRMATION_READ (R230): `agrees` says that the read finds what the last write put there. -/
def execConfirmationRead (mdie : Nat) (agrees : Bool) (s : State) : Host.Outcome State Fault Refusal :=
  nextD s fun d =>
    let t := takeFirst (fun c => c.mdie == mdie) d.confirms
    match t.1 with
    | none => d
    | some c =>
      let d1 : Dev := { d with confirms := t.2 }
      let d2 := (d1.logEv 1 0x0020 mdie (natLE 1 c.fails ++ natLE 1 (if agrees then 2 else 1)) c.addr).health (if agrees then 1 else 8)
      if agrees then d2 else d2.rowFault c.key

/-- Keys of the 16 sectors of a row. -/
def rowSectors (r : Row) : List Nat := (List.range 16).map fun i => placeAddr ⟨r.mdie, r.pc, r.bank, r.row, i / 4, i % 4, 0⟩

/-- ROW_REPAIR (R247): the row's contents move to a spare row unchanged; sectors that fail parity are written poisoned. -/
def execRowRepair (mdie : Nat) (s : State) : Host.Outcome State Fault Refusal :=
  nextD s fun d =>
    let t := takeFirst (fun c => c.1.mdie == mdie) d.repairs
    match t.1 with
    | none => d
    | some c =>
      let d1 : Dev := { d with repairs := t.2 }
      let d2 := (rowSectors c.1).foldl (fun d k => (d.readKey (d.deviceOf k) k).2) d1
      let d3 := d2.setMdie mdie fun x => { x with repaired := x.repaired ++ [c.1] }
      (d3.logEv 1 0x0022 mdie (rowPayload c.1) c.2).health 16

/-- Copies one sector of a granule to its pool granule (R248). -/
def Dev.moveSector (d : Dev) (src dst : Nat) : Dev :=
  let v := d.readKey (d.deviceOf src) src
  v.2.writeFull dst v.1.1 v.1.2

/-- The cache holds no line of a granule that the redirect has moved (R221, R223). -/
def Dev.dropLines (d : Dev) (granule : Nat) : Dev :=
  (List.range 8).foldl (fun d m => d.setMdie m fun x => { x with cache := x.cache.filter fun y => y.line / 256 != granule }) d

/-- GRANULE_RETIREMENT (R248, R249): the granule that holds the failing address is copied to the next free pool granule and
redirected; its entries in merge buffers are written out first. The entry that fills the list leaves the memory degraded. -/
def execGranuleRetirement (s : State) : Host.Outcome State Fault Refusal :=
  nextD s fun d =>
    match d.retires with
    | [] => d
    | c :: rest =>
      let d1 : Dev := { d with retires := rest }
      if d1.degraded then d1.degrade
      else
        let g := c.2 / 65536
        let old := d1.redirect (g * 65536)
        let pool := d1.retired.length
        let d2 := (List.range 8).foldl (fun d m => ((d.mdie m).merge.filter fun e => e.sector / 65536 == old / 65536).foldl (fun d e => d.flushEntry m e) d) d1
        let d3 := (List.range 1024).foldl (fun d i => d.moveSector (old + 64 * i) (poolBase pool + 64 * i)) d2
        let d4 : Dev := { d3 with retired := d3.retired ++ [(g, pool)] }
        let d5 := ((d4.logEv 1 0x0023 c.1.mdie (rowPayload c.1) (g * 65536)).health 32).dropLines (old / 65536)
        if d5.degraded then d5.degrade else d5

/-! ### Scrubbing and idle merge entries (R237, R244, R245) -/

/-- Sectors of a stack and of a slice. -/
def stackSectors : Nat := 1207959552
def sliceSectors : Nat := 4194304

/-- A scrub read of the sector at a key: not one held in a merge entry (R244). -/
def Dev.scrubAt (d : Dev) (k : Nat) : Dev := if (d.mergeEntry k).isSome then d else (d.readKey (d.deviceOf k) k).2

/-- Flips the stored parity of the bytes of a mask: what a physical upset leaves (log entry 27). -/
def Dev.upset (d : Dev) (k mask : Nat) : Dev :=
  if mask % 2 ^ 64 = 0 then d
  else
    let x := d.mem.sector k
    { d with mem := d.mem.store k ⟨x.data, x.fails ^^^ (mask % 2 ^ 64)⟩ }

/-- Takes the line that holds a stack key out of the cache. -/
def Dev.discardLine (d : Dev) (k : Nat) : Dev :=
  d.setMdie (stackPlace k).m fun x => { x with cache := x.cache.filter fun y => y.line != k / 256 }

/-- An upset of what the read of a stack sector finds (R231): in a clean cache line it is no error, the line is discarded and the stack is
read; in a dirty line, or with no line, the sector's parity fails. -/
def Dev.upsetRead (d : Dev) (k mask : Nat) : Dev :=
  if mask % 2 ^ 64 = 0 then d
  else
    match d.cached k with
    | some x => if x.dirty.testBit (k / 64 % 4) then d.upset k mask else d.discardLine k
    | none => d.upset k mask

/-- What an upset leaves in SRAM (log entry 27). -/
def Dev.strike (d : Dev) : Strike → Dev
  | .table k i mask => { d with tableBad := tset d.tableBad (tableKey k i) (tget 0 d.tableBad (tableKey k i) ^^^ (mask % 2 ^ 64)) }
  | .merge b mask =>
    match mdieOfKey b with
    | some m => d.setMdie m fun x => { x with merge := x.merge.map fun e => if e.sector = b then { e with fails := e.fails ^^^ (mask % 2 ^ 64) } else e }
    | none => d
  | .stored k mask => if stackEnd ≤ k then d.upset k mask else d

/-- SCRUB_READ (R244, R245): the next stack sector, and after every 256 of them a slice sector; `upset` is the mask of bytes whose
stored parity an upset has flipped before the read, and `strike` what an upset has left elsewhere since the last one. -/
def execScrubRead (mdie upset : Nat) (strike : Option Strike) (s : State) : Host.Outcome State Fault Refusal :=
  nextD s fun d0 =>
    let d := match strike with | some x => d0.strike x | none => d0
    let x := d.mdie mdie
    if !x.scrubEnable || !x.trained then d
    else
      let k := placeAddr (scrubPlace mdie x.scrubPos)
      let d1 := (d.upsetRead k upset).scrubAt k
      let d2 := if x.scrubCount = 255 ∧ x.scrubLlm then d1.scrubAt (0xA000000000 + mdie * 0x10000000 + 64 * x.llmPos) else d1
      d2.setMdie mdie fun y =>
        { y with scrubPos := (x.scrubPos + 1) % stackSectors, scrubCount := (x.scrubCount + 1) % 256,
                 llmPos := if x.scrubCount = 255 ∧ x.scrubLlm then (x.llmPos + 1) % sliceSectors else x.llmPos }

/-- MERGE_ENTRY_IDLE (R237). -/
def execMergeEntryIdle (mdie sector : Nat) (s : State) : Host.Outcome State Fault Refusal :=
  nextD s fun d =>
    match (d.mdie mdie).merge.find? fun e => e.sector == sector with
    | some e => d.flushEntry mdie e
    | none => d

end Sys2Proof.Machine
end

