-- ==== Sys2Proof/Machine/Shards.lean ====
section
/-! DEFINITION. Shards.lean: the shard table, GATHER and SCATTER with their messages (R296 to R305, R330, R331, R400, R516). -/
namespace Sys2Proof.Machine
open Sys2Proof

/-! ### The table (R296 to R298, R516) -/


/-- Whether a range lies in one mapped range of the device address space of a plan, other than the retirement pool; in last-level
memory, in the scratchpad part of one slice (R218, R222, R516). -/
def rangePlanned (p : Pattern) (a n : Nat) : Bool :=
  let slice' := (a - 0xA000000000) / 0x10000000
  let tile := (a - 0xB000000000) / 0x400000
  decide (a + n ≤ 0x8FE0000000) ||
    (decide (0xA000000000 ≤ a) && decide (a < 0xA080000000) &&
      decide (a % 0x10000000 + n ≤ (8 - p.cacheSteps.getD slice' 0) * 0x2000000)) ||
    (decide (0xB000000000 ≤ a) && decide (a < 0xB018000000) && decide (a % 0x400000 + n ≤ (p.parts.getD tile ⟨0, 0, 0, 0, 0⟩).size * 65536))

/-- One valid entry against a plan (R516); `b` is its 32 bytes. -/
def shardFormed (p : Pattern) (b : List Byte) : Bool :=
  let x := parseShard b
  decide (field b 4 2 < p.members.length) && decide (byteAt b 6 < 4) && byteAt b 7 == 0 && field b 13 3 == 0 && field b 21 3 == 0 &&
    x.len != 0 && rangePlanned p x.addr x.len &&
    (if x.epoch then p.regions.any fun r => decide (r.copy0 ≤ x.addr) && decide (x.addr + x.len ≤ r.copy0 + r.len)
     else !(p.regions.any fun r => overlaps (x.addr, x.len) (r.copy0, r.len) || overlaps (x.addr, x.len) (r.copy1, r.len)))

/-- Every valid entry of a table is well formed, and no two hold the same tensor and shard (R516). -/
def tableFormed (p : Pattern) (es : List (List Byte)) : Bool :=
  let valid := es.filter fun b => bitAt (byteAt b 6) 0
  valid.all (shardFormed p) && ((valid.map fun b => field b 0 4).eraseDups.length == valid.length)

/-- Largest body of a message (R284); requests and shard data are cut at it (log entry 38). -/
def mib : Nat := 1048576

/-- The pieces of `n` bytes at most 1 MiB long: offset and length. -/
def cuts (n : Nat) : List (Nat × Nat) := (List.range ((n + mib - 1) / mib)).map fun i => (mib * i, min mib (n - mib * i))

/-- The step that a message of a descriptor belongs to: the open step, or 0 with none (R330). -/
def Dev.messageStep (d : Dev) (a : Active) : Nat := if d.stepOpen && !flagSetup a.bytes then d.stepNo else 0

/-- The open step, or 0 with none (R330). -/
def Dev.openNo (d : Dev) : Nat := if d.stepOpen then d.stepNo else 0

/-- Leads of params: entry and generation. -/
def entryParams (d : Dev) (e : Nat) : List Byte := natLE 2 e ++ natLE 2 d.ctl.generation

/-! ### GATHER (R301 to R303, R305, R400) -/

/-- The number of entries of a run: 0 means 65,536. -/
def runCount (b : List Byte) : Nat := if field b 18 2 = 0 then 65536 else field b 18 2

/-- Entries of a run with their places: entry and offset from the run's first byte. -/
def Dev.runPlaces (d : Dev) (first n stride : Nat) : List (Nat × Nat) :=
  ((List.range n).foldl (fun (acc : List (Nat × Nat) × Nat) e =>
    (acc.1 ++ [(first + e, if stride = 0 then acc.2 else e * stride)], acc.2 + (d.shard (first + e)).len)) ([], 0)).1

/-- Length of a run's bytes, with the zeros up to the stride. -/
def Dev.runLength (d : Dev) (first n stride : Nat) : Nat :=
  ((d.runPlaces first n stride).map fun p => p.2 + max stride (d.shard p.1).len).foldl max 0

/-- A GATHER's status where a reply brings an entry's version: STALE_SHARD once any reply differs from the expected list (R303). -/
def Dev.gatherVersion (d : Dev) (uid i version : Nat) : Dev :=
  d.setAct uid fun a =>
    let n := runCount a.bytes
    let want := a.mem.drop n
    { a with mem := a.mem.set i version, status := if !want.isEmpty && want.getD i 0 != version then 0x0D else a.status }

/-- Ends a GATHER whose last byte has arrived (R297, R303): its writes, the version list among them, are made as it completes. -/
def Dev.gatherDone (d : Dev) (uid : Nat) : Dev :=
  match d.act uid with
  | none => d
  | some a =>
    if !a.wait.isEmpty || a.done then d
    else
      let list := addr40 a.bytes 32
      let d1 := d.setAct uid fun y =>
        { y with done := true
                 kept := if list = 0 then y.kept else y.kept ++ [(list, clean ((y.mem.take (runCount y.bytes)).map (natLE 8)).flatten, 0)] }
      let d2 := if a.status = 0x0D then
          (((d1.setCtl fun c => { c with staleCnt := satAdd 32 c.staleCnt 1 }).logEv 0 0x0032 0xFFFF (natLE 2 (field a.bytes 16 2)) 0).workFails a.bytes
            Config.retractCause 13)
        else d1
      d2.tryFinish uid

/-- Starts one entry of a GATHER: the zero fill, then the local copy or the requests to its owner (R301). -/
def Dev.gatherEntry (d : Dev) (a : Active) (stride dst : Nat) (p : Nat × Nat) : Dev :=
  let x := d.shard p.1
  let into := dst + p.2
  let d0 := if x.len < stride then d.keep a.uid (into + x.len) (clean (zeros (stride - x.len))) else d
  if x.owner = d0.ctl.address then
    let v := d0.read x.addr x.len
    (v.2.keep a.uid into v.1).gatherVersion a.uid (p.1 - field a.bytes 16 2) x.version
  else
    (cuts x.len).foldl (fun d c =>
      (d.send x.owner 2 0x50 (d.messageStep a) (entryParams d p.1 ++ zeros 4 ++ natLE 8 c.1 ++ natLE 4 c.2) [] (some a.uid)).setAct a.uid fun y =>
        { y with wait := y.wait ++ [[x.owner, p.1, c.1, c.2, into + c.1]] }) d0

/-- A descriptor whose owner is not there (R305). -/
def Dev.ownerGone (d : Dev) (a : Active) : Dev := (d.finish a.uid 0x0E).workFails a.bytes Config.retractCause 13

/-- The shards of a run, and those of them that this module holds, as ranges. -/
def Dev.runShards (d : Dev) (b : List Byte) : List Shard := (List.range (runCount b)).map fun e => d.shard (field b 16 2 + e)
def Dev.ownRanges (d : Dev) (b : List Byte) : List (Nat × Nat) :=
  ((d.runShards b).filter fun s => s.owner == d.ctl.address).map fun s => (s.addr, s.len)

/-- The table sectors of a run: its entries, and the peer contexts and routes of their owners (R226). -/
def Dev.runSectors (d : Dev) (b : List Byte) : List Nat :=
  ((List.range (runCount b)).map fun e => d.shardSector (field b 16 2 + e)) ++ (d.runShards b).flatMap fun s => peerSectors s.owner

/-- The bytes of a run in memory, at the address of byte 24. -/
def Dev.runRange (d : Dev) (b : List Byte) : Nat × Nat := (addr40 b 24, d.runLength (field b 16 2) (runCount b) (field b 20 4))

/-- The version lists of a GATHER: the one it writes and the one it expects, where it has them. -/
def versionList (b : List Byte) (i : Nat) : List (Nat × Nat) := if addr40 b i = 0 then [] else [(addr40 b i, 8 * runCount b)]

/-- The checks of a GATHER at the head (R400, R517): they give the expected versions' bytes and the state after their read. -/
def Dev.gatherPlan (d : Dev) (r : Nat) (x : Desc) : Plan (List PB × Dev) :=
  let b := x.bytes
  let dst := d.runRange b
  let vers := versionList b 32
  let exps := versionList b 40
  if d.clash r (exps ++ d.ownRanges b) (dst :: vers) then .waits
  else if flagInput b then .refuses d 0x02
  else if !d.allMapped (dst :: (vers ++ exps)) then .refuses d 0x03
  else
    let e := match exps with | w :: _ => d.read w.1 w.2 | [] => ([], d)
    if e.1.any (·.2) then .refuses (e.2.poisonedRead 15 r (poisonSector (addr40 b 40) e.1)) 0x13
    else if 65536 < field b 16 2 + runCount b || (d.runShards b).any (fun s => !s.valid) then .refuses e.2 0x0C
    else .goes e

/-- A GATHER starts: each entry is copied here or asked of its owner; an owner that is not there ends it (R301, R305). -/
def Dev.gatherGo (r : Nat) (x : Desc) (e : List PB × Dev) : Dev :=
  let b := x.bytes
  let n := runCount b
  let a := e.2.start r x (versionList b 40 ++ e.2.ownRanges b) (e.2.runRange b :: versionList b 32)
  let want := (List.range (e.1.length / 8)).map fun i => field (e.1.map (·.1)) (8 * i) 8
  let d1 := a.2.setAct a.1.uid fun y => { y with mem := List.replicate n 0 ++ want }
  if (e.2.runShards b).any fun s => !d1.alive s.owner then d1.ownerGone a.1
  else
    ((d1.runPlaces (field b 16 2) n (field b 20 4)).foldl (fun d p => d.gatherEntry a.1 (field b 20 4) (addr40 b 24) p) d1).gatherDone a.1.uid

/-- GATHER at the head. -/
def Dev.gatherHead (d : Dev) (r : Nat) (x : Desc) : Dev :=
  d.withTables (d.runSectors x.bytes) fun d => d.follow r (d.gatherPlan r x) (Dev.gatherGo r x)

/-- GATHER (R301). -/
def execGather (ring : Nat) (s : State) : Host.Outcome State Fault Refusal :=
  nextD s fun d => d.issue ring 0x04 false (d.gatherHead ring)

/-! ### Serving requests (R302, R331) -/

/-- Whether a request can be served now: a request of a step for epoch-buffered bytes only once step s − 1 is committed, and not while
STRANDED (R302, R329). -/
def Dev.servable (d : Dev) (h : HeldReq) : Bool :=
  let x := d.shard (field h.params 0 2)
  h.step == 0 || (d.ctl.state != 8 && (!x.epoch || d.ctl.committed + 1 == h.step))

/-- Serves a request: the bytes and the version, or BAD_SHARD (R302, R330, R331). -/
def Dev.serve (d : Dev) (h : HeldReq) : Dev :=
  d.withTables (d.shardSector (field h.params 0 2) :: peerSectors h.src) fun d =>
  let e := field h.params 0 2
  let off := field h.params 8 8
  let n := field h.params 16 4
  let x := d.shard e
  let lead := natLE 2 e ++ natLE 2 (field h.params 2 2) ++ zeros 4 ++ natLE 8 off
  if !x.valid || x.owner != d.ctl.address || decide (x.len < off + n) || field h.params 2 2 != d.ctl.generation then
    d.send h.src 2 0x51 d.openNo (lead ++ natLE 8 x.version ++ natLE 1 1) []
  else
    let v := d.read (x.addr + off) n
    (v.2.send h.src 2 0x51 d.openNo (lead ++ natLE 8 x.version ++ natLE 1 0) v.1).noteServed h.src (x.addr + off, n)

/-- The module's own PERMUTE to a generation is running. -/
def Dev.permuting (d : Dev) (gen : Nat) : Bool := match d.ctl.permute with | some p => p.gen == gen | none => false

/-- GATHER_REQ (R302, R331): served, or held until the owner's commit. -/
def execGatherReq (m : Rx) (s : State) : Host.Outcome State Fault Refusal :=
  nextD s fun d => d.accept 0x50 m (!d.permuting (m.par 26 2)) fun d =>
    let h : HeldReq := ⟨m.src, m.step, m.params⟩
    if m.par 26 2 ≠ d.ctl.generation ∨ d.servable h = true then d.serve h
    else d.setCtl fun c => { c with held := c.held ++ [h] }

/-- GATHER_REPLY (R302): the owner serves the oldest request of a peer that it held and now can serve. -/
def execGatherReply (peer : Nat) (s : State) : Host.Outcome State Fault Refusal :=
  nextD s fun d =>
    let t := takeFirst (fun h => h.src == peer && d.servable h) d.ctl.held
    match t.1 with
    | some h => (d.setCtl fun c => { c with held := t.2 }).serve h
    | none => d

/-- The GATHER that waits for a reply. -/
def Dev.gatherOf (d : Dev) (owner entry off : Nat) : Option (Active × List Nat) :=
  d.acts.findSome? fun a =>
    if kindOf a.bytes = 0x04 then (a.wait.find? fun w => w.take 3 == [owner, entry, off]).map fun w => (a, w) else none

/-- GATHER_DATA (R301, R303, R331). -/
def execGatherData (m : Rx) (s : State) : Host.Outcome State Fault Refusal :=
  nextD s fun d => d.accept 0x51 m (!d.permuting (m.par 26 2)) fun d =>
    match d.gatherOf m.src (m.par 24 2) (m.par 32 8) with
    | none => d
    | some (a, w) =>
      if m.par 26 2 ≠ d.ctl.generation ∨ m.par 48 1 = 1 then d.finish a.uid 0x0C
      else
        let d1 := (d.keep a.uid (w.getD 4 0) m.body).noteUsed a.bytes m.src
        let d2 := d1.setCtl fun c => { c with gatherBytes := (c.gatherBytes + m.body.length) % 2 ^ 64 }
        ((d2.setAct a.uid fun y => { y with wait := y.wait.erase w }).gatherVersion a.uid (m.par 24 2 - field a.bytes 16 2) (m.par 40 8)).gatherDone
          a.uid

/-! ### SCATTER (R304, R305, R331) -/

/-- Starts one entry of a SCATTER: the local write, which waits until no owner can refuse the SCATTER any more (R297), or the messages to
its owner. -/
def Dev.scatterEntry (d : Dev) (a : Active) (src : Nat) (p : Nat × Nat) : Dev :=
  let x := d.shard p.1
  if x.owner = d.ctl.address then
    let v := d.read (src + p.2) x.len
    v.2.keep a.uid x.addr v.1 (p.1 + 1)
  else
    let d1 := (cuts x.len).foldl (fun d c =>
      let v := d.read (src + p.2 + c.1) c.2
      v.2.send x.owner 2 0x52 (d.messageStep a)
        (entryParams d p.1 ++ zeros 4 ++ natLE 8 c.1 ++ natLE 1 (b2n (decide (c.1 + c.2 = x.len)))) v.1 (some a.uid)) d
    (d1.setAct a.uid fun y => { y with wait := y.wait ++ [[x.owner, p.1]] }).noteLeft a x.owner

/-- Routed flag of a SCATTER. -/
def routedFlag (b : List Byte) : Bool := bitAt (byteAt b 32) 0

/-- The checks of a SCATTER at the head (R400, R517); a routed one is for its own command. -/
def Dev.scatterPlan (d : Dev) (r : Nat) (x : Desc) : Plan Unit :=
  let b := x.bytes
  if routedFlag b || d.clash r [d.runRange b] (d.ownRanges b) then .waits
  else if flagInput b then .refuses d 0x02
  else if !d.allMapped [d.runRange b] then .refuses d 0x03
  else if 65536 < field b 16 2 + runCount b || (d.runShards b).any (fun s => !s.valid || s.epoch) then .refuses d 0x0C
  else .goes ()

/-- A SCATTER starts: each entry is written here or sent to its owner; an owner that is not there ends it (R304, R305). -/
def Dev.scatterGo (d : Dev) (r : Nat) (x : Desc) : Dev :=
  let b := x.bytes
  let a := d.start r x [d.runRange b] (d.ownRanges b)
  if (d.runShards b).any fun s => !a.2.alive s.owner then a.2.ownerGone a.1
  else
    let d1 := (a.2.runPlaces (field b 16 2) (runCount b) (field b 20 4)).foldl (fun d p => d.scatterEntry a.1 (addr40 b 24) p) a.2
    (d1.setAct a.1.uid fun y => { y with done := true }).tryFinish a.1.uid

/-- SCATTER at the head. -/
def Dev.scatterHead (d : Dev) (r : Nat) (x : Desc) : Dev :=
  d.withTables (d.runSectors x.bytes) fun d => d.follow r (d.scatterPlan r x) fun _ => d.scatterGo r x

/-- SCATTER (R304). -/
def execScatter (ring : Nat) (s : State) : Host.Outcome State Fault Refusal :=
  nextD s fun d => d.issue ring 0x05 false (d.scatterHead ring)

/-- SCATTER_DATA (R298, R304, R331): written by the owner, whose version rises with the last message; an entry that is not so served is
refused. -/
def execScatterData (m : Rx) (s : State) : Host.Outcome State Fault Refusal :=
  nextD s fun d => d.accept 0x52 m (!d.permuting (m.par 26 2)) fun d =>
    let e := m.par 24 2
    let x := d.shard e
    if m.par 26 2 ≠ d.ctl.generation ∨ x.valid = false ∨ x.epoch = true ∨ x.owner ≠ d.ctl.address ∨ x.len < m.par 32 8 + m.body.length then
      d.send m.src 2 0x53 d.openNo (entryParams d e ++ natLE 1 0x52) []
    else
      let d1 := (d.write 4 (x.addr + m.par 32 8) m.body).noteGot m.step m.src (x.addr + m.par 32 8) m.body.length
      if m.par 40 1 % 2 = 1 then d1.bump e else d1

/-- SHARD_REFUSE (R331): the SCATTER that sent the refused bytes completes with BAD_SHARD. -/
def execShardRefuse (m : Rx) (s : State) : Host.Outcome State Fault Refusal :=
  nextD s fun d => d.accept 0x53 m (!d.permuting (m.par 26 2)) fun d =>
    match d.acts.find? fun a => kindOf a.bytes == 0x05 && a.wait.any fun w => w == [m.src, m.par 24 2] with
    | some a => d.finish a.uid 0x0C
    | none => d

end Sys2Proof.Machine
end

