-- ==== Sys2Proof/Machine/Commit.lean ====
section
/-! DEFINITION. Commit.lean: the step transaction: opening, settling, clean tokens, the commit with its digest and replay record, and
the abort's last orders (R49 to R65, R197, R328, R335 to R350, R355 to R357, R360). -/
namespace Sys2Proof.Machine
open Sys2Proof

/-! ### Working copies (R55, R58) -/

/-- Copies one sector of a region's visible copy into its working copy, poison and all (R58, R227). -/
def Dev.copySector (d : Dev) (a : Nat) : Dev :=
  let v := d.readSec false a
  match v.2.key true a with
  | some b => v.2.writeFull b v.1.1 v.1.2
  | none => v.2

/-- Copies forward every granule whose written bit is clear (R58). -/
def Dev.copyForward (d : Dev) : Dev :=
  d.regions.zipIdx.foldl (fun d r =>
    (List.range ((r.1.len + 65535) / 65536)).foldl (fun d g =>
      if d.ctl.written.contains (r.2, g) then d
      else (List.range ((min 65536 (r.1.len - 65536 * g) + 63) / 64)).foldl (fun d i => d.copySector (r.1.copy0 + 65536 * g + 64 * i)) d) d) d

/-- The epoch flip: the copies change places and the written bits are cleared (R40, R58). -/
def Dev.flip (d : Dev) : Dev := d.setCtl fun c => { c with visible := !c.visible, written := [] }

/-! ### Opening (R50, R52, R336, R344, R345, R360, R384, R401) -/

/-- A tile with its counts since the step opened cleared (R128, R153, R181, R214). -/
def stepTile (t : Tile) : Tile :=
  { t with dmaBytes := 0, castPanels := 0, castSat := 0, castCrush := 0, castNonfin := 0, castOutlier := 0, castOvf := 0, castPoison := 0, meMac := 0, meSkip := 0,
           meOut := 0, meSat := 0, meNonfin := 0, mePoison := 0, meRescale := 0, meRange := 0, seElems := 0, seStall := 0, seRuns := 0, seSat := 0, seNonfin := 0,
           sePoison := 0, ldRepeats := 0, ldReports := 0, ldSplits := 0, sumFails := 0, dupCnt := 0, dupMismatch := 0, partnerCnt := 0 }

/-- An M-die with its NME counts cleared (R272). -/
def stepMdie (x : MDie) : MDie :=
  { x with nmeLaneOps := 0, nmeAccum := 0, nmeGroups := 0, nmeRepeats := 0, nmeSat := 0, nmeNonfin := 0, nmePoison := 0 }

/-- The counters that clear when a step opens (R214, R272, R334). -/
def Dev.clearCounters (d : Dev) : Dev :=
  { d with
    tiles := d.tiles.map fun e => (e.1, stepTile e.2)
    mdies := d.mdies.map fun e => (e.1, stepMdie e.2)
    ctl := { d.ctl with gatherBytes := 0, staleCnt := 0, expertOvf := 0, expertDrop := 0, rerunCnt := 0, absentCnt := 0 } }

/-- The members that the active bank does not map out, as fence peers: JOINED now (R336). -/
def Dev.fencePeers (d : Dev) : List Nat :=
  d.members'.filter fun a => a != d.ctl.address && !d.ctl.mapped.testBit a && (d.peer a).state == 3

/-- The fence peers that have not departed. -/
def Dev.fenceHere (d : Dev) (t : Txn) : List Nat := t.fence.filter fun a => !t.gone.contains a && (d.peer a).state == 3

/-- A fresh transaction. -/
def txnOf (step seed : Nat) (fence : List Nat) : Txn :=
  { step := step, seed := seed, fence := fence, ends := 0, pledged := false, settledOnce := false, cleanGen := 0,
    committing := false, aborted := false, abortSent := false, closed := false, cause := 0, origin := 0, withdrawn := [], left := [],
    wrote := [], got := [], used := [], retracted := [], rsent := [], rrecv := [], gone := [], lostWait := false, gotCommitting := false, committingH := 0, inputs := [], tables := [], repeats := [],
    layers := [], behind := false, updDigest := 0 }

/-- The logged record of a step: offset and length. -/
def Dev.logged (d : Dev) (step : Nat) : Option (Nat × Nat) := (d.ctl.rlog.find? fun r => r.1 == step).map (·.2)

/-- Base and size of the replay-log ring (R355). -/
def Dev.rlogRing (d : Dev) : Nat × Nat := match d.ctl.pattern with | some p => (p.rlogBase, p.rlogSize) | none => (0, 0)

/-- The bytes of the logged record of a step. -/
def Dev.loggedBytes (d : Dev) (step : Nat) : List Byte :=
  match d.logged step with
  | some r => (d.read (d.rlogRing.1 + r.1) r.2).1.map (·.1)
  | none => []

/-- Micro-batches that a logged record leaves out (R360). -/
def Dev.leftOut (d : Dev) : List Nat :=
  if d.inFrog then
    let present := leNat (sub (d.loggedBytes d.stepNo) 64 32)
    (List.range d.policy.microBatches).filter fun m => !present.testBit m
  else []

/-- The retry may open: orders 1 to 6 are done, a STEP_ABORT is held from every fence peer that is still there, and those sent are
acknowledged (order 7 of the table Abort of step s). -/
def Dev.retryReady (d : Dev) : Bool :=
  match d.ctl.txn with
  | none => true
  | some t =>
    t.aborted && t.closed && ((d.fenceHere t).all fun a => (d.peer a).abortStep == t.step) &&
      !(d.peers.any fun e => e.2.unacked.any fun m => m.cls == 5 && m.typ == 0x82 && m.step == t.step)

/-- No JOINED member has another pattern digest (R384). -/
def Dev.digestsAgree (d : Dev) : Bool := d.peers.all fun e => e.2.state != 3 || e.2.digest == sub d.ctl.digest 0 32

/-- Opens the step (R50, R335, R344, R360). -/
def Dev.openStep (d : Dev) : Dev :=
  let d1 := d.clearCounters
  let t := txnOf d.stepNo d.seed d.fencePeers
  let again := (d.peers.filter fun e => t.fence.contains e.1).findSome? fun e => e.2.abortAgain
  let d2 := d1.setCtl fun c => { c with txn := some { t with withdrawn := d.leftOut }, nextIota := [], written := [], deferred := none }
  let d3 : Dev := { d2 with rings := d2.rings.map fun e => (e.1, { e.2 with ended := false, removing := if e.1 = 0 then false else e.2.removing })
                            peers := d2.peers.map fun e => (e.1, { e.2 with abortStep := if e.2.abortAgain.isSome then t.step else 0, abortAgain := none }) }
  let d4 := if d3.ctl.state = 4 then d3.setState 5 else d3
  match again, d.ctl.deferred with
  | some c, _ => d4.raise 10 c.1
  | none, some c => d4.raise c.1 c.2
  | none, none => d4

/-- TXN_BEGIN at the head of the control ring (R401, R517). -/
def Dev.txnBeginHead (d : Dev) (x : Desc) : Dev :=
  let want := field x.bytes 16 8
  if !d.retryReady || !d.digestsAgree then d
  else if flagInput x.bytes then d.refuseHead 0 0x02
  else if want ≠ 0 ∧ want ≠ d.stepNo then d.refuseHead 0 0x10
  else ((d.refuseHead 0 0).setRing 0 fun r => { r with openAhead := true }).openStep

/-- TXN_BEGIN (R50, R401). -/
def execTxnBegin (s : State) : Host.Outcome State Fault Refusal :=
  nextD s fun d => d.issue 0 0x0B false d.txnBeginHead

/-- TXN_END at the head of a colony ring (R410): it starts, and completes when the step closes. -/
def execTxnEnd (ring : Nat) (s : State) : Host.Outcome State Fault Refusal :=
  nextD s fun d => d.issue ring 0x0C false fun x =>
    if flagInput x.bytes then d.refuseHead ring 0x02
    else
      let a := d.start ring x [] []
      ((a.2.setAct a.1.uid fun y => { y with hold := true }).setTxn fun t => { t with ends := t.ends ||| 2 ^ (ring - 1) }).setRing ring fun y => { y with ended := true }

/-! ### Settling and clean tokens (R337 to R341, R349, R360) -/

/-- TXN_END has executed on every colony ring that the pattern defines. -/
def Dev.allEnded (d : Dev) (t : Txn) : Bool :=
  match d.ctl.pattern with
  | some p => p.colonies.all fun c => t.ends.testBit c.1
  | none => false

/-- No duplicate check is unresolved (R337). -/
def Dev.checksDone (d : Dev) : Bool := d.tiles.all fun e => e.2.checks.isEmpty && e.2.overflowChecks.isEmpty

/-- The module is settled in the open step (R337). -/
def Dev.settled (d : Dev) : Bool :=
  match d.ctl.txn with
  | some t =>
    !t.aborted && d.allEnded t && (d.acts.all fun a => !d.ofStep a || kindOf a.bytes == 0x0C) && (d.ctl.buckets.all (·.complete)) &&
      d.checksDone && t.rrecv.isEmpty && t.rsent.isEmpty && !(t.used.any fun u => t.retracted.any fun r => r.1 == u.1)
  | none => false

/-- Inserts an entry behind every entry of a smaller or equal key. -/
def insertKey (x : Nat × List Byte) : List (Nat × List Byte) → List (Nat × List Byte)
  | [] => [x]
  | y :: ys => if x.1 < y.1 then x :: y :: ys else y :: insertKey x ys

/-- Entries in ascending key order (R212, R357). -/
def sortKeys (l : List (Nat × List Byte)) : List (List Byte) := (l.foldl (fun acc x => insertKey x acc) []).map (·.2)

/-- In a frog, each input entry's digest is that of the logged entry at the same place (R360, table Input entry). -/
def Dev.frogInputsOk (d : Dev) (t : Txn) : Bool :=
  if d.inFrog then
    let log := d.loggedBytes t.step
    (sortKeys t.inputs).zipIdx.all fun e => decide (e.2 < field log 100 4) && sub log (256 + 32 * e.2 + 16) 16 == sub e.1 16 16
  else true

/-- CLEAN_SEND (R211, R339): work that used a peer's data after its retraction is withdrawn; a settled module sends CLEAN to every fence
peer that has not departed, and is pledged. In a frog, inputs that differ from the logged ones abort the step first (R360). -/
def execCleanSend (s : State) : Host.Outcome State Fault Refusal :=
  nextD s fun d =>
    let d := d.withdrawUses
    match d.ctl.txn with
    | none => d
    | some t =>
      if !d.settled || t.settledOnce then d
      else if !d.frogInputsOk t then (d.raise 15).setCtl fun c => { c with frogTarget := 0 }
      else
        let gen := t.cleanGen
        let dom := match d.ctl.pattern with | some p => if p.anchor = d.ctl.address then d.ctl.domain else 0 | none => 0
        let d1 := d.setTxn fun t => { t with settledOnce := true, pledged := true, cleanGen := gen + 1 }
        (d.fenceHere t).foldl (fun d a =>
          d.send a 5 0x80 t.step (natLE 4 gen ++ natLE 1 d.ctl.llOwn ++ natLE 1 dom) []) d1

/-- CLEAN (R339): the newest generation from each peer is kept; messages of a peer arrive in the order it sent them. -/
def execClean (m : Rx) (s : State) : Host.Outcome State Fault Refusal :=
  nextD s fun d => d.accept 0x80 m true fun d =>
    d.setPeer m.src fun p =>
      if m.step = p.cleanStep ∧ m.par 24 4 ≤ p.cleanGen then p
      else { p with cleanStep := m.step, cleanGen := m.par 24 4, cleanOwn := m.par 28 1, cleanDom := m.par 29 1 }

/-- COMMITTING (R341, R343): a fence peer commits the step; a module that has aborted it is behind. -/
def execCommitting (m : Rx) (s : State) : Host.Outcome State Fault Refusal :=
  nextD s fun d => d.accept 0x81 m true fun d =>
    match d.ctl.txn with
    | none => d
    | some t =>
      if m.step ≠ t.step ∨ !t.fence.contains m.src then d
      else if t.aborted then d.fallBehind m.src m.step
      else d.setTxn fun t => { t with gotCommitting := true, committingH := m.par 29 1 }


/-! ### Quorum (R328, R329) -/

/-- Members that this module reaches: itself and the JOINED members without the STRANDED flag. -/
def Dev.reachable (d : Dev) : List Nat :=
  d.members'.filter fun a => a == d.ctl.address || ((d.peer a).state == 3 && !(d.peer a).stranded)

/-- The quorum rule (R328). -/
def Dev.quorum (d : Dev) : Bool :=
  let n := d.members'.length
  let r := d.reachable
  let anchor := match d.ctl.pattern with | some p => r.contains p.anchor | none => false
  decide (n < 2 * r.length) || (2 * r.length == n && anchor)

/-- FENCE_PEER_WAIT_EXPIRY (R341): the step aborts unless a COMMITTING lets the settled module commit with its quorum. -/
def execFencePeerWaitExpiry (s : State) : Host.Outcome State Fault Refusal :=
  nextD s fun d =>
    match d.ctl.txn with
    | some t => if !t.aborted && t.lostWait && !(t.gotCommitting && d.settled && d.quorum) then d.raise 9 else d
    | none => d

/-- STRANDED_REJOIN (R329). -/
def execStrandedRejoin (s : State) : Host.Outcome State Fault Refusal :=
  nextD s fun d =>
    if d.ctl.state = 8 ∧ d.quorum = true ∧ (d.reachable.all fun a => a == d.ctl.address || (d.peer a).committed == d.ctl.committed) = true then
      (d.setState 4).sendState
    else d

/-! ### The record of a step (R197, R298, R347, R348, R356, R357) -/

/-- procedure storm_update (R197). -/
def stormUpdate (units widened w l s n : Nat) : Nat × Nat :=
  let storm := decide (0 < units) && decide (units < widened * 2 ^ s)
  if storm && decide (w < 2) then (w + 1, n)
  else if storm then (2, n)
  else if w = 0 then (0, 0)
  else if 1 < l then (w, l - 1)
  else if 1 < w then (w - 1, n)
  else (0, 0)

/-- The storm state after a step's units and widened units, with a record for each layer in a storm (R197, R212; log entry 41). -/
def stormStep (step : Nat) (p : Policy) (storm : Tab (Nat × Nat)) (layers : Tab (Nat × Nat)) : Tab (Nat × Nat) × List (List Byte) :=
  (List.range 4096).foldl (fun (acc : Tab (Nat × Nat) × List (List Byte)) l =>
    let old := tget (0, 0) storm l
    let c := tget (0, 0) layers l
    let new := stormUpdate c.1 c.2 old.1 old.2 p.stormS p.stormSteps
    let rec' := if 0 < c.1 ∧ c.1 < c.2 * 2 ^ p.stormS then [repeatRecord step 0x12 0xFF 0xFF 0 0 l new.1 old.1 0 0 c.2 c.1] else []
    (if new = (0, 0) then acc.1 else acc.1 ++ [(l, new)], acc.2 ++ rec')) ([], [])

/-- The storm table of a lifeline image: 4,096 words (table Lifeline image). -/
def stormBytes (storm : Tab (Nat × Nat)) : List Byte :=
  ((List.range 4096).map fun l => let x := tget (0, 0) storm l; natLE 4 (x.1 + 2 ^ 16 * x.2)).flatten

/-- Owned epoch-buffered shards of the active bank, ascending. -/
def Dev.ownEpochShards (d : Dev) : List (Nat × Shard) :=
  (tget [] d.ctl.banks d.ctl.bank).filter fun e => e.2.valid && e.2.epoch && e.2.owner == d.ctl.address

/-- Whether a step wrote a granule that overlaps a range (R298). -/
def Dev.wroteRange (d : Dev) (a n : Nat) : Bool :=
  d.ctl.written.any fun w =>
    match d.regions[w.1]? with
    | some r => overlaps (a, n) (r.copy0 + 65536 * w.2, 65536)
    | none => false

/-- Versions rise at a commit (R298). -/
def Dev.bumpWritten (d : Dev) : Dev := d.ownEpochShards.foldl (fun d e => if d.wroteRange e.2.addr e.2.len then d.bump e.1 else d) d

/-- Colony part digest: each granule of a working copy that a colony wrote (R348). -/
def Dev.colonyDigest (d : Dev) : Nat :=
  (d.ctl.written.map fun w =>
    match d.regions[w.1]? with
    | some r =>
      if r.writer.nme then 0
      else itemHash (r.copy0 + 65536 * w.2) (d.readRange true (r.copy0 + 65536 * w.2) (min 65536 (r.len - 65536 * w.2))).1
    | none => 0).sum % 2 ^ 128

/-- Versions part digest (R348). -/
def Dev.versionsDigest (d : Dev) : Nat :=
  itemHash 0 (clean (d.ownEpochShards.map fun e => natLE 2 e.1 ++ natLE 8 e.2.version).flatten)

/-- A bucket entry of a record, with its runs field (table Bucket entry). -/
def bucketEntry (b : Bucket) (runs : Nat) : List Byte :=
  let p := b.pieces.headD (piece0 0 0)
  natLE 2 b.chain ++ natLE 2 b.bucket ++ natLE 4 p.sumP ++ natLE 4 runs ++ zeros 4 ++ natLE 16 b.resDigest ++ zeros 32 ++ maskBytes p.mask

/-- The buckets of a step in ascending chain and bucket (log entry 44). -/
def Dev.sortedBuckets (d : Dev) : List Bucket :=
  let keys := sortKeys (d.ctl.buckets.zipIdx.map fun b => (b.1.chain * 65536 + b.1.bucket, natLE 8 b.2))
  keys.filterMap fun k => d.ctl.buckets[leNat k]?

/-- What a record says of health and lifelines: H, own health, interval k, lifeline due, host tier due, committed in a frog. -/
structure Fixed where
  h : Nat
  own : Nat
  k : Nat
  due : Bool
  hostDue : Bool
  frog : Bool
deriving DecidableEq, Repr

/-- The replay record of a step (R347, R356) and its commit digest. -/
def Dev.record (d : Dev) (t : Txn) (f : Fixed) (colony : Nat) (storms : List (List Byte)) : List Byte × List Byte :=
  let inputs := (sortKeys t.inputs).flatten
  let tables := (sortKeys t.tables).flatten
  let reps := (sortKeys t.repeats).flatten ++ storms.flatten
  let bs := d.sortedBuckets
  let present := (((List.range d.policy.microBatches).filter fun m => !t.withdrawn.contains m).map fun m => 2 ^ m).sum
  let jobId := match d.ctl.pattern with | some p => p.jobId | none => 0
  let a := natLE 8 t.step ++ natLE 8 d.seed ++ natLE 8 jobId
  let digests := natLE 16 ((bs.map (·.resDigest)).sum) ++ natLE 16 ((bs.map (·.updDigest)).sum) ++ natLE 16 colony ++
    natLE 16 (itemHash 0 (clean (stormBytes d.ctl.storm))) ++ natLE 16 d.versionsDigest
  let digest := shake256 (a ++ natLE 32 present ++ digests ++ inputs ++ tables ++ (bs.map fun b => bucketEntry b 0).flatten ++ reps) 32
  let body := inputs ++ tables ++ (bs.map fun b => bucketEntry b b.runs).flatten ++ reps
  let len := (256 + body.length + 63) / 64 * 64
  let hdr := natLE 4 len ++ natLE 2 1 ++ natLE 2 (b2n f.due + 2 * b2n f.hostDue + 4 * b2n f.frog) ++ a ++ digest ++ natLE 32 present ++
    natLE 1 f.h ++ natLE 1 f.own ++ natLE 2 f.k ++ natLE 4 t.inputs.length ++ natLE 4 t.tables.length ++ natLE 4 bs.length ++
    natLE 4 (t.repeats.length + storms.length) ++ natLE 4 t.fence.length ++ zeros 8 ++ digests ++ zeros 48
  (padTo 64 (hdr ++ body), digest)

/-- CTL_RLOG_HEAD after a record that ends at `at'`: the base where the 256 bytes of a record's header do not fit before the end (R355,
R356). -/
def headAfter (at' size : Nat) : Nat := if size < at' + 256 then 0 else at'

/-- Where the next record of a ring goes: at the head, or at the base where it does not fit before the end (R355). -/
def placeRecord (head size len : Nat) : Nat := if size < head + len then 0 else head

/-- Writes a record into the replay log (R355); in a frog it takes the place of the logged one (log entry 42). -/
def Dev.writeRecord (d : Dev) (step : Nat) (bytes : List Byte) : Dev :=
  let ring := d.rlogRing
  let at' := match (if d.inFrog then d.logged step else none) with
    | some r => if r.2 = bytes.length then r.1 else placeRecord d.ctl.rlogHead ring.2 bytes.length
    | none => placeRecord d.ctl.rlogHead ring.2 bytes.length
  let d1 := d.writeAs .visible 0 (ring.1 + at') (clean bytes)
  d1.setCtl fun c =>
    { c with
      rlogHead := headAfter (at' + bytes.length) ring.2
      rlog := (c.rlog.filter fun r => !(r.1 == step) && !overlaps (at', bytes.length) r.2) ++ [(step, at', bytes.length)]
      mirrorQueue := c.mirrorQueue ++ [(at', bytes.length)] }

/-! ### The commit (R62, R340, R341, R349, R350) -/

/-- Whether the tokens of R340 and R341 allow the commit. -/
def Dev.tokens (d : Dev) (t : Txn) : Bool :=
  t.gotCommitting && t.lostWait || t.fence.all fun a => (d.peer a).cleanStep == t.step

/-- H of a step: from the anchor's own D, its CLEAN, or the COMMITTING used; 255 without an anchor among them (R349). -/
def Dev.healthOf (d : Dev) (t : Txn) : Nat :=
  match d.ctl.pattern with
  | none => 255
  | some p =>
    if p.anchor = d.ctl.address then d.ctl.domain
    else if !t.fence.contains p.anchor then 255
    else if (d.peer p.anchor).cleanStep = t.step then (d.peer p.anchor).cleanDom
    else if t.gotCommitting then t.committingH
    else 255

/-- D_s: the largest of the own health and of those in the clean tokens used (R349). -/
def Dev.domainOf (d : Dev) (t : Txn) (own : Nat) : Nat :=
  ((t.fence.filter fun a => (d.peer a).cleanStep == t.step).map fun a => (d.peer a).cleanOwn).foldl max own

/-- What the tables say of a commit (R350, R353). -/
def Dev.fixedOf (d : Dev) (t : Txn) (own : Nat) : Fixed :=
  let h := d.healthOf t
  let k := d.policy.riskTable.getD (h / 16) 1
  let due := t.step % k == 0
  ⟨h, own, k, due, due && d.policy.hostInterval != 0 && t.step % d.policy.hostInterval == 0, d.inFrog⟩

/-- What the close of a step clears (R191, R394, R402). -/
def Dev.closeStep (d : Dev) : Dev :=
  let d1 := d.setCtl fun c => { c with sems := [], nextSetup := [], buckets := [], routes := [], early := c.early.filter fun m => m.2.step != d.stepNo }
  { d1 with tableReads := [], tiles := d1.tiles.map (fun e => (e.1, { e.2 with remap := [] })), rings := d1.rings.map fun e => (e.1, { e.2 with ended := false }) }

/-- The TXN_END descriptors of the step complete (R410). -/
def Dev.endTxnEnds (d : Dev) (status detail : Nat) : Dev :=
  ((d.acts.filter fun a => kindOf a.bytes == 0x0C).map (·.uid)).foldl (fun d u => d.finish u status (some detail)) d

/-- Orders 4 to 7 of the table Closing a step: the merge buffers are emptied (R237), the copies forwarded, the record written; a replayed digest that differs stops before the flip (R47, R360). -/
def Dev.closeCommit (d : Dev) (t : Txn) (f : Fixed) : Dev :=
  let colony := d.colonyDigest
  let d1 := d.flushAll.copyForward.bumpWritten
  let st := stormStep t.step d1.policy d1.ctl.storm t.layers
  let d2 := d1.setCtl fun c => { c with storm := st.1 }
  let rec' := d2.record t f colony st.2
  if d.inFrog && sub (d.loggedBytes t.step) 32 32 != rec'.2 then ({ d1 with ctl := { d1.ctl with frogTarget := 0, banks := d.ctl.banks } }).enterFault
  else
    let d3 := st.2.foldl (fun d r => d.logEv 0 0x0012 0xFFFF r 0) d2
    let d4 := (d3.writeRecord t.step rec'.1).flip
    let d5 := (d4.logEv 0 0x0003 0xFFFF (natLE 1 f.h ++ natLE 1 f.own ++ natLE 2 f.k) 0).closeStep
    let d6 := d5.setCtl fun c => { c with committed := t.step, commitDigest := rec'.2, llHealth := f.h, llOwn := f.own, llInterval := f.k,
                                          domain := d.domainOf t f.own, txn := none }
    (match d6.commitAct with | some a => d6.finish a.uid 0 (some (t.step % 2 ^ 32)) | none => d6).endTxnEnds 0 0

/-- The module cannot commit on its side of a partition: the step aborts with cause partition, and it enters STRANDED (R328; log entry
40). -/
def Dev.partition (d : Dev) : Dev := (d.abortStep 8 0).strand

end Sys2Proof.Machine
end

