-- ==== Sys2Proof/Machine/Lifeline.lean ====
section
/-! DEFINITION. Lifeline.lean: lifeline images, their drains to the buddy and to the host, the images held for wards, restores, and
the replay-log mirror (R349 to R354, R358 to R363, R420). -/
namespace Sys2Proof.Machine
open Sys2Proof

/-! ### The image (R351) -/

/-- Offset of the region directory of an image, and of the region data behind a directory of `n` regions. -/
def imageDirectory : Nat := 540928
def imageData (n : Nat) : Nat := imageDirectory + 16 * n

/-- Length of a region in an image. -/
def padded (r : Region) : Nat := (r.len + 63) / 64 * 64

/-- Length of the image of a list of regions. -/
def imageLength (rs : List Region) : Nat := imageData rs.length + (rs.map padded).sum

/-- Offset in an image of the region data of region `i`. -/
def regionOffset (rs : List Region) (i : Nat) : Nat := imageData rs.length + ((rs.take i).map padded).sum

/-- The version table: 65,536 versions of the active bank. -/
def Dev.versionBytes (d : Dev) : List Byte := ((List.range 65536).map fun e => natLE 8 (d.shard e).version).flatten

/-- The region directory. -/
def Dev.directory (d : Dev) : List Byte := (d.regions.map fun r => natLE 8 r.copy0 ++ natLE 8 r.len).flatten

/-- The image behind its header: storm table, version table, directory, and the visible copy of every region. -/
def Dev.imageBody (d : Dev) : List PB × Dev :=
  d.regions.foldl (fun (acc : List PB × Dev) r =>
    let v := acc.2.read r.copy0 r.len
    (acc.1 ++ v.1 ++ clean (zeros (padded r - r.len)), v.2)) (clean (stormBytes d.ctl.storm ++ d.versionBytes ++ d.directory), d)

/-- The 256 bytes of an image header (table Lifeline image). -/
def Dev.imageHeader (d : Dev) (step flags health : Nat) (body : List PB) : List Byte :=
  natLE 8 step ++ natLE 8 (match d.ctl.pattern with | some p => p.jobId | none => 0) ++ sub d.ctl.digest 0 32 ++ natLE 8 d.ctl.moduleId ++
    natLE 2 d.ctl.address ++ natLE 1 flags ++ natLE 1 health ++ natLE 4 d.regions.length ++ natLE 8 (256 + body.length) ++
    shake256 (body.map (·.1)) 32 ++ sub d.ctl.commitDigest 0 32 ++ zeros 120

/-! ### Drains (R350, R352, R353, R63) -/

/-- Sends an image in LL_BEGIN, LL_DATA and LL_END messages of step L: the bytes from `lo` to `hi` of the image (R352, R359). -/
def Dev.sendImage (d : Dev) (rcv ward step uid : Nat) (header image : List PB) (lo hi len : Nat) : Dev :=
  let d1 := d.send rcv 4 0x90 step (natLE 2 ward) header (some uid)
  let d2 := (cuts (hi - lo)).foldl (fun d c =>
    d.send rcv 4 0x91 step (natLE 2 ward ++ zeros 6 ++ natLE 8 (lo + c.1)) ((image.drop (lo + c.1)).take c.2) (some uid)) d1
  d2.send rcv 4 0x92 step (natLE 2 ward ++ zeros 6 ++ natLE 8 len) ((header.drop 72).take 32) (some uid)

/-- Starts the buddy drain of the committed epoch; it ends at once where the buddy is not there (R352, R354). -/
def Dev.buddyDrain (d : Dev) (health : Nat) : Dev :=
  match d.buddy with
  | none => d
  | some b =>
    let v := d.imageBody
    let h := v.2.imageHeader v.2.ctl.committed 0 health v.1
    let x : Drain := ⟨false, d.ctl.committed, none, health, 0, v.2.nextUid, h⟩
    let d1 := ({ v.2 with nextUid := v.2.nextUid + 1 }).setCtl fun c => { c with drains := c.drains ++ [x] }
    if (d1.peer b).state ≠ 3 then d1.endDrain x false
    else
      let image := clean h ++ v.1
      d1.sendImage b d.ctl.address d.ctl.committed x.msgs (clean h) image 256 image.length image.length

/-- Starts the host drain of the committed epoch: the data first, the header when it ends. It is skipped, with its event, where the
window is zero or too small or the policy names no interval (R353; log entry 43). -/
def Dev.hostDrain (d : Dev) (health : Nat) (uid : Option Nat) : Dev :=
  let i := d.policy.hostInterval
  if i = 0 ∨ d.ctl.hostSlots = 0 ∨ d.ctl.hostSlotSize < imageLength d.regions then
    let d1 := d.logEv 0 0x0051 0xFFFF (natLE 8 d.ctl.committed) 0
    match uid with
    | some u => d1.finish u 0
    | none => d1
  else
    let slot := d.ctl.committed / i % d.ctl.hostSlots
    let at' := d.ctl.hostBase + slot * d.ctl.hostSlotSize
    let v := d.imageBody
    let x : Drain := ⟨true, d.ctl.committed, uid, health, at', 0, v.2.imageHeader v.2.ctl.committed 3 health v.1⟩
    let d1 := v.2.setCtl fun c => { c with drains := c.drains ++ [x] }
    if !d1.host.linkUp then d1.endDrain x false else d1.toHost (.write (at' + 256) v.1 true)

/-- Drains that fall due at a commit (order 8 of the table Closing a step). -/
def Dev.dueDrains (d : Dev) (f : Fixed) : Dev :=
  let d1 := if f.due then d.buddyDrain f.h else d
  if f.hostDue then d1.hostDrain f.h none else d1

/-- LIFELINE_DRAIN_END (R352, R353, R63): the buddy drain ends when every message of it is acknowledged; the host drain ends with its
header, once its data no longer wait. -/
def execLifelineDrainEnd (host : Bool) (s : State) : Host.Outcome State Fault Refusal :=
  nextD s fun d =>
    match d.ctl.drains.find? fun x => x.host == host with
    | none => d
    | some x =>
      if host then
        (if !d.hostReady || !d.host.waiting.isEmpty then d
         else (d.toHost (.write x.slotAddr (clean x.header) false)).endDrain x true)
      else if d.outstanding x.msgs then d
      else d.endDrain x true

/-- LIFELINE host drain at the control ring head (R353, R401, R63): it waits while a host drain runs. -/
def execLifelineHostDrain (s : State) : Host.Outcome State Fault Refusal :=
  nextD s fun d => d.issue 0 0x0E false fun x =>
    if byteAt x.bytes 16 ≠ 1 then d
    else if d.ctl.drains.any (·.host) then d
    else if flagInput x.bytes = true ∨ 1 < byteAt x.bytes 17 ∨ 1 < byteAt x.bytes 18 then d.refuseHead 0 0x02
    else
      let a := d.start 0 x [] []
      a.2.hostDrain d.ctl.llHealth (some a.1.uid)

/-! ### The mirror of the replay log (R358, R421) -/

/-- Whether a record of `len` bytes has room in the mirror: what the driver has not taken lies between the tail and the head. -/
def mirrorRoom (head tail size len : Nat) : Bool :=
  let used := (head % size + size - tail % size) % size
  let skip := if size < head + len then size - head else 0
  decide (used + skip + len < size)

/-- MIRROR_RECORD_COPY (R358): the oldest record not yet mirrored is copied or skipped; a skip is counted, with its event and its
interrupt. -/
def execMirrorRecordCopy (s : State) : Host.Outcome State Fault Refusal :=
  nextD s fun d =>
    match d.ctl.mirrorQueue with
    | [] => d
    | x :: rest =>
      let d1 := d.setCtl fun c => { c with mirrorQueue := rest }
      let v := d1.read (d.rlogRing.1 + x.1) x.2
      if d.ctl.mirrorSize = 0 ∨ d.host.linkUp = false ∨ mirrorRoom d.ctl.mirrorHead d.ctl.mirrorTail d.ctl.mirrorSize x.2 = false then
        ((d1.setCtl fun c => { c with rlogSkipped := satAdd 32 c.rlogSkipped 1 }).logEv 0 0x0051 0xFFFF ((v.1.drop 8).take 8 |>.map (·.1)) 0).irq 28
      else
        let at' := placeRecord d.ctl.mirrorHead d.ctl.mirrorSize x.2
        let d2 := v.2.toHost (.write (d.ctl.mirrorBase + at' + 256) (v.1.drop 256) true)
        (d2.toHost (.write (d.ctl.mirrorBase + at') (v.1.take 256) false)).setCtl fun c => { c with mirrorHead := headAfter (at' + x.2) d.ctl.mirrorSize }

/-! ### Images held for wards (R352, R359) -/

/-- The member record of a ward: a member whose buddy this module is. -/
def Dev.wardOf (d : Dev) (a : Nat) : Option Member :=
  match d.ctl.pattern with
  | some p => (p.members[a]?).filter fun m => m.buddy == d.ctl.address && a != d.ctl.address
  | none => none

/-- Writes into a lifeline region, which is plain memory of this module. -/
def Dev.putImage (d : Dev) (a : Nat) (bs : List PB) : Dev := d.writeAs .visible 0 a bs

/-- Replaces the record of a ward's drain. -/
def Dev.setWard (d : Dev) (w : Ward) : Dev := d.setCtl fun c => { c with wards := (c.wards.filter fun x => x.addr != w.addr) ++ [w] }

/-- A header whose complete flag has the value `on`. -/
def withComplete (on : Bool) (h : List PB) : List PB :=
  h.mapIdx fun i b => if i = 58 then (BitVec.ofNat 8 (b.1.toNat / 2 * 2 + b2n on), b.2) else b

/-- The header of a complete image of step L of a ward, and its region's base. -/
def Dev.heldImage (d : Dev) (ward step : Nat) : Option (Nat × List PB) :=
  match d.wardOf ward with
  | none => none
  | some m =>
    let h := (d.read m.llAddr 256).1
    let bs := h.map (·.1)
    if bitAt (byteAt bs 58) 0 && field bs 0 8 == step && !(h.any (·.2)) then some (m.llAddr, h) else none

/-- A ward's LL_BEGIN: the old image is invalid from here on. -/
def Dev.wardBegin (d : Dev) (m : Rx) : Dev :=
  match d.wardOf m.src with
  | some w => (d.putImage w.llAddr (withComplete false (m.body.take 256))).setWard ⟨m.src, w.llAddr, w.llLen, 256, m.poisoned⟩
  | none => d

/-- A ward's LL_DATA. -/
def Dev.wardData (d : Dev) (m : Rx) : Dev :=
  match d.ctl.wards.find? fun w => w.addr == m.src with
  | some w =>
    if w.len < m.par 32 8 + m.body.length then d.setWard { w with bad := true }
    else (d.putImage (w.base + m.par 32 8) m.body).setWard { w with received := m.par 32 8 + m.body.length }
  | none => d

/-- A ward's LL_END: the image is complete where the digest of the bytes received is the one carried; otherwise an event records it. -/
def Dev.wardEnd (d : Dev) (m : Rx) : Dev :=
  match d.ctl.wards.find? fun w => w.addr == m.src with
  | some w =>
    let len := m.par 32 8
    let body := d.read (w.base + 256) (len - 256)
    let ok := !w.bad && !m.poisoned && len == w.received && shake256 (body.1.map (·.1)) 32 == m.bytes
    let d1 := body.2.setCtl fun c => { c with wards := c.wards.filter fun x => x.addr != m.src }
    if ok then
      let h := d1.read w.base 256
      h.2.putImage w.base (withComplete true h.1)
    else d1.logEv 0 0x0052 m.src (natLE 8 m.step ++ natLE 1 0) 0
  | none => d

/-! ### Restores (R359, R360, R47) -/

/-- The newest step of the replay log. -/
def Dev.newestLogged (d : Dev) : Nat := (d.ctl.rlog.map (·.1)).foldl max 0

/-- Whether an image is the one a restore of step L asks for (order 3 of the table Restore). -/
def Dev.imageOk (d : Dev) (step : Nat) (image : List PB) : Bool :=
  let bs := image.map (·.1)
  let job := match d.ctl.pattern with | some p => p.jobId | none => 0
  field bs 0 8 == step && field bs 8 8 == job && sub bs 16 32 == sub d.ctl.digest 0 32 && field bs 48 8 == d.ctl.moduleId &&
    field bs 56 2 == d.ctl.address && bitAt (byteAt bs 58) 0 && field bs 64 8 == image.length && decide (image.length = imageLength d.regions) &&
    sub bs 72 32 == shake256 (bs.drop 256) 32 && !((image.take (imageData d.regions.length)).any (·.2))

/-- Writes the region data of an image into the working copies. -/
def Dev.writeImage (d : Dev) (image : List PB) : Dev :=
  d.regions.zipIdx.foldl (fun d r => d.writeAs .working 0 r.1.copy0 ((image.drop (regionOffset d.regions r.2)).take r.1.len)) d

/-- The storm table of an image. -/
def stormOf (image : List Byte) : Tab (Nat × Nat) :=
  (List.range 4096).filterMap fun l =>
    let w := field image (256 + 4 * l) 4
    if w % 4 = 0 ∧ w / 65536 = 0 then none else some (l, (w % 4, w / 65536))

/-- The versions of the epoch-buffered shards this module owns, as in an image. -/
def Dev.takeVersions (d : Dev) (image : List Byte) : Dev :=
  d.ownEpochShards.foldl (fun d e => d.setShard d.ctl.bank e.1 fun x => { x with version := field image (16640 + 8 * e.1) 8 }) d

/-- The replay log after a restore to step L: kept and followed in verify mode, cut behind L's record in plain mode. -/
def Dev.logAfter (d : Dev) (step : Nat) (plain : Bool) : Dev :=
  if plain then
    d.setCtl fun c =>
      { c with frogTarget := 0, rlog := c.rlog.filter fun r => decide (r.1 ≤ step)
               rlogHead := match d.logged step with | some r => headAfter (r.1 + r.2) d.rlogRing.2 | none => c.rlogHead }
  else d.setCtl fun c => { c with frogTarget := if (d.logged (step + 1)).isSome then d.newestLogged else 0 }

/-- A restore that fails: nothing visible changes. -/
def Dev.restoreFails (d : Dev) (uid step : Nat) : Dev :=
  ((d.setCtl fun c => { c with restore := none, written := [] }).lifelineEnded step false).finish uid 0x12

/-- Orders 2 to 6 of the table Restore, once the image's last byte is there. -/
def Dev.restoreDone (d : Dev) (uid : Nat) (image : List PB) : Dev :=
  match d.act uid with
  | none => d
  | some a =>
    let step := field a.bytes 24 8
    if d.imageOk step image then
      let bs := image.map (·.1)
      let d1 := (d.setCtl fun c => { c with restore := none, written := [] }).writeImage image
      let d2 := (d1.takeVersions bs).logAfter step (byteAt a.bytes 18 == 1)
      let d3 := d2.flip.setCtl fun c => { c with storm := stormOf bs, committed := step, commitDigest := sub bs 104 32 }
      (d3.lifelineEnded step true).finish uid 0
    else d.restoreFails uid step

/-- Bytes of one read of a host slot. -/
def hostReadSize : Nat := 4096

/-- Asks the host for the next bytes of a slot. -/
def Dev.askHost (d : Dev) (uid addr off total : Nat) : Dev :=
  let n := min hostReadSize (total - off)
  let tag := d.host.nextTag
  (d.setHost fun h => { h with nextTag := (tag + 1) % 1024, reads := h.reads ++ [⟨tag, 0, uid, off, n⟩] }).toHost (.read tag (addr + off) n)

/-- LIFELINE restore at the control ring head (R359, R354): it waits for drains to end. -/
def execLifelineRestore (s : State) : Host.Outcome State Fault Refusal :=
  nextD s fun d => d.issue 0 0x0E false fun x =>
    let b := x.bytes
    if byteAt b 16 = 1 then d
    else if !d.ctl.drains.isEmpty then d
    else if byteAt b 16 ≠ 0 ∨ flagInput b = true ∨ 1 < byteAt b 17 ∨ 1 < byteAt b 18 then d.refuseHead 0 0x02
    else
      let a := d.start 0 x [] []
      let d1 := a.2.setCtl fun c => { c with restore := some (a.1.uid, [], false) }
      if byteAt b 17 = 1 then d1.askHost a.1.uid (field b 32 8) 0 (imageLength d.regions)
      else
        match d1.buddy with
        | some y =>
          if (d1.peer y).state = 3 then d1.send y 4 0x93 (field b 24 8) (natLE 2 d.ctl.address ++ zeros 6 ++ natLE 8 0 ++ natLE 8 0) [] (some a.1.uid)
          else d1.restoreFails a.1.uid (field b 24 8)
        | none => d1.restoreFails a.1.uid (field b 24 8)

/-- The restore under way, where it reads from the buddy and the message is for it. -/
def Dev.fetching (d : Dev) (m : Rx) : Option (Nat × List PB) :=
  match d.ctl.restore with
  | some r => if !d.restoreHost && d.buddy == some m.src && m.par 24 2 == d.ctl.address then some (r.1, r.2.1) else none
  | none => none

/-- Keeps the bytes of a restore. -/
def Dev.keepImage (d : Dev) (uid : Nat) (bs : List PB) : Dev := d.setCtl fun c => { c with restore := some (uid, bs, false) }

/-- LL_BEGIN (R352, R359): the header of a ward's drain, or of the image asked for. -/
def execLlBegin (m : Rx) (s : State) : Host.Outcome State Fault Refusal :=
  nextD s fun d => d.accept 0x90 m true fun d =>
    match d.fetching m with
    | some r => d.keepImage r.1 (m.body.take 256)
    | none => if m.par 24 2 = m.src then d.wardBegin m else d

/-- LL_DATA (R352, R359). -/
def execLlData (m : Rx) (s : State) : Host.Outcome State Fault Refusal :=
  nextD s fun d => d.accept 0x91 m true fun d =>
    match d.fetching m with
    | some r => if m.par 32 8 = r.2.length then d.keepImage r.1 (r.2 ++ m.body) else d
    | none => if m.par 24 2 = m.src then d.wardData m else d

/-- LL_END (R352, R359). -/
def execLlEnd (m : Rx) (s : State) : Host.Outcome State Fault Refusal :=
  nextD s fun d => d.accept 0x92 m true fun d =>
    match d.fetching m with
    | some r =>
      if m.poisoned || m.par 32 8 != r.2.length || m.bytes != ((r.2.drop 72).take 32).map (·.1) then
        d.restoreFails r.1 m.step
      else d.restoreDone r.1 r.2
    | none => if m.par 24 2 = m.src then d.wardEnd m else d

/-- LL_FETCH (R359): answered with the image of the ward named, whole or the part asked for, or with LL_NONE. -/
def execLlFetch (m : Rx) (s : State) : Host.Outcome State Fault Refusal :=
  nextD s fun d => d.accept 0x93 m true fun d =>
    let ward := m.par 24 2
    match d.heldImage ward m.step with
    | none => d.send m.src 4 0x94 m.step (natLE 2 ward) []
    | some (base, h) =>
      let len := field (h.map (·.1)) 64 8
      let whole := m.par 40 8 = 0
      let lo := if whole then 256 else min len (m.par 32 8)
      let hi := if whole then len else min len (m.par 32 8 + m.par 40 8)
      let v := d.read base len
      ({ v.2 with nextUid := v.2.nextUid + 1 }).sendImage m.src ward m.step v.2.nextUid h v.1 lo hi len

/-- LL_NONE (R359): the restore ends with no complete image. -/
def execLlNone (m : Rx) (s : State) : Host.Outcome State Fault Refusal :=
  nextD s fun d => d.accept 0x94 m true fun d =>
    match d.fetching m with
    | some r => d.restoreFails r.1 m.step
    | none => d

/-! ### Module reads over PCI Express (R420, R428) -/

/-- A read whose bytes did not arrive, or arrived poisoned: the restore it serves ends (R420). -/
def Dev.readLost (d : Dev) (r : HostRead) : Dev :=
  match d.act r.uid with
  | some a => d.restoreFails r.uid (field a.bytes 24 8)
  | none => d

/-- Takes an outstanding read off the list. -/
def Dev.takeRead (d : Dev) (tag : Nat) : Option HostRead × Dev :=
  let t := takeFirst (fun (r : HostRead) => r.tag == tag) d.host.reads
  (t.1, d.setHost fun h => { h with reads := t.2 })

/-- MODULE_READ_COMPLETION (R413, R420): bytes of a restore's read, in one or more completions; once the read is whole the next one follows, or
the restore is checked. A completion that carries no data, or more than the read still waits for, ends the restore, as does one that is
poisoned or fails its IDE check (R429); a malformed one is dropped, and the read runs into its timeout. -/
def execModuleReadCompletion (tag : Nat) (bytes : List Byte) (tlp : Tlp) (s : State) : Host.Outcome State Fault Refusal :=
  nextD s fun d =>
    if !d.host.linkUp then d
    else if tlp == .malformed then d.aer aerMalformed 0
    else match d.takeRead tag with
    | (none, _) => if tlp == .ide then d.aer aerIde 0 else d.aerAdvisory aerUnexpected 0
    | (some r, d1) =>
      if tlp != .good then (d1.aer (if tlp == .ide then aerIde else aerPoisoned) 0).readLost r
      else if bytes.isEmpty || decide (r.len < bytes.length) then d1.readLost r
      else
        match d1.ctl.restore, d1.act r.uid with
        | some x, some a =>
          let have' := x.2.1 ++ clean bytes
          let total := imageLength d1.regions
          if bytes.length < r.len then
            (d1.keepImage r.uid have').setHost fun h => { h with reads := { r with off := r.off + bytes.length, len := r.len - bytes.length } :: h.reads }
          else if have'.length < total then (d1.keepImage r.uid have').askHost r.uid (field a.bytes 32 8) have'.length total
          else d1.restoreDone r.uid have'
        | _, _ => d1

/-- COMPLETION_TIMEOUT (R420, R428): no timeout runs while requests wait. -/
def execCompletionTimeout (tag : Nat) (s : State) : Host.Outcome State Fault Refusal :=
  nextD s fun d =>
    if !d.host.busMaster || d.host.d3hot then d
    else
      match d.takeRead tag with
      | (none, _) => d
      | (some r, d1) => (d1.aer aerTimeout 0).readLost r

end Sys2Proof.Machine
end

