-- ==== Sys2Proof/Machine/Container.lean ====
section
/-! DEFINITION. Container.lean: pattern containers: header, directory and sections, read and checked under R365 to R377 with the status
codes of R379. -/
namespace Sys2Proof.Machine
open Sys2Proof

/-- A refusal: its code of the table Pattern status codes, the section type and the byte offset at fault. -/
structure PatErr where
  code : Nat
  sec : Nat
  off : Nat
deriving DecidableEq, Repr

/-- Refuses unless a condition holds. -/
def need (ok : Bool) (code sec off : Nat) : Except PatErr Unit := if ok then .ok () else .error ⟨code, sec, off⟩

/-- Refuses with BAD_VALUE at the first condition that does not hold. -/
def needAll (sec base : Nat) (l : List (Bool × Nat)) : Except PatErr Unit :=
  match l.find? fun x => !x.1 with
  | some x => .error ⟨0x08, sec, base + x.2⟩
  | none => .ok ()

/-- Runs a check for every number below n, in order. -/
def eachBelow : Nat → (Nat → Except PatErr Unit) → Except PatErr Unit
  | 0, _ => .ok ()
  | n + 1, f => match eachBelow n f with | .error e => .error e | .ok _ => f n

/-- Builds a list with a value for every number below n, in order. -/
def listBelow {α : Type} : Nat → (Nat → Except PatErr α) → Except PatErr (List α)
  | 0, _ => .ok []
  | n + 1, f =>
    match listBelow n f with
    | .error e => .error e
    | .ok l => match f n with | .error e => .error e | .ok a => .ok (l ++ [a])

/-! ### Header and directory (R365, R366) -/

/-- The fields of a container header. -/
structure Header where
  kind : Nat
  sections : Nat
  length : Nat
  jobId : Nat
  jobSeed : Nat
  base : List Byte
deriving DecidableEq, Repr

/-- The largest container. -/
def maxContainer : Nat := 268435456

/-- Reads and checks a header in the order of table Load order 2. -/
def parseHeader (kinds : List Nat) (rev : Nat) (h : List Byte) : Except PatErr Header :=
  let n := byteAt h 7
  let rsv := ([98, 99] ++ (List.range 152).map (· + 104)).find? fun i => byteAt h i != 0
  let x : Header := ⟨byteAt h 6, n, field h 8 8, field h 16 8, field h 24 8, sub h 32 64⟩
  if field h 0 4 ≠ 0x54504E45 then .error ⟨0x01, 0, 0⟩
  else if field h 4 2 ≠ 1 then .error ⟨0x01, 0, 4⟩
  else if kinds.contains x.kind = false then .error ⟨0x01, 0, 6⟩
  else if n = 0 ∨ 9 < n then .error ⟨0x01, 0, 7⟩
  else if x.kind = 0 ∧ leNat x.base ≠ 0 then .error ⟨0x01, 0, 32⟩
  else if rsv.isSome then .error ⟨0x01, 0, rsv.getD 0⟩
  else if maxContainer < x.length ∨ x.length < 256 + 16 * n then .error ⟨0x02, 0, 8⟩
  else if field h 96 2 ≠ 0x4E47 then .error ⟨0x03, 0, 0⟩
  else if rev < field h 100 4 then .error ⟨0x04, 0, 0⟩
  else if x.jobId = 0 then .error ⟨0x01, 0, 16⟩
  else .ok x

/-- Section types (table Section types). -/
def sectTypes : List Nat := [1, 2, 3, 4, 5, 6, 7, 8, 15]

/-- Reads the directory entries from entry i on; `last` and `pos` are the type and the end of the section before. -/
def parseEntries (c : List Byte) (length : Nat) : Nat → Nat → Nat → Nat → Except PatErr (Tab Sect)
  | 0, _, _, _ => .ok []
  | k + 1, i, last, pos =>
    let a := 256 + 16 * i
    let t := byteAt c a
    let off := field c (a + 8) 4
    let len := field c (a + 12) 4
    if sectTypes.contains t = false ∨ t ≤ last ∨ off % 64 ≠ 0 ∨ off < pos then .error ⟨0x07, t, a⟩
    else if length < off + len then .error ⟨0x02, t, a⟩
    else
      match parseEntries c length k (i + 1) t (off + len) with
      | .error e => .error e
      | .ok rest => .ok ((t, ⟨field c (a + 4) 4, off, (c.drop off).take len⟩) :: rest)

/-- The directory with the signature section present, last, of its size and ending at length (R366, R367). -/
def parseDirectory (c : List Byte) (h : Header) : Except PatErr (Tab Sect) :=
  match parseEntries c h.length h.sections 0 0 (256 + 16 * h.sections) with
  | .error e => .error e
  | .ok l =>
    match tlook l 15 with
    | none => .error ⟨0x07, 15, 0⟩
    | some s => if s.off + s.bytes.length = h.length ∧ s.bytes.length = 29856 then .ok l else .error ⟨0x07, 15, s.off⟩

/-! ### Tile map and colonies (R369, R370, R20, R25) -/

/-- A section that must be there, with at least its records' bytes. -/
def sectionAt (l : Tab Sect) (t : Nat) : Except PatErr Sect := match tlook l t with | some s => .ok s | none => .error ⟨0x07, t, 0⟩

/-- A section of `n` records of `z` bytes. -/
def fixedSection (l : Tab Sect) (t n z : Nat) : Except PatErr Sect :=
  match sectionAt l t with
  | .error e => .error e
  | .ok s => if s.count = n ∧ n * z ≤ s.bytes.length then .ok s else .error ⟨0x07, t, s.off⟩

/-- The tile map (R369); the colony byte is checked with the colonies. -/
def parseTiles (s : Sect) : Except PatErr (List TileBind) := do
  let phys := (List.range 96).map fun l => byteAt s.bytes (4 * l)
  eachBelow 96 fun l => needAll 1 (s.off + 4 * l)
    [(byteAt s.bytes (4 * l) / 26 == l / 24, 0), (!(phys.take l).contains (byteAt s.bytes (4 * l)), 0)]
  eachBelow 96 fun l => needAll 1 (s.off + 4 * l)
    [(byteAt s.bytes (4 * l + 1) / 26 == l / 24 && !phys.contains (byteAt s.bytes (4 * l + 1)), 1)]
  return (List.range 96).map fun l =>
    ⟨byteAt s.bytes (4 * l), byteAt s.bytes (4 * l + 1), if byteAt s.bytes (4 * l + 2) = 0xFF then none else some (byteAt s.bytes (4 * l + 2))⟩

/-- The defined colonies with their profile and graph counts (R370). -/
def parseColonies (s : Sect) (tiles : List TileBind) (mapOff : Nat) : Except PatErr (Tab (Nat × Nat)) := do
  let on (k : Nat) : Bool := bitAt (byteAt s.bytes (16 * k + 1)) 0
  eachBelow 8 fun k =>
    let b := (s.bytes.drop (16 * k)).take 16
    needAll 2 (s.off + 16 * k)
      [(byteAt b 0 == k, 0), (!on k || tiles.any (fun t => t.colony == some k), 1), (!on k || byteAt b 2 != 0, 2), (!on k || decide (byteAt b 3 ≤ 64), 3)]
  needAll 2 s.off [((List.range 8).any on, 0)]
  eachBelow 96 fun l => needAll 1 (mapOff + 4 * l)
    [(match (tiles[l]?).bind (·.colony) with | some k => decide (k < 8) && on k | none => true, 2)]
  return ((List.range 8).filter on).map fun k => (k, byteAt s.bytes (16 * k + 2), byteAt s.bytes (16 * k + 3))

/-! ### Cast profiles (R99, R134, R373, R83, R91) -/

/-- The conditions on a profile record, with the offset of each field. -/
def profileChecks (b : List Byte) (cols : Tab (Nat × Nat)) : List (Bool × Nat) :=
  let t := byteAt b 2
  let wide := t == 1 || t == 4 || t == 6
  let l4 := (List.range 16).map fun i => decodeF .b16 (field b (32 + 2 * i) 2)
  [((tlook cols (byteAt b 0)).isSome, 0),
   (decide (byteAt b 1 < (tget (0, 0) cols (byteAt b 0)).1), 1),
   (decide (1 ≤ t) && decide (t ≤ 7), 2),
   (byteAt b 3 == 2 || byteAt b 3 == 3, 3),
   (decide (byteAt b 5 ≤ 4), 5),
   (decide (byteAt b 6 ≤ 4), 6),
   (decide (byteAt b 7 ≤ 5) && (wide || byteAt b 7 == 0), 7),
   (decide (byteAt b 8 ≤ 7) && (wide || byteAt b 8 == 0), 8),
   (decide (1 ≤ byteAt b 9) && decide (byteAt b 9 ≤ 8), 9),
   (decide (-126 ≤ sext 8 (byteAt b 10)), 10),
   (decide (byteAt b 11 ≤ 2) && !(t == 6 && byteAt b 11 == 2), 11),
   (decide (byteAt b 12 ≤ 2) && !((wide || t == 5) && byteAt b 12 == 2), 12),
   (decide (byteAt b 13 ≤ 1), 13),
   (decide (field b 16 2 ≤ 4095) || field b 16 2 == 0xFFFF, 16),
   (t != 6 || (l4.all (·.finite) && l4.any fun x => x.rat != 0), 32)]

/-- The profile that a record holds. -/
def readProfile (b : List Byte) : Profile :=
  let f := byteAt b 4
  { target := (Target.ofCode (byteAt b 2)).getD .b16, fallback := if byteAt b 3 = 3 then .f8e5 else .f8e4,
    scaleUnit := bitAt f 0, scaleNearest := bitAt f 1, symmetric := bitAt f 2, rotJob := bitAt f 3, satStrict := bitAt f 4,
    compensated := bitAt f 5, rescale := bitAt f 6, outPair := bitAt f 7,
    clip8 := 8 - byteAt b 5, rotN := if byteAt b 6 = 0 then 0 else 2 ^ (byteAt b 6 + 3), theta := if byteAt b 7 = 0 then 0 else 2 ^ (byteAt b 7 + 1),
    budget := if byteAt b 8 = 0 then 0 else 2 ^ (byteAt b 8 + 3), runBlocks := byteAt b 9, outScaleExp := sext 8 (byteAt b 10),
    rounding := byteAt b 11, overflow := byteAt b 12, outSR := byteAt b 13 == 1, satLimit := field b 14 2,
    crushLimit := if field b 16 2 = 0xFFFF then none else some (field b 16 2),
    l4 := (List.range 16).map fun i => field b (32 + 2 * i) 2 }

/-- A record of a colony's profile or graph: its colony, its index and what it holds. -/
abbrev Rec (α : Type) := (Nat × Nat) × α

/-- Two records of one colony and index. -/
def repeated {α : Type} (l : List (Rec α)) (x : Rec α) : Bool := l.any fun y => y.1 == x.1

/-- The profiles of a section (R370, R373). -/
def parseProfiles (s : Sect) (cols : Tab (Nat × Nat)) : Except PatErr (List (Rec Profile)) := do
  need (s.count == (cols.map fun c => c.2.1).sum && decide (64 * s.count ≤ s.bytes.length)) 0x07 5 s.off
  let at' (i : Nat) : List Byte := (s.bytes.drop (64 * i)).take 64
  let name (i : Nat) : Nat × Nat := (byteAt (at' i) 0, byteAt (at' i) 1)
  eachBelow s.count fun i => needAll 5 (s.off + 64 * i)
    (profileChecks (at' i) cols ++ [(!((List.range i).map name).contains (name i), 1)])
  return (List.range s.count).map fun i => (name i, readProfile (at' i))

/-! ### Stream graphs (R166, R167, R374) -/

/-- The stage that a 16-byte record holds. -/
def readStage (b : List Byte) : Stage :=
  let m := byteAt b 4
  ⟨byteAt b 0, byteAt b 1, byteAt b 2, byteAt b 3, bitAt m 0, bitAt m 1, bitAt m 2, byteAt b 5, byteAt b 6, byteAt b 7, sext 32 (field b 8 4)⟩

/-- The graph that a record holds. -/
def readGraph (b : List Byte) : Graph :=
  ⟨(List.range 5).map fun q => byteAt b (4 + q), byteAt b 9, bitAt (byteAt b 10) 0, bitAt (byteAt b 10) 1, byteAt b 11, byteAt b 12, byteAt b 13,
   (List.range 8).map fun i => field b (32 + 4 * i) 4, (List.range (byteAt b 2)).map fun i => readStage ((b.drop (64 + 16 * i)).take 16)⟩

/-- Whether the source of a selector is int32, for stage s; none where there is no such source (table Stage input selectors). -/
def selInt (g : Graph) (s sel : Nat) : Option Bool :=
  if sel < 32 then
    (if sel < s then (match g.stages[sel]? with | some st => if opTerminal st.op then none else some (opOutInt st.op) | none => none) else none)
  else if 0x40 ≤ sel ∧ sel ≤ 0x44 then
    (let k := g.readFmts.getD (sel - 0x40) 0xFF; if k = 0xFF then none else some (portInt k))
  else if sel = 0x48 then (if g.rowUsed then some (portInt g.rowFmt) else none)
  else if sel = 0x49 then (if g.colUsed then some (portInt g.colFmt) else none)
  else if 0x50 ≤ sel ∧ sel ≤ 0x57 then some (bitAt g.constInt (sel - 0x50))
  else none

/-- The selectors a stage uses. -/
def Stage.inputs (st : Stage) : List Nat := [st.inA, st.inB, st.inC].take (opArity st.op)

/-- The element format that a reduction writes (R167). -/
def reduceFormat (op : Nat) : Nat := if op = 0x42 ∨ op = 0x43 then 0x00 else if op = 0x44 then 0x12 else 0x01

/-- The conditions on stage s of a graph, with the offset of each field in its record. A stage may name any of write ports 0 to 3: no rule
relates them to byte 9 of the header (log entry 153). -/
def stageChecks (g : Graph) (profiles s : Nat) (st : Stage) : List (Bool × Nat) :=
  let term := opTerminal st.op
  let red := decide (0x40 ≤ st.op) && decide (st.op ≤ 0x45)
  [(opKnown st.op, 0)] ++
  st.inputs.zipIdx.map (fun x =>
    (match selInt g s x.1 with
     | some t => (match opInInt st.op x.2 with | some w => t == w | none => true)
     | none => false, 1 + x.2)) ++
  [(!term || decide (st.port ≤ 3), 5),
   (st.op != 0x50 || portFmtOk st.format, 6),
   (!red || st.format == reduceFormat st.op, 6),
   (st.op != 0x51 || (decide (st.profile < profiles) && !((g.stages.take s).any fun x => x.op == 0x51)), 7),
   (st.op != 0x13 || (decide (-255 ≤ st.imm) && decide (st.imm ≤ 255)), 8),
   (st.op != 0x39 || (decide (0 ≤ st.imm) && decide (st.imm ≤ 65536)), 8),
   (term || g.stages.any fun x => x.inputs.contains s, 0)]

/-- The conditions on a graph's header. -/
def graphChecks (b : List Byte) (cols : Tab (Nat × Nat)) : List (Bool × Nat) :=
  let g := readGraph b
  [((tlook cols (byteAt b 0)).isSome, 0),
   (decide (byteAt b 1 < (tget (0, 0) cols (byteAt b 0)).2), 1),
   (decide (1 ≤ byteAt b 2) && decide (byteAt b 2 ≤ 32), 2)] ++
  g.readFmts.zipIdx.map (fun x => (portFmtOk x.1 || x.1 == 0xFF || (x.2 == 0 && x.1 == 0xFE), 4 + x.2)) ++
  [(decide (g.writePorts ≤ 3), 9), (if g.rowUsed then portFmtOk g.rowFmt else g.rowFmt == 0, 12),
   (if g.colUsed then portFmtOk g.colFmt else g.colFmt == 0, 13)]

/-- Bytes of a graph record. -/
def graphBytes (b : List Byte) : Nat := 64 + 16 * byteAt b 2

/-- The graphs of a section from byte `pos` on, after the records `seen`. -/
def parseGraphRecs (off : Nat) (bytes : List Byte) (cols : Tab (Nat × Nat)) : Nat → Nat → List (Rec Graph) → Except PatErr (List (Rec Graph))
  | 0, _, seen => .ok seen
  | k + 1, pos, seen => do
    let b := bytes.drop pos
    need (decide (64 ≤ b.length) && decide (graphBytes b ≤ b.length)) 0x07 6 (off + pos)
    needAll 6 (off + pos) (graphChecks b cols)
    let g := readGraph b
    eachBelow g.stages.length fun s =>
      match g.stages[s]? with
      | some st => needAll 6 (off + pos + 64 + 16 * s) (stageChecks g (tget (0, 0) cols (byteAt b 0)).1 s st)
      | none => .ok ()
    let x : Rec Graph := ((byteAt b 0, byteAt b 1), g)
    needAll 6 (off + pos) [(!repeated seen x, 1)]
    parseGraphRecs off bytes cols k (pos + graphBytes b) (seen ++ [x])

/-- The graphs of a pattern (R166, R370); the section may be absent. -/
def parseGraphs (s : Option Sect) (cols : Tab (Nat × Nat)) : Except PatErr (List (Rec Graph)) :=
  let want := (cols.map fun c => c.2.2).sum
  match s with
  | none => if want = 0 then .ok [] else .error ⟨0x07, 6, 0⟩
  | some s => if s.count = want then parseGraphRecs s.off s.bytes cols want 0 [] else .error ⟨0x07, 6, s.off⟩

/-- The records of a colony, by index. -/
def ofColony {α : Type} (l : List (Rec α)) (k : Nat) : Tab α := (l.filter fun x => x.1.1 == k).foldl (fun t x => tset t x.1.2 x.2) []

/-! ### Partitions and memory plan (R371, R372, R189, R225) -/

/-- End of the stack memory that requests reach. -/
def stackTop : Nat := 0x8FE0000000

/-- Partition records; the finished-tile area comes from the colony's largest record (R371). -/
def parseParts (s : Sect) (tiles : List TileBind) (cols : Tab Colony) : Except PatErr (List Partition) :=
  listBelow 96 fun l => do
    let b := (s.bytes.drop (32 * l)).take 32
    let area := match (tiles[l]?).bind (·.colony) with | some k => (match tlook cols k with | some c => ceilDiv (4 * colonyRecord c) 65536 | none => 0) | none => 0
    let size := field b 2 2
    let head := field b 4 2
    let base := field b 8 8
    let len := field b 16 8
    needAll 3 (s.off + 32 * l)
      [(byteAt b 0 == l, 0), (decide (16 ≤ size) && decide (size ≤ 64), 2), (decide (6 ≤ head), 4), (decide (8 + area + head ≤ size), 2),
       (base % 65536 == 0 && decide (base + len ≤ stackTop), 8), (decide (7 * size * 65536 ≤ 2 * len), 16)]
    return ⟨size, head, base, len, area⟩

/-- A range in stack memory or in the scratchpad part of one slice (R222, R372). -/
def plannable (cache : List Nat) (a n : Nat) : Bool :=
  decide (a + n ≤ stackTop) ||
    (decide (0xA000000000 ≤ a) && decide (a < 0xA080000000) &&
      decide (a % 0x10000000 + n ≤ (8 - cache.getD ((a - 0xA000000000) / 0x10000000) 0) * 0x2000000))

/-- What a memory plan holds. -/
structure MemPlan where
  cache : List Nat
  rlogBase : Nat
  rlogSize : Nat
  regions : List Region
deriving DecidableEq, Repr

/-- The memory plan (R372, R355). -/
def parsePlan (s : Sect) (cols : Tab (Nat × Nat)) : Except PatErr MemPlan := do
  let b := s.bytes
  need (decide (64 ≤ b.length)) 0x07 4 s.off
  let cache := (List.range 8).map (byteAt b)
  eachBelow 8 fun m => needAll 4 s.off [(decide (byteAt b m ≤ 8), m)]
  let base := field b 8 8
  let size := field b 16 8
  let n := field b 24 4
  needAll 4 s.off
    [(base % 65536 == 0 && decide (base + size ≤ stackTop), 8),
     (size % 67108864 == 0 && decide (67108864 ≤ size) && decide (size ≤ 17179869184), 16),
     (decide (n ≤ 4096), 24)]
  need (decide (64 + 32 * n ≤ b.length)) 0x07 4 s.off
  let regions ← listBelow n fun i => do
    let r := (b.drop (64 + 32 * i)).take 32
    let len := field r 16 8
    needAll 4 (s.off + 64 + 32 * i)
      [(field r 0 8 % 65536 == 0 && plannable cache (field r 0 8) len, 0), (field r 8 8 % 65536 == 0 && plannable cache (field r 8 8) len, 8),
       (len % 65536 == 0, 16), (decide (byteAt r 24 ≤ 1), 24), ((tlook cols (byteAt r 25)).isSome, 25)]
    return (⟨field r 0 8, field r 8 8, len, ⟨byteAt r 24 == 1, byteAt r 25⟩⟩ : Region)
  return ⟨cache, base, size, regions⟩

/-- A planned range: base, length, and the section and offset that name it. -/
structure Planned where
  base : Nat
  len : Nat
  sec : Nat
  off : Nat
deriving DecidableEq, Repr

/-- No two planned ranges overlap (R372); the later one is at fault. -/
def noOverlap : List Planned → List Planned → Except PatErr Unit
  | _, [] => .ok ()
  | seen, p :: ps =>
    if p.len ≠ 0 ∧ seen.any (fun q => q.len != 0 && overlaps (q.base, q.len) (p.base, p.len)) = true then .error ⟨0x08, p.sec, p.off⟩
    else noOverlap (p :: seen) ps

/-! ### Fabric plan (R375, R376, R516) -/

/-- What a fabric plan holds for the module at address `own`. -/
structure FabPlan where
  anchor : Nat
  members : List Member
  mask : Nat
  chains : List Chain
  routes : List (List Nat)
  entries : List (List Byte)
deriving DecidableEq, Repr

/-- The chain records from byte `pos` of the section on. -/
def parseChains (off : Nat) (b : List Byte) (m : Nat) : Nat → Nat → Except PatErr (List Chain)
  | 0, _ => .ok []
  | k + 1, pos => do
    need (decide (pos + 6 ≤ b.length)) 0x07 7 (off + pos)
    let c := b.drop pos
    let r := byteAt c 2
    let n := field c 4 2
    let size := (6 + 2 * r * n + 3) / 4 * 4
    needAll 7 (off + pos) [(decide (1 ≤ r) && decide (r ≤ 8), 2)]
    need (decide (pos + size ≤ b.length)) 0x07 7 (off + pos)
    let rails := (List.range r).map fun i => (List.range n).map fun j => field c (6 + 2 * (i * n + j)) 2
    let first := rails.headD []
    needAll 7 (off + pos)
      [(first.eraseDups.length == n && first.all (fun a => decide (a < m)) &&
        rails.all fun x => x.eraseDups.length == n && x.all first.contains, 6)]
    let rest ← parseChains off b m k (pos + size)
    return ⟨field c 0 2, rails⟩ :: rest

/-- The ports that a route word lists. -/
def routePorts (w : Nat) : List Nat := (List.range (slice w 22 20)).map fun k => slice w (5 * k + 4) (5 * k)

/-- The fabric plan, its shard entries still to be checked against the whole plan. -/
def parseFabric (s : Sect) (own imageLen : Nat) : Except PatErr FabPlan := do
  let b := s.bytes
  need (decide (64 ≤ b.length)) 0x07 7 s.off
  let m := field b 0 2
  let n := field b 4 2
  let e := field b 8 4
  needAll 7 s.off [(decide (1 ≤ m) && decide (m ≤ 4096), 0), (decide (field b 2 2 < m), 2), (decide (n ≤ 256), 4), (decide (e ≤ 65536), 8)]
  need (decide (64 + 32 * m + 512 ≤ b.length)) 0x07 7 s.off
  let members ← listBelow m fun a => do
    let r := (b.drop (64 + 32 * a)).take 32
    needAll 7 (s.off + 64 + 32 * a) [(decide (field r 0 2 < m) && field r 0 2 != a, 0), (decide (imageLen ≤ field r 16 8), 16)]
    return (⟨field r 0 2, field r 8 8, field r 16 8⟩ : Member)
  let chains ← parseChains s.off b m n (field b 12 4)
  let ro := field b 16 4
  need (decide (ro + 4 * m * m ≤ b.length)) 0x07 7 (s.off + ro)
  let word (a p : Nat) : Nat := field b (ro + 4 * (m * a + p)) 4
  eachBelow (m * m) fun i =>
    let k := slice (word (i / m) (i % m)) 22 20
    needAll 7 (s.off + ro + 4 * i) [(if i / m = i % m then k == 0 else decide (1 ≤ k) && decide (k ≤ 4), 0)]
  let so := field b 20 4
  need (decide (so + 32 * e ≤ b.length)) 0x07 7 (s.off + so)
  return ⟨field b 2 2, members, leNat ((b.drop (64 + 32 * m)).take 512), chains, (List.range m).map fun p => routePorts (word own p),
    (List.range e).map fun i => (b.drop (so + 32 * i)).take 32⟩

/-- The first shard entry that is not well formed against the plan (R376, R516). -/
def badEntry (p : Pattern) (es : List (List Byte)) : Option Nat :=
  (List.range es.length).find? fun i =>
    let b := es.getD i []
    bitAt (byteAt b 6) 0 && (!shardFormed p b || (es.take i).any fun c => bitAt (byteAt c 6) 0 && field c 0 4 == field b 0 4)

/-! ### Policies (R377, R213, R332, R364) -/

/-- The policies section. -/
def parsePolicy (s : Sect) : Except PatErr Policy := do
  let b := s.bytes
  let risk := (List.range 16).map fun i => byteAt b (12 + i)
  need (decide (64 ≤ b.length)) 0x07 8 s.off
  needAll 8 s.off
    ([(decide (byteAt b 0 ≤ 1), 0), (decide (1 ≤ byteAt b 1) && decide (byteAt b 1 ≤ 6), 1), (decide (1 ≤ field b 2 2) && decide (field b 2 2 ≤ 256), 2),
      (decide (4 ≤ byteAt b 4) && decide (byteAt b 4 ≤ 16), 4), (decide (byteAt b 5 ≤ 5), 5), (decide (3 ≤ byteAt b 6) && decide (byteAt b 6 ≤ 10), 6),
      (decide (1 ≤ field b 8 2) && decide (field b 8 2 ≤ 256), 8), (decide (1 ≤ byteAt b 10) && decide (byteAt b 10 ≤ 64), 10),
      (byteAt b 11 == 0 || (decide (3 ≤ byteAt b 11) && decide (byteAt b 11 ≤ 16)), 11)] ++
     (List.range 16).map fun i => (decide (risk.getD i 0 ≤ 12) && (i == 0 || decide (risk.getD i 0 ≤ risk.getD (i - 1) 0)), 12 + i))
  return ⟨byteAt b 0 == 1, byteAt b 1, field b 2 2, byteAt b 4, byteAt b 5, byteAt b 6, field b 8 2, byteAt b 10,
    if byteAt b 11 = 0 then 0 else 2 ^ byteAt b 11, risk.map (2 ^ ·)⟩

/-! ### The whole pattern (table Load order 4) -/

/-- A checked pattern: what it gives the module, its shard entries and its mapped-out mask. -/
structure Checked where
  pattern : Pattern
  entries : List (List Byte)
  mask : Nat
deriving DecidableEq, Repr

/-- Checks the sections of a pattern for the module at address `own` (R365 to R377): tile map, colonies, profiles, graphs, partitions,
memory plan, fabric plan, policies, then the module's address. -/
def checkPattern (l : Tab Sect) (jobId jobSeed own : Nat) : Except PatErr Checked := do
  let sm ← fixedSection l 1 96 4
  let sc ← fixedSection l 2 8 16
  let sp ← fixedSection l 3 96 32
  let sl ← sectionAt l 4
  let sf ← sectionAt l 5
  let sb ← sectionAt l 7
  let so ← sectionAt l 8
  let tiles ← parseTiles sm
  let counts ← parseColonies sc tiles sm.off
  let profiles ← parseProfiles sf counts
  let graphs ← parseGraphs (tlook l 6) counts
  let cols : Tab Colony := counts.map fun c => (c.1, ⟨ofColony profiles c.1, ofColony graphs c.1⟩)
  let parts ← parseParts sp tiles cols
  let plan ← parsePlan sl counts
  let fab ← parseFabric sb own (imageLength plan.regions)
  let copies := plan.regions.zipIdx.flatMap fun r =>
    [(⟨r.1.copy0, r.1.len, 4, sl.off + 64 + 32 * r.2⟩ : Planned), ⟨r.1.copy1, r.1.len, 4, sl.off + 72 + 32 * r.2⟩]
  let wards := (fab.members.zipIdx.filter fun m => m.1.buddy == own).map fun m => (⟨m.1.llAddr, m.1.llLen, 7, sb.off + 72 + 32 * m.2⟩ : Planned)
  noOverlap [] ((parts.zipIdx.map fun p => (⟨p.1.regionBase, p.1.regionLen, 3, sp.off + 32 * p.2 + 8⟩ : Planned)) ++
    [⟨plan.rlogBase, plan.rlogSize, 4, sl.off + 8⟩] ++ copies ++ wards)
  let policy ← parsePolicy so
  let p : Pattern :=
    { jobId := jobId, jobSeed := jobSeed, digest := [], tiles := tiles, colonies := cols, parts := parts, cacheSteps := plan.cache,
      rlogBase := plan.rlogBase, rlogSize := plan.rlogSize, regions := plan.regions, anchor := fab.anchor, members := fab.members,
      mappedOut := (List.range 4096).filter fab.mask.testBit, chains := fab.chains, routes := fab.routes, policy := policy }
  match badEntry p fab.entries with
  | some i => .error ⟨0x08, 7, sb.off + field sb.bytes 20 4 + 32 * i⟩
  | none => if own < fab.members.length then .ok ⟨p, fab.entries, fab.mask⟩ else .error ⟨0x0A, 0, 0⟩

end Sys2Proof.Machine
end

