-- ==== Sys2Proof/Machine/Answer.lean ====
section
/-! DEFINITION. Answer.lean: the management paths: which path and protocol the module answers on, how a response leaves on each, and
the mailbox (R477, R479, R480, R490, R501). -/
namespace Sys2Proof.Machine
open Sys2Proof

/-- Protocols above the transports (table Management protocols). -/
inductive Proto where
  | control | pldm (typ : Nat) | spdm | vendor
deriving DecidableEq, Repr

/-- The paths and protocols of the table Management protocols: DOE and MGMT_MCTP carry SPDM alone (R477, R480). -/
def pathCarries : Path → Proto → Bool
  | .i3c, _ | .vdm, _ | .mailbox, _ => true
  | .doe, q | .peer _, q => q == .spdm

/-- In recovery the boot loader answers only on MCTP over I3C, with MCTP control, PLDM type 0 and PLDM type 5 (R490). -/
def recoveryCarries (p : Path) (q : Proto) : Bool := p == .i3c && (q == .control || q == .pldm 0 || q == .pldm 5)

/-- Whether the management plane answers now: from order 2 of the table Power-up on (R477, R490). -/
def State.answers (s : State) (p : Path) (q : Proto) : Bool :=
  s.d.ctl.state != 0 && decide (2 ≤ s.pwr.bootOrder) && pathCarries p q && (!s.sec.recovery || recoveryCarries p q)

/-! ### The mailbox (R479) -/

/-- Bytes of a fragment, at most. -/
def fragment : Nat := 4095

/-- Puts the first fragment of a message before the driver. -/
def Mailbox.offer (x : Mailbox) (m : List Byte) : Mailbox :=
  { x with fromBuf := m.take fragment, fromReady := true, fromFirst := true, fromLast := decide (m.length ≤ fragment), fromRest := m.drop fragment }

/-- A message for the driver: shown at once, or kept behind the one being released (R479). -/
def Mailbox.answer (x : Mailbox) (m : List Byte) : Mailbox :=
  if x.fromReady then { x with fromWait := x.fromWait ++ [m] } else x.offer m

/-- The driver releases a fragment: the next one of the message, the next message, or none (R479). -/
def Mailbox.release (x : Mailbox) : Mailbox :=
  if !x.fromReady then x
  else if !x.fromRest.isEmpty then
    { x with fromBuf := x.fromRest.take fragment, fromFirst := false, fromLast := decide (x.fromRest.length ≤ fragment),
             fromRest := x.fromRest.drop fragment }
  else match x.fromWait with
    | m :: ms => { x with fromWait := ms }.offer m
    | [] => { x with fromBuf := [], fromReady := false, fromFirst := false, fromLast := false }

/-- Sends a message on a path: recorded, put into the mailbox with interrupt source 26, or carried to a peer in MGMT_MCTP (R478 to R480). -/
def State.respond (s : State) (p : Path) (typ : Nat) (msg : List Byte) : State :=
  let s1 : State := { s with sec := { s.sec with resp := (p, natLE 1 typ ++ msg) :: s.sec.resp } }
  match p with
  | .mailbox =>
    { s1 with
      sec := { s1.sec with mbx := s1.sec.mbx.answer (natLE 1 typ ++ msg) }
      d := if s1.sec.mbx.fromReady then s1.d else s1.d.irq 26 }
  | .peer a => { s1 with d := s1.d.send a 6 0xA0 0 (natLE 1 typ) (clean msg) }
  | _ => s1

/-- The driver's ack (R479): interrupt source 26 is raised for each further fragment. -/
def State.mbxAck (s : State) : State :=
  let x := s.sec.mbx.release
  { s with sec := { s.sec with mbx := x }, d := if s.sec.mbx.fromReady && x.fromReady then s.d.irq 26 else s.d }

/-! ### Responses by protocol -/

/-- The enterprise number of the module's vendor (R478). -/
def enterprise : Nat := 96817

/-- An answer to an MCTP control request: instance, command, completion code and data (R477; log entry 48). -/
def State.control (s : State) (p : Path) (inst cmd : Nat) (f : State → State × List Byte) : State :=
  if s.answers p .control then (let r := f s; r.1.respond p 0 (natLE 1 inst ++ natLE 1 cmd ++ r.2)) else s

/-- An answer to a PLDM request: instance, type, command, completion code and data (R477; log entry 48). -/
def State.pldm (s : State) (p : Path) (inst typ cmd : Nat) (f : State → State × List Byte) : State :=
  if s.answers p (.pldm typ) then (let r := f s; r.1.respond p 1 (natLE 1 inst ++ natLE 1 typ ++ natLE 1 cmd ++ r.2)) else s

/-- An answer to a Troulara vendor request: enterprise number, command code, status and data (R478). -/
def State.vendor (s : State) (p : Path) (code : Nat) (f : State → State × List Byte) : State :=
  if s.answers p .vendor then (let r := f s; r.1.respond p 0x7F (natLE 4 enterprise ++ natLE 1 code ++ r.2)) else s

/-- A PLDM request of the module's own to the update agent (R491). -/
def State.pldmAsk (s : State) (p : Path) (cmd : Nat) (body : List Byte) : State :=
  s.respond p 1 (natLE 1 0x80 ++ natLE 1 5 ++ natLE 1 cmd ++ body)

/-- Answers PEER for the PEER_ATTEST requests whose peer is no longer JOINED (table Troulara command status). -/
def State.sweepAttest (s : State) : State :=
  let gone := s.sec.attestWait.filter fun w => (s.d.peer w.1).state != 3
  let s1 : State := { s with sec := { s.sec with attestWait := s.sec.attestWait.filter fun w => (s.d.peer w.1).state == 3 } }
  gone.foldl (fun s w => s.respond w.2 0x7F (natLE 4 enterprise ++ natLE 1 5 ++ natLE 1 8)) s1

end Sys2Proof.Machine
end

