-- ==== Sys2Proof/Machine/Fabric.lean ====
section
/-! DEFINITION. Fabric.lean: frames received and replayed, link-level acknowledgement and credits, width changes, link down and
training (R275 to R283, R289, R293). -/
namespace Sys2Proof.Machine
open Sys2Proof

/-! ### Frames sent without payload (R277) -/

/-- Puts a frame of a type without chunks on the wire: idle 0, width request 2, width accept 3. -/
def controlFrame (typ width group widthSeq : Nat) (p : Port) : Port :=
  { p with
    nakNext := false
    out := frameBytes ⟨0, p.rxSeq, typ, p.nakNext, width, group, widthSeq, p.freed.map (· % 65536)⟩ [] :: p.out }

/-- Transmits from a port: data frames, or one idle frame where there is nothing else to send (R277; log entry 36). -/
def Dev.answerOn (d : Dev) (p : Nat) : Dev :=
  let n := (d.port p).txSeq
  let d1 := d.pump p
  if (d1.port p).txSeq = n ∧ d1.up p = true then d1.setPort p (controlFrame 0 8 0 0) else d1

/-! ### Link down (R279, R288, R291) -/

/-- A port as it leaves the up state with a cause: a PORT_ERR bit below 7, else none. -/
def downPort (cause : Nat) (x : Port) : Port :=
  { x with
    link := if x.enable then 1 else 4
    linkDowns := satAdd 32 x.linkDowns 1
    err := if cause < 7 then x.err ||| 2 ^ cause else x.err
    replay := [], rxBuf := List.replicate 8 [], nakNext := false, nakArmed := false
    locked := 0, partnerValid := false, widthReq := none, widthAcc := none, widthPeer := none, back := if x.back = 0 then 0 else 3 }

/-- A port leaves the up state: counted and recorded; peers whose route it empties depart (R279, R288, R515). -/
def Dev.portDown (d : Dev) (p cause event : Nat) : Dev :=
  if !d.up p then d
  else
    let d1 := ((d.setPort p (downPort cause)).logEv 0 0x0030 p (natLE 1 event) 0).health 16
    (d1.joined.filter fun a => (d1.route a).contains p && (d1.usable a).isEmpty).foldl (fun d a => d.depart a 1) d1

/-- PORT_LINK_DOWN (R279): `cause` is the PORT_ERR bit of what happened, or 0xFF where the driver has cleared enable. -/
def execPortLinkDown (port cause : Nat) (s : State) : Host.Outcome State Fault Refusal :=
  nextD s fun d => d.portDown port cause cause

/-- Starts link training from order 1 on a port that is enabled and not held (R289, R463). -/
def Dev.train (d : Dev) (p : Nat) : Dev :=
  if (d.port p).enable && !(d.port p).held && decide (2 ≤ d.ctl.state) then
    (d.portDown p 0xFF Config.retrainCause).setPort p fun x => { x with link := 1, locked := 0, partnerValid := false }
  else d

/-- After HOLD the ports whose width change failed retrain one at a time: with none retraining, the lowest that waits does (R470). -/
def Dev.retrainNext (d : Dev) : Dev :=
  if (List.range 32).any fun p => (d.port p).back == 3 && (d.port p).link == 1 then d
  else
    match (List.range 32).find? fun p => (d.port p).back == 2 with
    | some p => d.portDown p 6 6
    | none => d

/-- A width change fails: the port retrains, or, on the return from HOLD, waits for its turn to (R280, R470). -/
def Dev.widthFails (d : Dev) (p : Nat) : Dev :=
  if (d.port p).back = 1 then
    (d.setPort p fun x => { x with back := 2, link := 2, widthReq := none, widthAcc := none, widthPeer := none }).retrainNext
  else d.portDown p 6 6

/-- PORT_RETRAIN (R289, R294, R432): a write of 1 to PORT_CTRL.retrain, by the driver or the management core. -/
def execPortRetrain (port : Nat) (s : State) : Host.Outcome State Fault Refusal :=
  nextS s fun s => if s.readable (0x400004 + 0x4000 * port) then { s with d := s.d.train port } else s

/-- What orders 2 and 3 of the table Link training find: the lanes that locked, their order, and the partner's data. -/
def foundPort (t : Trained) (x : Port) : Port :=
  { x with
    reversed := t.reversed, locked := t.locked
    partnerAddr := if t.isSwitch then 0 else t.addr, partnerValid := true, partnerSwitch := t.isSwitch, partnerId := t.id }

/-- TRAINING_RETRY_TIMER (R289): the port returns to order 1, and `found` says what orders 2 and 3 then find. -/
def execTrainingRetryTimer (port : Nat) (found : Option Trained) (s : State) : Host.Outcome State Fault Refusal :=
  nextD s fun d =>
    if (d.port port).link = 1 then
      d.setPort port fun x => match found with
        | some t => foundPort t x
        | none => { x with locked := 0, partnerValid := false }
    else d

/-- The lanes of a lane group, one bit per lane (table Port widths). -/
def groupLanes (width group : Nat) : Nat := (2 ^ width - 1) * 2 ^ (width * group)

/-- The widths and lane groups of order 4 of the table Link training, in the order that order 5 tries them: those whose lanes all
locked, the widest and lowest first, within the largest width of both ends. -/
def trainChoices (most locked : Nat) : List (Nat × Nat) :=
  [(8, 0), (4, 0), (4, 1), (2, 0), (2, 1), (2, 2), (2, 3)].filter fun c =>
    decide (c.1 ≤ most) && locked &&& groupLanes c.1 c.2 == groupLanes c.1 c.2

/-- The lowest x2 lane group of a width and group (order 7 of the table Switch-over). -/
def holdGroupOf (width group : Nat) : Nat := if width = 8 then 0 else if width = 4 then 2 * group else group

/-- A trained port (order 6 of the table Link training): sequences 0, full credits, counters 0. -/
def upPort (t : Trained) (width group : Nat) (hold : Bool) (x : Port) : Port :=
  { foundPort t x with
    link := 2, width := if hold then 2 else width, group := if hold then holdGroupOf width group else group, before := width, back := 0
    txSeq := 0, rxSeq := 0, replay := [], nakNext := false, nakArmed := false, credits := classBuffers
    creditSeen := List.replicate 8 0, freed := List.replicate 8 0, sentChunks := List.replicate 8 0
    rxBuf := List.replicate 8 [], turn := 1, turnLeft := 0, widthReq := none, widthAcc := none, widthPeer := none }

/-- LINK_UP (R289): a port in training comes up at the width and lane group of order 4, the next one after each that failed order 5. A
port that has waited to retrain after HOLD then does (R470). -/
def execLinkUp (port : Nat) (t : Trained) (s : State) : Host.Outcome State Fault Refusal :=
  nextD s fun d =>
    let x := d.port port
    match (trainChoices (min x.maxWidth t.partnerMax) t.locked)[t.fails]? with
    | some (w, g) =>
      if x.link = 1 ∧ x.enable = true ∧ x.held = false then ((d.setPort port (upPort t w g (d.ctl.state == 7))).answerOn port).retrainNext else d
    | none => d

/-! ### Replay (R278) -/

/-- Sends every frame of the replay buffer again. -/
def replayPort (x : Port) : Port :=
  let again := x.replay.map fun f => { f with replays := f.replays + 1 }
  let bytes := again.map fun f => frameBytes ⟨f.seq, x.rxSeq, 1, x.nakNext, 8, 0, 0, x.freed.map (· % 65536)⟩ f.chunks
  { x with replay := again, replays := satAdd 32 x.replays 1, nakNext := false, out := bytes.reverse ++ x.out }

/-- A replay starts; a frame replayed 16 times without an acknowledgement takes the link down (R278, R279). -/
def Dev.replay (d : Dev) (p : Nat) : Dev :=
  if (d.port p).replay.isEmpty || !d.up p then d
  else if (d.port p).replay.any fun f => decide (16 ≤ f.replays) then d.portDown p 3 3
  else (d.setPort p replayPort).health 1

/-- REPLAY_TIMEOUT (R278). -/
def execReplayTimeout (port : Nat) (s : State) : Host.Outcome State Fault Refusal := nextD s fun d => d.replay port

/-- NAK_REPEAT_TIMER (R278). -/
def execNakRepeatTimer (port : Nat) (s : State) : Host.Outcome State Fault Refusal :=
  nextD s fun d =>
    if (d.port port).nakArmed && d.up port then (d.setPort port fun x => { x with nakNext := true }).answerOn port else d

/-! ### Width changes (R280) -/


/-- The partner asks for a width: answered by an accept; both ends asking for different widths retrains (R280). In HOLD every port is at
x2, and another width is not accepted (R469; log entry 89). -/
def Dev.widthAsked (d : Dev) (p w g q : Nat) : Dev :=
  if !d.up p || (d.ctl.state == 7 && w != 2) then d
  else
    match (d.port p).widthReq with
    | some (w', _, _) =>
      if w' = w then d.setPort p fun x => settleWidth { (controlFrame 3 w g q x) with link := 3, widthAcc := some (w, g, q), widthReq := none }
      else d.widthFails p
    | none => d.setPort p fun x => settleWidth { (controlFrame 3 w g q x) with link := 3, widthAcc := some (w, g, q) }

/-- The partner accepts a width that this port asked for; the port goes on to the frame that the change names. -/
def Dev.widthTaken (d : Dev) (p w g q : Nat) : Dev :=
  if d.up p && (d.port p).widthReq == some (w, g, q) then
    (d.setPort p fun x => settleWidth { x with link := 3, widthReq := none, widthPeer := some (w, g, q) }).pump p
  else d

/-- A port asks for a width and lane group, 17 data frames ahead (R280). -/
def askPort (w g : Nat) (x : Port) : Port :=
  let q := (x.txSeq + 17) % 2 ^ 32
  { (controlFrame 2 w g q x) with widthReq := some (w, g, q) }

/-- A port that is up asks for a narrower width (R280). -/
def Dev.askWidth (d : Dev) (p w : Nat) : Dev :=
  let x := d.port p
  if !d.up p || decide (x.width ≤ w) then d
  else d.setPort p (askPort w (if x.width = 8 then 0 else if w = 2 then 2 * x.group else x.group))

/-- WIDTH_REQUEST (R280). -/
def execWidthRequest (port width group seq : Nat) (s : State) : Host.Outcome State Fault Refusal :=
  nextD s fun d => d.widthAsked port width group seq

/-- WIDTH_ACCEPT (R280). -/
def execWidthAccept (port width group seq : Nat) (s : State) : Host.Outcome State Fault Refusal :=
  nextD s fun d => d.widthTaken port width group seq

/-- WIDTH_REQUEST_TIMEOUT (R280). -/
def execWidthRequestTimeout (port : Nat) (s : State) : Host.Outcome State Fault Refusal :=
  nextD s fun d => if (d.port port).widthReq.isSome then d.widthFails port else d

/-! ### Messages out of chunks (R281, R284, R285, R293) -/

/-- The types that each class carries (R286, R330, R363, R480). -/
def typeOk (cls typ : Nat) : Bool :=
  match cls with
  | 0 => [0x01, 0x02, 0x10, 0x11, 0x12, 0x13, 0x14, 0x20].contains typ
  | 1 => [0x40, 0x41, 0x42, 0x43].contains typ
  | 2 => [0x50, 0x51, 0x52, 0x53].contains typ
  | 3 => [0x60, 0x61].contains typ
  | 4 => [0x90, 0x91, 0x92, 0x93, 0x94].contains typ
  | 5 => [0x80, 0x81, 0x82, 0x83].contains typ
  | 6 => typ == 0xA0
  | 7 => [0x70, 0x71, 0x72].contains typ
  | _ => false

/-- A message out of its chunks: type and fields. -/
def messageOf (port : Nat) (cs : List Chunk) : Nat × Rx :=
  let h := match cs with | c :: _ => c.bytes | [] => []
  let cls := match cs with | c :: _ => c.cls | [] => 0
  let len := field h 12 4
  let body := ((cs.drop 1).map fun c => c.bytes.map fun b => (b, c.poison)).flatten.take len
  (byteAt h 5,
   { port := port, dst := field h 0 2, src := field h 2 2, cls := byteAt h 4, sequenced := bitAt (byteAt h 6) 0, seq := field h 8 4,
     step := field h 16 8, params := sub h 24 32, body := body
     framed := byteAt h 4 == cls && decide (len ≤ 1048576) && cs.length == 1 + (len + 63) / 64
     hdrPoison := match cs with | c :: _ => c.poison | [] => false })

/-- One chunk leaves the receive buffer into the message it belongs to; a message whose last chunk has arrived waits for its
command (R281, R285). -/
def Dev.chunkIn (d : Dev) (p : Nat) (c : Chunk) : Dev :=
  let x := d.port p
  let buf := x.rxBuf.getD c.cls []
  let d1 := d.setPort p fun x =>
    { x with poisonRx := satAdd 32 x.poisonRx (b2n c.poison), freed := x.freed.set c.cls (x.freed.getD c.cls 0 + 1) }
  let d2 := if c.first != buf.isEmpty then d1.portErr p 5 else d1
  if !c.first && buf.isEmpty then d2
  else
    let now := if c.first then [c] else buf ++ [c]
    if !c.last then d2.setPort p fun x => { x with rxBuf := x.rxBuf.set c.cls now }
    else
      let d3 := d2.setPort p fun x => { x with rxBuf := x.rxBuf.set c.cls [] }
      let m := messageOf p now
      if typeOk m.2.cls m.1 then { d3 with inbox := d3.inbox ++ [m] } else d3.portErr p 5

/-! ### Frames received (R276 to R283) -/

/-- A discarded or missing frame sets nak once, until a frame is accepted or the timer ends (R278). -/
def nakPort (x : Port) : Port := if x.nakArmed then x else { x with nakNext := true, nakArmed := true }

/-- Credits that a control slot returns per class (R283). -/
def creditDelta (x : Port) (s : Slot) (c : Nat) : Nat := (s.credit.getD c 0 + 65536 - x.creditSeen.getD c 0) % 65536

/-- The partner returns more credits than chunks were sent to it (R279). -/
def creditOverflow (x : Port) (s : Slot) : Bool := (List.range 8).any fun c => decide (classBuffers.getD c 0 < x.credits.getD c 0 + creditDelta x s c)

/-- The acknowledgement and the credits of a frame's control slot. -/
def slotPort (s : Slot) (x : Port) : Port :=
  { x with
    replay := x.replay.filter fun f => seqBefore s.ack f.seq
    credits := (List.range 8).map fun c => x.credits.getD c 0 + creditDelta x s c
    creditSeen := (List.range 8).map fun c => s.credit.getD c 0 }

/-- The payload of a frame, by its type and sequence (R278, R280). -/
def Dev.framePayload (d : Dev) (p : Nat) (s : Slot) (chunks : List Chunk) : Dev :=
  let x := d.port p
  if s.typ = 2 then d.widthAsked p s.width s.group s.widthSeq
  else if s.typ = 3 then d.widthTaken p s.width s.group s.widthSeq
  else if s.typ ≠ 1 then d
  else if s.seq = (x.rxSeq + 1) % 2 ^ 32 then
    chunks.foldl (fun d c => d.chunkIn p c) (d.setPort p fun x => { x with rxSeq := s.seq, nakArmed := false })
  else if seqBefore x.rxSeq s.seq then d.setPort p nakPort
  else d

/-- A frame that passed FEC and CRC. -/
def Dev.frameOk (d : Dev) (p : Nat) (s : Slot) (chunks : List Chunk) : Dev :=
  if creditOverflow (d.port p) s then d.portDown p 4 4
  else
    let d1 := d.setPort p (slotPort s)
    let d2 := if s.nak then d1.replay p else d1
    let d3 := d2.framePayload p s chunks
    (d3.answerOn p).setPort p settleWidth

/-- FRAME_RECEIVE (R275 to R278, R283, R293). -/
def execFrameReceive (port : Nat) (bytes : List Byte) (s : State) : Host.Outcome State Fault Refusal :=
  nextD s fun d =>
    if !d.up port then d
    else
      match readFrame bytes with
      | .uncorrectable n =>
        ((d.setPort port fun x => nakPort { x with fecCorr := (x.fecCorr + n) % 2 ^ 64, fecUncorr := satAdd 32 x.fecUncorr 1 }).portErr port 1).answerOn port
      | .badCrc n =>
        ((d.setPort port fun x => nakPort { x with fecCorr := (x.fecCorr + n) % 2 ^ 64, crcErr := satAdd 32 x.crcErr 1 }).portErr port 2).answerOn port
      | .ok slot chunks n => (d.setPort port fun x => { x with fecCorr := (x.fecCorr + n) % 2 ^ 64 }).frameOk port slot chunks

end Sys2Proof.Machine
end

