-- ==== Sys2Proof/Machine/Power.lean ====
section
/-! DEFINITION. Power.lean: the power inputs, start-up and the swatch, switch-over and HOLD, throttling, resets and the host link
(R31, R421 to R426, R456 to R476, R482, R487, R506 to R512). -/
namespace Sys2Proof.Machine
open Sys2Proof

/-! ### Inputs (R456 to R458) -/

/-- In range: 44.0 V to 59.0 V, in units of 0.01 V. -/
def inBand (cv : Nat) : Bool := decide (4400 ≤ cv) && decide (cv ≤ 5900)

/-- Outside the loss thresholds. -/
def outsideLoss (cv : Nat) : Bool := decide (cv < 4200) || decide (6000 < cv)

/-- Sets bits of PWR_EVENTS and records the supply event (R476, R483). -/
def State.supply (s : State) (bits : Nat) : State :=
  { s with pwr := { s.pwr with events := s.pwr.events ||| bits }, d := s.d.logEv 2 0x0040 0xFFFF (natLE 1 bits) 0 }

/-- Adds health points. -/
def State.health (s : State) (n : Nat) : State := { s with d := s.d.health n }

/-- AUX can carry the module: it is connected and not lost (R456, R472). -/
def Pwr.auxThere (p : Pwr) : Bool := !p.auxOpen && !outsideLoss p.auxCv

/-- The module draws from MAIN again, which counts as a return (R476). -/
def State.toMain (s : State) : State :=
  { s with
    pwr := { s.pwr with returns := satAdd 16 s.pwr.returns 1, forced := false, switchStage := 0 }
    d := s.d.setCtl fun c => { c with onAux := false } }

/-- What the power path does in FAULT: there is no forced HOLD to keep it on AUX, so it draws from a MAIN that is qualified (R457). -/
def State.drawMain (s : State) : State :=
  if s.d.ctl.state == 9 && s.d.ctl.onAux && s.pwr.qualified then s.toMain else s

/-- n of ACLK (R473). -/
def State.aclkN (s : State) : Nat :=
  if s.drawMain.d.ctl.onAux then 2 else min (min 16 (max 2 s.pwr.maxN)) (min s.pwr.nCap s.pwr.nThermal)

/-! ### Loss of power (R472, R506) -/

/-- What an M-die keeps without power: its repaired-row list, in flash (R246). -/
def coldMdie (x : MDie) : MDie := { mdie0 with repaired := x.repaired }

/-- The planes without power: flash and OTP are kept, stack contents are lost (R241, R472). -/
def Dev.cold (d : Dev) : Dev :=
  { Dev.reset with
    ctl := { Ctl.reset with state := 0, moduleId := d.ctl.moduleId }
    mem := ⟨[], [], d.mem.losses + 1⟩
    mdies := d.mdies.map fun e => (e.1, coldMdie e.2)
    retired := d.retired, free := d.free, alerts := d.alerts
    host := { HostPort.reset with out := d.host.out } }

/-- The management plane without power: flash, OTP and the model's own records. -/
def Sec.cold (x : Sec) : Sec :=
  { Sec.reset with
    otpVersion := x.otpVersion, copyA := x.copyA, copyB := x.copyB, activeB := x.activeB, slot0Disabled := x.slot0Disabled,
    slots := x.slots, keySeq := x.keySeq, finals := x.finals, otp := x.otp, draws := x.draws, resp := x.resp }

/-- Loss of both inputs: a final record in flash, then POWEROFF (R405, R472). Causes of the record: 0 inputs lost, 1 thermal trip
with its sensor in the higher bits, 2 forced off, 3 presence pair broken (log entry 28). -/
def State.powerOff (s : State) (cause : Nat) (opened trip : Bool) (mainCv auxCv : Nat) : State :=
  if s.d.ctl.state = 0 then s
  else
    { s with
      pwr := { Pwr.reset with mainCv := mainCv, auxCv := auxCv, mainOpen := opened, auxOpen := opened, tripOpen := opened && cause != 3, thermTrip := trip }
      sec := ({ s.sec with finals := (s.d.stepNo, s.d.ctl.state, cause) :: s.sec.finals } : Sec).cold
      d := s.d.cold }

/-! ### Start-up (R460 to R464, R488 to R490) -/

/-- Whether the boot loader accepts a copy: whole, signed, and not older than the OTP security version (R488, R489). -/
def Sec.accepts (x : Sec) (f : Firmware) : Bool :=
  f.length == f.body.length && Config.slhVerify (Config.otpKey x.otp 0) (shake256 f.body 64) f.signature && decide (x.otpVersion ≤ f.version)

/-- The copy that an accepted boot runs (R489). -/
def Sec.runs (x : Sec) (f : Firmware) (b : Bool) : Sec :=
  { x with runningB := b, recovery := false, updatePending := false, fwDigest := shake256 f.body 64, otpVersion := max x.otpVersion f.version,
           attest := true }

/-- Order 2 of the table Power-up: the active copy, then the other; none accepted leaves the loader in recovery (R489, R490). -/
def Sec.boot (x : Sec) : Sec :=
  let first := if x.activeB then x.copyB else x.copyA
  let other := if x.activeB then x.copyA else x.copyB
  if x.accepts first then x.runs first x.activeB
  else if x.accepts other then x.runs other (!x.activeB)
  else { x with recovery := true, attest := true }

/-- GLB_REV (R445): stepping A1, and the baseline of the firmware that runs. -/
def Sec.glbRev (x : Sec) : Nat := 2 ^ 24 + 256 * ((if x.runningB then x.copyB else x.copyA).baseline % 65536)

/-- The SRAM fill of R240: every SRAM sector holds zeros with correct parity. -/
def Mem.fillSram (m : Mem) : Mem :=
  { m with cells := m.cells.filter fun c => decide (c.1 < stackEnd), bad := m.bad.filter fun c => decide (c.1 < stackEnd) }

/-- Changes every M-die. -/
def Dev.allMdies (d : Dev) (f : MDie → MDie) : Dev := (List.range 8).foldl (fun d m => d.setMdie m f) d

/-- The SRAM fill over the whole module: slices, scratchpads, tables and merge buffers, with every cache line invalid (R240). -/
def Dev.fillSram (d : Dev) : Dev :=
  { d.allMdies (fun x => { x with merge := [], cache := [], fillDone := true }) with mem := d.mem.fillSram, tableBad := [], tableReads := [] }

/-- Orders 4 to 7 of the table Power-up: dies powered, stacks trained, SRAM filled; the swatch begins (R460). -/
def State.enterSwatch (s : State) : State :=
  { s with
    pwr := { s.pwr with bootOrder := 7, stopped := false, pwrgd := true }
    d := ((if s.d.ctl.state = 2 then s.d else s.d.setState 2).allMdies fun x => { x with trained := true }).fillSram }

/-- Orders 1 to 3: the management island, the firmware, and MAIN where it is qualified (R460). -/
def State.startUp (s : State) : State :=
  let s1 : State := { s with sec := s.sec.boot, d := if s.d.ctl.state = 1 then s.d else s.d.setState 1, pwr := { s.pwr with bootOrder := 2 } }
  if s1.sec.recovery then { s1 with d := s1.d.setState 9 }
  else if s1.pwr.qualified then s1.enterSwatch
  else s1

/-- POWER_ON (R460): power applied in POWEROFF, or at the entry to BOOT. -/
def execPowerOn (mainCv auxCv : Nat) (s : State) : Host.Outcome State Fault Refusal :=
  nextS s fun s =>
    if s.d.ctl.state ≤ 1 ∧ s.pwr.bootOrder = 0 ∧ s.pwr.tripOpen = false ∧ (inBand mainCv || inBand auxCv) = true then
      State.startUp { s with pwr := { s.pwr with mainCv := mainCv, auxCv := auxCv, mainOpen := false, auxOpen := false,
                                                 mainOk := inBand mainCv, auxOk := inBand auxCv, qualified := false } }
    else s

/-- The three patterns that the swatch presents to every parity checker (table Checker patterns, R250). -/
def checkerPatterns : List Sector :=
  let data := List.replicate 64 (0xA5 : Byte)
  [⟨data, 0⟩, ⟨data, 2 ^ 37⟩, ⟨data, allFail⟩]

/-- What a checker finds in a sector (R228): the bytes named, and poison where all 64 fail, a parity event where some do. -/
def findingOf (x : Sector) : Finding :=
  let bytes := (List.range 64).filter fun i => x.fails.testBit i
  ⟨bytes, bytes.length == 64, !bytes.isEmpty && bytes.length != 64⟩

/-- The parity checkers that fail: those whose findings in the three patterns are not the expected ones (R250). -/
def failedCheckers (r : SwatchResult) : List Checker :=
  (r.checkers.filter fun c => c.2 != checkerPatterns.map findingOf).map (·.1)

/-- The units that fail a test, each once: physical tiles, pseudo-channels of stacks, slices and merge buffers by M-die, and whether a
table does (R250, R463). -/
def badTiles (r : SwatchResult) : List Nat :=
  (List.range 104).filter fun p => r.tiles.contains p || (failedCheckers r).contains (.scratchpad p)
def badChannels (r : SwatchResult) (m : Nat) : List Nat :=
  (List.range 64).filter fun pc => r.hbm.contains (m, pc) || (failedCheckers r).contains (.stack m pc)
def badSlices (r : SwatchResult) : List Nat :=
  (List.range 8).filter fun m => r.slices.contains m || (failedCheckers r).contains (.slice m)
def badMerges (r : SwatchResult) : List Nat :=
  (List.range 8).filter fun m => r.merges.contains m || (failedCheckers r).contains (.merge m)
def badTables (r : SwatchResult) : Bool := (List.range 5).any fun i => (failedCheckers r).contains (.table i)

/-- The failed units of a swatch, one entry each: unit kind and event unit (R464, R483). -/
def swatchFailures (r : SwatchResult) : List (Nat × Nat) :=
  (badTiles r).map (fun p => (0, p)) ++ ((List.range 8).filter r.nmes.contains).map (fun m => (1, m)) ++
    ((List.range 8).filter fun m => !(badChannels r m).isEmpty).map (fun m => (2, m)) ++
    ((List.range 8).filter fun m => (badSlices r).contains m || (badMerges r).contains m).map (fun m => (3, m)) ++
    (if badTables r then [(4, 0xFFFF)] else []) ++ ((List.range 32).filter r.ports.contains).map (fun p => (5, p)) ++
    (if r.security then [(6, 0xFFFF)] else [])

/-- MD_SELFTEST.first_fail of M-die m (R252). -/
def firstFail (r : SwatchResult) (m : Nat) : Nat :=
  match badChannels r m with
  | p :: _ => p
  | [] => if (badSlices r).contains m then 0x40 else if (badMerges r).contains m then 0x41 else 0xFF

/-- The swatch puts the module into FAULT (table Swatch contents, R251). -/
def swatchFault (r : SwatchResult) : Bool :=
  (swatchFailures r).any fun u => u.1 != 0 && u.1 != 5

/-- Unusable tiles of a C-die. -/
def Dev.unusableOn (d : Dev) (c : Nat) : Nat := ((List.range 26).filter fun t => let x := d.tile (26 * c + t); x.failed || x.fenced).length

/-- Changes every port. -/
def Dev.allPorts (d : Dev) (f : Nat → Port → Port) : Dev := (List.range 32).foldl (fun d p => d.setPort p (f p)) d

/-- SWATCH_END: orders 8 to 10 of the table Power-up (R460, R463, R464). -/
def execSwatchEnd (r : SwatchResult) (s : State) : Host.Outcome State Fault Refusal :=
  nextS s fun s =>
    if s.d.ctl.state ≠ 2 ∨ s.pwr.bootOrder ≠ 7 ∨ s.pwr.stopped = true then s
    else
      let d1 := (List.range 104).foldl (fun d p => d.setTile p fun t => { t with failed := (badTiles r).contains p, fenced := false }) s.d
      let d2 := (List.range 8).foldl (fun d m => d.setMdie m fun x =>
        { x with selfDone := true, selfPass := firstFail r m == 0xFF, selfFirst := firstFail r m }) d1
      let d3 := (swatchFailures r).foldl (fun d u => d.logEv 2 0x0002 u.2 (natLE 1 u.1 ++ natLE 1 (Config.swatchTest u.1 u.2)) 0) d2
      let summary := natLE 1 (b2n (decide (8192 ≤ d3.retired.length))) ++ ((List.range 4).map fun c => natLE 1 (d3.unusableOn c)).flatten ++
        zeros 3 ++ natLE 4 (((List.range 32).map fun p => if r.ports.contains p then 2 ^ p else 0).sum)
      let d4 := (d3.logEv 2 0x0001 0xFFFF summary 0).fillSram
      let d5 := d4.allPorts fun p x => if r.ports.contains p then { x with link := 4, held := true } else { x with link := if x.enable then 1 else 4, held := false }
      { s with pwr := { s.pwr with bootOrder := 10 }, d := if swatchFault r then d5.enterFault else d5.setState 3 }

/-! ### Switch-over and HOLD (R465 to R471, R475) -/

/-- States that a loss of MAIN takes to HOLD (R465). -/
def holdable (st : Nat) : Bool := st == 3 || st == 4 || st == 5 || st == 6 || st == 8

/-- A load or moult that has not reached its order 6 is abandoned: the FENCE completes with MOULT_ABANDONED, nothing changes (R383, R425). -/
def Dev.abandonLoad (d : Dev) : Dev :=
  match d.ctl.loading with
  | some l =>
    if l.ovr then d
    else
      let d1 := d.setCtl fun c => { c with loading := some { l with ovr := true } }
      if l.load then d1.setCtl fun c => { c with patCode := 0x0E, patSection := 0, patOffset := 0 } else d1.finish l.uid 0x8E
  | none => d

/-- The state that HOLD returns to: the state left, never MOULT (R405, R470). -/
def Dev.leftState (d : Dev) : Nat := match d.ctl.loading with | some l => l.back | none => d.ctl.state

/-- Orders 2 to 4 of the table Switch-over: sequencers stop, the supply cause is raised, AUX takes the load; in FAULT order 6 follows
(R465, R466, R468). -/
def State.switchOver (s : State) : State :=
  let d1 := if holdable s.d.ctl.state then s.d.abandonLoad.raise 11 else s.d.flushAll.writeBack
  { s with
    pwr := { s.pwr with toAux := satAdd 16 s.pwr.toAux 1, switchStage := if holdable s.d.ctl.state then 1 else 0 }
    d := d1.setCtl fun c => { c with onAux := true } }

/-- The link of a port is up, a width change under way or not. -/
def Port.isUp (p : Port) : Bool := p.link == 2 || p.link == 3

/-- A width change of the port is under way (R280). -/
def Port.changing (p : Port) : Bool := p.widthReq.isSome || p.widthAcc.isSome || p.widthPeer.isSome

/-- A port notes the width it holds before HOLD (R470). -/
def notePort (p : Port) : Port := { p with before := if p.isUp then p.width else p.maxWidth }

/-- Order 7 of the table Switch-over: a port wider than x2 asks for x2 on the lowest lane group among its lanes (R280). -/
def holdPort (p : Port) : Port := if p.isUp && p.width != 2 && !p.changing then askPort 2 (holdGroupOf p.width p.group) p else p

/-- Order 4 of the table Return of MAIN: a port asks for the width it held before HOLD, within max_width (R280, R470). -/
def returnPort (p : Port) : Port :=
  let w := min p.before p.maxWidth
  if p.isUp && decide (p.width < w) && !p.changing then { askPort w (if w = 8 then 0 else p.group / 2) p with back := 1 } else p

/-- The module state that HOLD gives way to: STRANDED, and STATE sent with its flag, where messages of peers have shown in HOLD that the
module is behind (R343, R405). -/
def Dev.leaveHold (d : Dev) (st : Nat) : Dev :=
  let d1 := d.setState st
  if st = 5 ∧ (match d1.ctl.txn with | some t => t.behind | none => false) = true then d1.strand else d1.sendState

/-- Orders 2 to 6 of the table Return of MAIN: descriptors that HOLD had stopped go on (R467, R470). -/
def State.returnMain (s : State) : State :=
  let s1 := s.toMain
  { s1 with d := ((s1.d.allPorts fun _ => returnPort).leaveHold s.pwr.holdReturn).tryFinishAll }

/-- A tile after a reset of its registers: its marks stay until the next swatch (R22). -/
def resetTile (t : Tile) : Tile := { tile0 with failed := t.failed, fenced := t.fenced }

/-- An M-die after a reset that keeps stack contents: its lists and its scrub position (R245, R424). -/
def warmMdie (x : MDie) : MDie := { coldMdie x with scrubPos := x.scrubPos, scrubCount := x.scrubCount, llmPos := x.llmPos }

/-- The configuration space after a reset of the function, with the link, its sticky error log and the records of output (R424, R425). -/
def resetHost (h : HostPort) : HostPort :=
  { HostPort.reset with out := h.out, aer := h.aer, headerLog := h.headerLog, linkUp := h.linkUp, speed := h.speed, lanes := h.lanes }

/-- The host port whose link is down. -/
def linkLost (h : HostPort) : HostPort := { h with linkUp := false, speed := 0, lanes := 0 }

/-- The planes while every die but the management island is without power, or restarts: stacks are in self-refresh and keep their
contents, repairs and retirements that wait stay queued in the management core, and so does the event log's sequence; confirmation reads
are lost with their M-dies (R424, R461, R462; log entry 159). -/
def Dev.warm (d : Dev) (onAux : Bool) : Dev :=
  { Dev.reset with
    ctl := { Ctl.reset with moduleId := d.ctl.moduleId, onAux := onAux, state := d.ctl.state }
    mem := d.mem.fillSram
    mdies := d.mdies.map fun e => (e.1, warmMdie e.2)
    tiles := d.tiles.map fun e => (e.1, resetTile e.2)
    retired := d.retired, repairs := d.repairs, retires := d.retires
    logSeq := d.logSeq, free := d.free, alerts := d.alerts
    host := linkLost (resetHost d.host) }

/-- Start-up stops at a loss of MAIN (R462): every die but the management island loses its power, and the host link with it. The event
log, the points and the receiver are the management core's. -/
def State.stopStartUp (s : State) : State :=
  { s with
    pwr := { s.pwr with stopped := true, bootOrder := min s.pwr.bootOrder 2 }
    d := { s.d.warm true with log := s.d.log, points := s.d.points, receiver := s.d.receiver } }

/-- MAIN is lost and AUX is there, in the module's state (R462, R465, R468, R471, R475). -/
def State.mainGone (s : State) : State :=
  let st := s.d.ctl.state
  if st = 1 ∨ st = 2 then s.stopStartUp
  else if s.d.ctl.onAux then { s with pwr := { s.pwr with forced := false } }
  else s.switchOver

/-- MAIN_IN_RANGE (R458): the qualification count starts. -/
def execMainInRange (cv : Nat) (s : State) : Host.Outcome State Fault Refusal :=
  nextS s fun s =>
    if s.d.ctl.state = 0 ∨ inBand cv = false then s
    else { s with pwr := { s.pwr with mainCv := cv, mainOk := true, mainOpen := false } }

/-- MAIN_QUALIFIED (R458, R462, R470). -/
def execMainQualified (s : State) : Host.Outcome State Fault Refusal :=
  nextS s fun s =>
    if s.d.ctl.state = 0 ∨ s.pwr.mainOk = false ∨ s.pwr.qualified = true then s
    else
      let s1 : State := { s with pwr := { s.pwr with qualified := true, mainWas := false } }
      let s2 := if s.pwr.mainWas then s1.supply 2 else s1
      let st := s.d.ctl.state
      if st = 1 ∨ st = 2 then
        (if s.pwr.bootOrder = 2 then (if s2.d.ctl.onAux then s2.toMain else s2).enterSwatch else s2)
      else if st = 7 then s2.returnMain
      else s2.drawMain

/-- MAIN_LOST (R456, R465, R472): with AUX lost too, it is the loss of both inputs. -/
def execMainLost (cv : Nat) (s : State) : Host.Outcome State Fault Refusal :=
  nextS s fun s0 =>
    let s := s0.drawMain
    if s.d.ctl.state = 0 ∨ outsideLoss cv = false then s
    else
      let s1 : State := { s with pwr := { s.pwr with mainCv := cv, mainOk := false, qualified := false, mainWas := true } }
      let s2 := (s1.supply 1).health 64
      if s.pwr.auxThere then s2.mainGone else s2.powerOff 0 false false cv s.pwr.auxCv

/-- Order 5 of the table Switch-over has ended: an abort has completed the COMMIT of its step, and a pledged step has committed. -/
def Dev.switchSettled (d : Dev) : Bool := match d.ctl.txn with | some t => t.aborted && t.closed | none => true

/-- Order 6 of the table Switch-over begins, once: merge buffers are emptied, and the ports note their widths. -/
def State.beginHold (s : State) : State :=
  if s.pwr.switchStage = 1 then
    { s with pwr := { s.pwr with switchStage := 2 }, d := s.d.abandonLoad.flushAll.allPorts fun _ => notePort }
  else s

/-- HOLD_ENTRY (orders 5 to 8 of the table Switch-over): once order 5 has ended, order 6 begins and the ports ask for x2; HOLD follows, with
every dirty line written back and STATE sent, once every port that is up is at x2 (R465, R466, R280). -/
def execHoldEntry (s : State) : Host.Outcome State Fault Refusal :=
  nextS s fun s =>
    if s.pwr.switchStage = 0 ∨ s.d.switchSettled = false ∨ holdable s.d.ctl.state = false then s
    else
      let s1 := s.beginHold
      let d1 := s1.d.allPorts fun _ => holdPort
      if (List.range 32).any fun p => (d1.port p).isUp && ((d1.port p).width != 2 || (d1.port p).changing) then { s1 with d := d1 }
      else
        let s2 : State := { s1 with
          pwr := { s1.pwr with switchStage := 0, holdReturn := d1.leftState }
          d := ((d1.writeBack.setCtl fun c => { c with loading := none }).setState 7).sendState }
        if s2.pwr.qualified && !s2.pwr.forced then s2.returnMain else s2

/-- AUX_LOST (R472): a MAIN that is qualified takes over what AUX carried in a forced HOLD or on the way to it (log entry 29). -/
def execAuxLost (cv : Nat) (s : State) : Host.Outcome State Fault Refusal :=
  nextS s fun s =>
    if s.d.ctl.state = 0 ∨ outsideLoss cv = false then s
    else
      let s1 := (State.supply { s with pwr := { s.pwr with auxCv := cv, auxOk := false } } 4).health 32
      if s.pwr.qualified = false then s1.powerOff 0 false false s.pwr.mainCv cv
      else if s.d.ctl.state = 7 then s1.returnMain
      else if s.d.ctl.onAux then s1.toMain
      else s1

/-- AUX_RETURNED (R476). -/
def execAuxReturned (cv : Nat) (s : State) : Host.Outcome State Fault Refusal :=
  nextS s fun s =>
    if s.d.ctl.state = 0 ∨ inBand cv = false then s
    else
      let s1 : State := { s with pwr := { s.pwr with auxCv := cv, auxOk := true, auxOpen := false } }
      if s.pwr.auxOk then s1 else s1.supply 8

/-- BOTH_INPUTS_LOST (R456, R472): both inputs have stayed outside the loss thresholds. -/
def execBothInputsLost (cv : Nat) (s : State) : Host.Outcome State Fault Refusal :=
  nextS s fun s => if outsideLoss cv then s.powerOff 0 false false cv cv else s

/-- INPUT_OVER_VOLTAGE (R457): the input is disconnected and the event recorded. -/
def execInputOverVoltage (main : Bool) (cv : Nat) (s : State) : Host.Outcome State Fault Refusal :=
  nextS s fun s =>
    if s.d.ctl.state = 0 ∨ cv ≤ 6000 then s
    else
      let p := s.pwr
      let q := if main then { p with mainCv := cv, mainOpen := true, mainOk := false, qualified := false } else { p with auxCv := cv, auxOpen := true, auxOk := false }
      (State.supply { s with pwr := q } 16).health 16

/-- INPUT_OUTSIDE_IN_RANGE_BAND (R458, R476): the input leaves its band and is not lost. MAIN is no longer qualified, and its count restarts
when it is in range again; the module keeps drawing from it, since only a loss switches over (R465). DEDUCED, log entry 58. -/
def execInputOutsideInRangeBand (main : Bool) (cv : Nat) (s : State) : Host.Outcome State Fault Refusal :=
  nextS s fun s0 =>
    let s := s0.drawMain
    if s.d.ctl.state = 0 ∨ inBand cv = true ∨ outsideLoss cv = true then s
    else if main then { s with pwr := { s.pwr with mainCv := cv, mainOk := false, qualified := false } }
    else { s with pwr := { s.pwr with auxCv := cv, auxOk := false } }

/-- THERMAL_TRIP (R506). -/
def execThermalTrip (sensor : Nat) (s : State) : Host.Outcome State Fault Refusal :=
  nextS s fun s => s.powerOff (1 + 256 * sensor) true true s.pwr.mainCv s.pwr.auxCv

/-- TRIP_RELEASE (R506): each input has stayed below 42.0 V for 1 s. -/
def execTripRelease (mainCv auxCv : Nat) (s : State) : Host.Outcome State Fault Refusal :=
  nextS s fun s =>
    if s.pwr.tripOpen = true ∧ mainCv < 4200 ∧ auxCv < 4200 then
      { s with pwr := { s.pwr with mainCv := mainCv, auxCv := auxCv, mainOpen := false, auxOpen := false, tripOpen := false, thermTrip := false } }
    else s

/-- FORCE_OFF (R509). -/
def execForceOff (s : State) : Host.Outcome State Fault Refusal :=
  nextS s fun s => s.powerOff 2 true false s.pwr.mainCv s.pwr.auxCv

/-- PRESENCE_BREAK (R512). -/
def execPresenceBreak (s : State) : Host.Outcome State Fault Refusal :=
  nextS s fun s => s.powerOff 3 true false s.pwr.mainCv s.pwr.auxCv

/-- A write of 1 to PWR_CTRL.force_aux while MAIN is qualified (R475): the switch-over runs as if MAIN were lost. In BOOT, SWATCH and FAULT,
which have no HOLD to force, MAIN counts as lost: its qualification starts anew. Without AUX it has no effect (log entry 29). -/
def State.forceAux (s0 : State) : State :=
  let s := s0.drawMain
  if s.d.ctl.state == 0 || !s.pwr.qualified || !s.pwr.auxThere then s
  else
    let s1 := s.supply 128
    if s.d.ctl.state = 7 then s1
    else if holdable s.d.ctl.state then
      let s2 : State := { s1 with pwr := { s1.pwr with forced := true } }
      if s.d.ctl.onAux then s2 else s2.switchOver
    else State.mainGone { s1 with pwr := { s1.pwr with qualified := false } }

/-- A write of 1 to PWR_CTRL.force_return (R475). -/
def State.forceReturn (s : State) : State :=
  if s.pwr.forced && s.pwr.qualified && s.d.ctl.state == 7 then s.returnMain else s

/-- FORCE_AUX (R475). -/
def execForceAux (s : State) : Host.Outcome State Fault Refusal := nextS s State.forceAux

/-- FORCE_RETURN (R475). -/
def execForceReturn (s : State) : Host.Outcome State Fault Refusal := nextS s State.forceReturn

/-! ### Clocks, cap loop, temperatures, sensors and health (R31, R474, R481, R482, R487) -/

/-- PLL_LOCK_LOSS (R31, R515): die codes 0–3 C-dies, 4–11 M-dies, 12–13 I/O dies. -/
def execPllLockLoss (die : Nat) (s : State) : Host.Outcome State Fault Refusal :=
  nextS s fun s =>
    if s.d.ctl.state = 0 then s
    else
      { s with
        pwr := { s.pwr with deadDies := if s.pwr.deadDies.contains die then s.pwr.deadDies else s.pwr.deadDies ++ [die] }
        d := (s.d.logEv 0 0x0042 0xFFFF (natLE 1 die) 0).enterFault }

/-- The cap in force: below 1,000 acts as 1,000, above 2,400 as 2,400 (R476). -/
def capOf (p : Pwr) : Nat := min 2400 (max 1000 p.cap)

/-- With cap_enable at 0, n_cap is 16 (R474). -/
def capOff (p : Pwr) : Pwr := if p.capEnable then p else { p with nCap := 16, capUnmet := false }

/-- One comparison of the cap loop (R474). -/
def capStep (p : Pwr) (avg1ms avg100us : Nat) : Pwr :=
  if !p.capEnable then capOff p
  else if 2400 < avg100us then { p with nCap := 2, capUnmet := decide (capOf p < avg1ms) && p.nCap == 2 }
  else if capOf p < avg1ms then { p with nCap := max 2 (p.nCap - 1), capUnmet := p.nCap == 2 }
  else if avg1ms + 50 < capOf p then { p with nCap := min 16 (p.nCap + 1), capUnmet := false }
  else { p with capUnmet := false }

/-- CAP_LOOP_TICK (R474): not applied on AUX (R469). -/
def execCapLoopTick (avg1ms avg100us : Nat) (s : State) : Host.Outcome State Fault Refusal :=
  nextS s fun s =>
    if s.d.ctl.state = 0 then s
    else
      let s1 : State := { s with pwr := { s.pwr with mainPower := avg1ms } }
      if s.drawMain.d.ctl.onAux then s1
      else
        let s2 : State := { s1 with pwr := capStep s1.pwr avg1ms avg100us }
        if s.pwr.capEnable && decide (2400 < avg100us) then (s2.supply 32).health 16 else s2

/-- T_throttle and T_critical of die or stack `i` of sensors 1 to 22, in units of 0.5 °C (table Thermal limits). -/
def throttleAt (i : Nat) : Nat := if i < 12 then 190 else if i < 14 then 200 else 170
def criticalAt (i : Nat) : Nat := if i < 12 then 210 else if i < 14 then 220 else 190

/-- n_thermal of R482 from the temperatures of the dies and stacks. -/
def thermalStep (n : Nat) (temps : List Nat) : Nat :=
  let ts := temps.zipIdx
  if ts.any fun t => decide (criticalAt t.2 ≤ t.1) then 2
  else if ts.any fun t => decide (throttleAt t.2 ≤ t.1) then max 2 (n - 1)
  else if ts.all fun t => decide (t.1 + 10 ≤ throttleAt t.2) then min 16 (n + 1)
  else n

/-- THERMAL_TICK (R482, R487). -/
def execThermalTick (temps : List Nat) (s : State) : Host.Outcome State Fault Refusal :=
  nextS s fun s =>
    if s.d.ctl.state = 0 then s
    else
      let n := s.pwr.nThermal
      let m := thermalStep n temps
      let crit := temps.mapIdx fun i t => decide (criticalAt i ≤ t)
      let fresh := ((crit.zipIdx).filter fun c => c.1 && !s.sec.tcrit.getD c.2 false).length
      let hot := temps.findIdx fun t => t == temps.foldl max 0
      let s1 : State := { s with pwr := { s.pwr with nThermal := m, events := if n = 16 ∧ m < 16 then s.pwr.events ||| 64 else s.pwr.events },
                                 sec := { s.sec with tcrit := crit } }
      let s2 := s1.health ((if n = 16 ∧ m < 16 then 16 else 0) + 128 * fresh)
      if m < n then { s2 with d := s2.d.logEv 2 0x0041 0xFFFF (natLE 1 hot ++ natLE 2 (temps.getD hot 0) ++ natLE 1 m) 0 } else s2

/-- Warning and critical thresholds of sensor `i` (0-based, sensors 1 to 30), in units of 0.5 °C (table Thermal limits). -/
def warningOf (i : Nat) : Nat := if i < 12 then 180 else if i < 14 then 190 else if i < 22 then 160 else if i < 28 then 210 else if i = 28 then 80 else 110
def criticalOf (i : Nat) : Nat := if i < 12 then 210 else if i < 14 then 220 else if i < 22 then 190 else if i < 28 then 250 else if i = 28 then 90 else 120

/-- SENSOR_SAMPLE (R481): 36 readings in the order of the sensor IDs; ACLK n and the health word come from the state. Each crossing
of a threshold sends an event message to the registered receiver, numbered 0x10000 plus the sensor ID. With each sample, the core
answers the PEER_ATTEST requests whose peer has gone (R478). -/
def execSensorSample (readings : List Nat) (s : State) : Host.Outcome State Fault Refusal :=
  nextS s fun s =>
    if s.d.ctl.state = 0 then s
    else
      let rs := readings.take 34 ++ [s.aclkN, s.sec.health]
      let warn := (rs.take 30).mapIdx fun i t => decide (warningOf i ≤ t)
      let crit := (rs.take 30).mapIdx fun i t => decide (criticalOf i ≤ t)
      let moved (old new : List Bool) : List Nat := (new.zipIdx.filter fun c => c.1 != old.getD c.2 false).map (·.2)
      let evs := (moved s.sec.warn warn ++ moved s.sec.crit crit).map fun i => 0x10000 + i + 1
      State.sweepAttest { s with
        sec := { s.sec with readings := rs, warn := warn, crit := crit }
        pwr := { s.pwr with mainCv := rs.getD 30 0, mainPower := rs.getD 31 0, auxCv := rs.getD 32 0, auxPower := rs.getD 33 0 }
        d := match s.d.receiver with
          | some r => { s.d with alerts := (evs.map fun e => (r, e)).reverse ++ s.d.alerts }
          | none => s.d }

/-- procedure health_tick (R487): the new score and health word. -/
def healthTick (a points floors : Nat) : Nat × Nat :=
  let x := min (a - (a + 4095) / 4096 + points * 65536) (255 * 65536)
  (x, min (floors + x / 65536) 255)

/-- A C-die with no understudy left idle: fewer than 25 of its 26 tiles usable (R20, R487). -/
def Dev.noUnderstudy (d : Dev) (c : Nat) : Bool := decide (26 < d.unusableOn c + 25)

/-- Sum of the active floors (table Health floors). -/
def State.floors (s : State) : Nat :=
  (if s.d.degraded then 128 else 0) + (if s.pwr.auxOk then 0 else 64) +
    (if (List.range 4).any s.d.noUnderstudy then 32 else 0) + (if s.d.ctl.state = 9 then 255 else 0) + s.sec.operatorFloor

/-- HEALTH_TICK (R487). -/
def execHealthTick (s : State) : Host.Outcome State Fault Refusal :=
  nextS s fun s =>
    if s.d.ctl.state = 0 then s
    else
      let t := healthTick s.sec.score s.d.points s.floors
      { s with sec := { s.sec with score := t.1, health := t.2 }, d := { s.d with points := 0 } }

/-! ### Resets (R424 to R426, R449, R461) -/

/-- Shadows that a function level reset keeps: those of MD_, PORT_, PWR_ and SEC_ registers (R424, R436). -/
def keptShadow (off : Nat) : Bool := (decide (0x300000 ≤ off) && decide (off < 0x480000)) || decide (0x1000000 ≤ off)

/-- CONVENTIONAL_RESET (R424, R449, R461): dirty lines are written back first. -/
def execConventionalReset (s : State) : Host.Outcome State Fault Refusal :=
  nextS s fun s =>
    if s.d.ctl.state = 0 then s
    else
      State.startUp { s with
        pwr := { Pwr.reset with mainCv := s.pwr.mainCv, auxCv := s.pwr.auxCv, mainOk := s.pwr.mainOk, auxOk := s.pwr.auxOk,
                                mainOpen := s.pwr.mainOpen, auxOpen := s.pwr.auxOpen, qualified := s.pwr.qualified, mainWas := s.pwr.mainWas }
        sec := s.sec.cold, d := s.d.flushAll.writeBack.warm (!s.pwr.qualified && s.pwr.auxThere) }

/-- The registers that an FLR restores: GLB_, CTL_, TILE_, SHD_ and PC_, with the configuration space (R424, R426). -/
def Dev.flrRegisters (d : Dev) (st : Nat) : Dev :=
  { d with
    ctl := { Ctl.reset with state := st, moduleId := d.ctl.moduleId, onAux := d.ctl.onAux }
    rings := [], acts := [], peers := [], inbox := []
    tiles := d.tiles.map fun e => (e.1, resetTile e.2)
    host := resetHost d.host
    gauges := []
    shadows := d.shadows.filter fun e => keptShadow e.1
    coreShadows := d.coreShadows.filter fun e => keptShadow e.1 }

/-- Orders 1 to 5 of the table Function level reset: MSI-X stops, load and drains end, LEAVE is sent, dirty lines are written back, SRAM is
filled, the registers are restored. -/
def Dev.flrOrders (d : Dev) (st : Nat) : Dev :=
  let d1 := d.setHost fun h => { h with cfg := { h.cfg with msixOn := false } }
  let d2 := d1.abandonLoad.drainsEnd.sendLeave 7
  let d3 := d2.flushAll.writeBack
  { (d3.flrRegisters st).allMdies (fun x => { x with merge := [], cache := [] }) with
    mem := d3.mem.fillSram, tableBad := [], tableReads := [], log := [] }

/-- FLR (R425, R426): in HOLD orders 1 to 5 run, and the module stays in HOLD. -/
def execFlr (s : State) : Host.Outcome State Fault Refusal :=
  nextS s fun s =>
    let st := s.d.ctl.state
    let ended := if s.d.stepOpen then s.d.stepNo else 0
    if st = 0 then s
    else if st = 1 ∨ st = 2 ∨ st = 9 then { s with d := s.d.flrRegisters st }
    else if st = 7 then { s with pwr := { s.pwr with holdReturn := 3 }, d := s.d.flrOrders 7 }
    else { s with d := ((s.d.flrOrders st).setState 3).logEv 0 0x0005 0xFFFF (natLE 8 ended) 0 }

/-! ### The host link (R420 to R422) -/

/-- Releases what waited for the host: requests in order, then held interrupts (R420). -/
def Dev.release (d : Dev) : Dev :=
  if !d.hostReady then d
  else
    let d1 := d.setHost fun h => { h with out := h.waiting.reverse ++ h.out, waiting := [], held := [] }
    d.host.held.foldl Dev.deliver d1

/-- D3HOT_ENTRY (R422). -/
def execD3hotEntry (s : State) : Host.Outcome State Fault Refusal :=
  nextD s fun d => d.setHost fun h => { h with d3hot := true }

/-- D0_RETURN (R422). -/
def execD0Return (s : State) : Host.Outcome State Fault Refusal :=
  nextD s fun d => (d.setHost fun h => { h with d3hot := false }).release

/-- BUS_MASTER_ENABLE (R413, R415, R420, R427, R428): Bus Master Enable, with what the host has set in configuration space besides. -/
def execBusMasterEnable (on : Bool) (c : HostConfig) (s : State) : Host.Outcome State Fault Refusal :=
  nextD s fun d => (d.setHost fun h => { h with busMaster := on, cfg := c }).release

/-- The AER bit of an error of the link itself (R428). -/
def linkErrorBit : LinkError → Nat
  | .receiver => aerCorrectable 0
  | .badTlp => aerCorrectable 6
  | .replayNum => aerCorrectable 8
  | .replayTimer => aerCorrectable 12
  | .dataLink => aerDataLink

/-- The host port as the link goes down: what waited is dropped, and the rings' completion events among the held interrupts are kept to be
raised again (R421). -/
def dropWaiting (h : HostPort) : HostPort :=
  { linkLost h with waiting := [], held := [], lost := h.lost ++ (h.held.filter fun x => decide (x ≤ 10) && !h.lost.contains x) }

/-- HOST_LINK_DOWN (R421, R428): the errors of the link are logged, writes that waited are dropped with their interrupts, and a host drain
ends unsuccessfully with its record dropped. -/
def execHostLinkDown (errors : List LinkError) (s : State) : Host.Outcome State Fault Refusal :=
  nextD s fun d =>
    if !d.host.linkUp then d
    else ((errors.foldl (fun d e => d.aer (linkErrorBit e) 0) d).setHost dropWaiting).hostDrainEnds

/-- HOST_LINK_UP (R413, R421): from order 4 of the table Power-up; each ring's completion event is raised again. -/
def execHostLinkUp (speed width : Nat) (s : State) : Host.Outcome State Fault Refusal :=
  nextS s fun s =>
    if s.pwr.bootOrder < 4 ∨ s.d.host.linkUp = true then s
    else
      let d1 := s.d.setHost fun h => { h with linkUp := true, speed := speed, lanes := width, lost := [] }
      { s with d := s.d.host.lost.foldl Dev.irq d1 }

/-- DOE_DISCOVERY (R413): the mailbox supports DOE discovery, CMA/SPDM and secured CMA/SPDM. The objects are those of the PCI
Express standard (log entry 30). -/
def execDoeDiscovery (index : Nat) (s : State) : Host.Outcome State Fault Refusal :=
  nextD s fun d =>
    if !d.host.linkUp then d
    else
      let data := if index < 3 then natLE 2 0x0001 ++ natLE 1 index ++ natLE 1 (if index < 2 then index + 1 else 0) else natLE 2 0xFFFF ++ zeros 2
      d.setHost fun h => { h with out := .doe (natLE 2 0x0001 ++ natLE 1 0 ++ natLE 1 0 ++ natLE 4 3 ++ data) :: h.out }

end Sys2Proof.Machine
end

