-- ==== Sys2Proof/Machine/Load.lean ====
section
/-! DEFINITION. Load.lean: the load of a pattern and the moult (R365 to R368, R378 to R387, R20 to R24, R287). -/
namespace Sys2Proof.Machine
open Sys2Proof

/-! ### Reading and verifying a container (table Load orders 2 and 3) -/

/-- The key of a slot: slot 0 from OTP unless it is disabled, the others while they are active (R367, R492). -/
def Sec.patternKey (x : Sec) (slot : Nat) : Option (List Byte) :=
  if slot = 0 then (if x.slot0Disabled then none else some (Config.otpKey x.otp 1))
  else match tlook x.slots slot with | some k => if k.1 = 1 then some k.2 else none | none => none

/-- The first byte of a read that comes from a poisoned sector. -/
def poisonFree (bs : List PB) (base : Nat) : Except PatErr Unit :=
  match bs.findIdx? (·.2) with | some i => .error ⟨0x0B, 0, base + i⟩ | none => .ok ()

/-- A container as read: header, directory and digest. -/
structure Container where
  header : Header
  sects : Tab Sect
  digest : List Byte
deriving DecidableEq, Repr

/-- Reads a container at a device address and verifies its signature. -/
def State.readContainer (s : State) (kinds : List Nat) (base : Nat) : Except PatErr Container × Dev :=
  let d := s.d
  if d.mapped base 256 = false then (.error ⟨0x02, 0, 8⟩, d)
  else
    let h := d.read base 256
    let head : Except PatErr Header := do
      poisonFree h.1 0
      parseHeader kinds s.sec.glbRev (h.1.map (·.1))
    match head with
    | .error e => (.error e, h.2)
    | .ok x =>
      if d.mapped base x.length = false then (.error ⟨0x02, 0, 8⟩, h.2)
      else
        let v := h.2.read base x.length
        let bs := v.1.map (·.1)
        let whole : Except PatErr Container := do
          poisonFree ((v.1.drop 256).take (16 * x.sections)) 256
          let sects ← parseDirectory bs x
          poisonFree v.1 0
          let sig := (tlook sects 15).getD ⟨0, 0, []⟩
          let digest := shake256 (bs.take sig.off) 64
          match s.sec.patternKey (byteAt sig.bytes 0) with
          | none => .error ⟨0x05, 0, 0⟩
          | some k => if Config.slhVerify k digest (sig.bytes.drop 64) then .ok ⟨x, tdel sects 15, digest⟩ else .error ⟨0x06, 0, 0⟩
        (whole, v.2)

/-! ### Tile faults (order 5; R22, R24) -/

/-- Physical tiles that no pattern may bind. -/
def Dev.unusable (d : Dev) (p : Nat) : Bool := let t := d.tile p; t.failed || t.fenced

/-- Binds the logical tiles of one C-die: `held` are bindings that stand; of the others, each whose tile is unusable takes its first-choice
understudy, or the other one. -/
def Dev.bindDie (d : Dev) (tiles : List TileBind) (held : Tab Nat) (c : Nat) : Tab Nat :=
  let ls := (List.range 24).map (24 * c + ·)
  let record (l : Nat) : TileBind := tiles.getD l ⟨0, 0, none⟩
  let stands (l : Nat) : Bool := thas held l && !ls.any fun k => k != l && (record k).phys == tget 0 held l
  let own := (ls.filter fun l => !stands l && !d.unusable (record l).phys).map fun l => (l, (record l).phys)
  let kept := (ls.filter stands).map fun l => (l, tget 0 held l)
  let rest := ls.filter fun l => !stands l && d.unusable (record l).phys
  let bound := ls.map fun l => (record l).phys
  let spare := ((List.range 26).map (26 * c + ·)).filter fun p => !bound.contains p && !d.unusable p
  (rest.foldl (fun (acc : Tab Nat × List Nat) l =>
    let p := if acc.2.contains (record l).first then (record l).first else acc.2.headD (record l).phys
    (tset acc.1 l p, acc.2.filter (· != p))) ((own ++ kept).foldl (fun t e => tset t e.1 e.2) [], spare.filter fun p => !kept.any fun e => e.2 == p)).1

/-- The resolved tile map, by logical tile; refused where a C-die has more unusable tiles than understudies (R24). -/
def Dev.bindTiles (d : Dev) (tiles : List TileBind) (held : Tab Nat) : Except PatErr (List Nat) :=
  match (List.range 4).find? fun c => decide (2 < d.unusableOn c) with
  | some c => .error ⟨0x09, 0, c⟩
  | none => .ok ((List.range 4).flatMap fun c => (d.bindDie tiles held c).map (·.2))

/-- A tile without work, with its counters and marks (R455). -/
def idleTile (t : Tile) (l : Option Nat) (service : Bool) : Tile :=
  { t with
    logical := l, service := service, banks := [], queue := List.replicate 4 qentry0, qHead := 0, qTail := 0, remap := [], checks := [],
    overflowChecks := [], posted := 0 }

/-- The logical tile that a resolved map gives a physical tile. -/
def heldBy (bind : List Nat) (p : Nat) : Option Nat := (bind.zipIdx.find? fun e => e.1 == p).map (·.2)

/-- Writes a resolved map: the tiles for which `fresh` holds lose their work and their scratchpad's contents. -/
def Dev.rebind (d : Dev) (tiles : List TileBind) (bind : List Nat) (fresh : Nat → Bool) : Dev :=
  let d1 := (List.range 104).foldl (fun d p =>
    let l := heldBy bind p
    let sub' := match l with | some l => ((tiles[l]?).map (·.phys)) != some p | none => false
    if fresh p then d.setTile p fun t => idleTile t l sub' else d) d
  let keep (k : Nat) : Bool := decide (k < 0xB000000000) || !fresh ((k - 0xB000000000) / 0x400000)
  { d1 with mem := { d1.mem with cells := d1.mem.cells.filter fun c => keep c.1, bad := d1.mem.bad.filter fun c => keep c.1 } }

/-! ### The load (table Load orders 6 to 9) -/

/-- The cache steps of a plan: where c changes, the M-die writes its dirty lines back first and its cache begins empty (R224). -/
def Dev.setCache (d : Dev) (steps : List Nat) : Dev :=
  (List.range 8).foldl (fun d m =>
    let c := steps.getD m 0
    if c = (d.mdie m).cacheSteps then d else (d.writeBackOf m).setMdie m fun x => { x with cacheSteps := c, cache := [] }) d

/-- A peer context without a peer: what it counts since BOOT stays (R295). -/
def freshPeer (p : Peer) : Peer := { peer0 with joins := p.joins, departures := p.departures, missedTotal := p.missedTotal }

/-- Writes the structure of a checked pattern into an empty module. A load writes bank 0 of the shard table alone (R296). -/
def Dev.install (d : Dev) (c : Checked) (bind : List Nat) (sects : Tab Sect) (digest : List Byte) (own : Nat) : Dev :=
  let d1 := d.drainsEnd.rebind c.pattern.tiles bind fun _ => true
  let d2 := d1.setCache c.pattern.cacheSteps
  let d3 := d2.setCtl fun x =>
    { x with
      pattern := some { c.pattern with digest := digest }, sections := sects, digest := digest, address := own, committed := 0, visible := false,
      written := [], storm := [], rlogHead := 0, rlog := [], mirrorQueue := [], checkFraction := c.pattern.policy.checkFraction, txn := none,
      dropped := (0, 0), deferred := none, nextIota := [], phase := [], commitDigest := [], domain := 0, frogTarget := 0, wards := [], restore := none,
      permute := none, routes := [], held := [], buckets := [], early := [], banks := tset x.banks 0 (planBank c.entries), bank := 0, generation := 0,
      mapped := c.mask, adopt := false }
  let ps := d3.peers.map fun e => (e.1, freshPeer e.2)
  { d3 with
    peers := tmod peer0 ps own fun p => { p with state := 1 }, inbox := [], gauges := [], tableReads := []
    tableBad := d3.tableBad.filter fun e => e.1 / 65536 == 1 }

/-- Ends a load with its outcome in CTL_PATTERN_STATUS (R379). -/
def Dev.loadEnds (d : Dev) (e : PatErr) (st : Nat) : Dev :=
  (d.setCtl fun c => { c with loading := none, patCode := e.code, patSection := e.sec, patOffset := e.off }).setState st

/-- Orders 2 to 9 of the table Load. -/
def State.finishLoad (s : State) (l : Loading) : State :=
  let v := s.readContainer [0] l.base
  let r : Except PatErr (Container × Checked × List Nat) := do
    let c ← v.1
    let p ← checkPattern c.sects c.header.jobId c.header.jobSeed l.addr
    let b ← v.2.bindTiles p.pattern.tiles []
    return (c, p, b)
  match r with
  | .error e => { s with d := v.2.loadEnds e l.back }
  | .ok x => { s with d := (v.2.install x.2.1 x.2.2 x.1.sects x.1.digest l.addr).loadEnds ⟨0, 0, 0⟩ 4 }

/-- Order 1: the module enters MOULT. -/
def Dev.beginLoad (d : Dev) (l : Loading) : Dev := (d.setCtl fun c => { c with loading := some l }).setState 6

/-- No descriptor but the FENCE itself is in flight, and no duplicate check is unresolved. -/
def Dev.quiet (d : Dev) (l : Loading) : Bool := (d.acts.all fun a => !l.load && a.uid == l.uid) && d.checksDone

/-- A write of the load operation (R378). -/
def Dev.askLoad (d : Dev) : Dev :=
  if d.ctl.state = 3 ∨ d.ctl.state = 4 then d.beginLoad ⟨true, 0, d.ctl.patBase, d.ctl.patAddr, d.ctl.state, false⟩
  else d.setCtl fun c => { c with patCode := 0x0F, patSection := 0, patOffset := 0 }

/-- The load in progress, once nothing is in flight. -/
def State.runLoad (s : State) : State :=
  match s.d.ctl.loading with
  | some l => if l.load && !l.ovr && s.d.ctl.state == 6 && s.d.quiet l then s.finishLoad l else s
  | none => s

/-- PATTERN_LOAD (R378): the load operation is written; the load runs once the descriptors in flight have completed. A load that is
already in progress goes on. -/
def execPatternLoad (s : State) : Host.Outcome State Fault Refusal :=
  nextS s fun s =>
    if !s.readable 0x1007C then s
    else match s.d.ctl.loading with
    | some l => if l.load then s.runLoad else { s with d := s.d.askLoad }
    | none => State.runLoad { s with d := s.d.askLoad }

/-! ### The moult (R380 to R384) -/

/-- The records of a profile or graph section whose colony holds a record in the container, replaced by the container's (R380): the
container's first, then the kept ones. -/
def mergeRecords (size : List Byte → Nat) (old new : Sect) : Sect :=
  let cut (s : Sect) : List (List Byte) := ((List.range s.count).foldl (fun (acc : List (List Byte) × List Byte) _ =>
    let n := size acc.2
    (acc.1 ++ [acc.2.take n], acc.2.drop n)) ([], s.bytes)).1
  let fresh := cut new
  let kept := (cut old).filter fun r => !fresh.any fun f => byteAt f 0 == byteAt r 0
  ⟨fresh.length + kept.length, new.off, fresh.flatten ++ kept.flatten⟩

/-- The sections of a moulted pattern; kept ones at offset 0. -/
def mergeSections (old new : Tab Sect) : Tab Sect :=
  new.foldl (fun t e =>
    let s := match tlook t e.1 with
      | some o => if e.1 = 5 then mergeRecords (fun _ => 64) o e.2 else if e.1 = 6 then mergeRecords graphBytes o e.2 else e.2
      | none => e.2
    tset t e.1 s) (old.map fun e => (e.1, { e.2 with off := 0 }))

/-- The first place at which two lists differ; none where they are equal. -/
def firstDiff {α : Type} [BEq α] : Nat → List α → List α → Option Nat
  | _, [], [] => none
  | i, a :: as, b :: bs => if a == b then firstDiff (i + 1) as bs else some i
  | i, _, _ => some i

/-- Refuses a plan section at its first field that differs and may not: the condition on each and its offset in the section. -/
def scopeAll (sec base : Nat) (l : List (Bool × Nat)) : Except PatErr Unit :=
  match l.find? fun x => !x.1 with
  | some x => .error ⟨0x0D, sec, base + x.2⟩
  | none => .ok ()

/-- A plan section repeats every field but those that may differ: cache steps, chains and routes (table Section types, R380). -/
def scopeOk (sects : Tab Sect) (old new : Pattern) (oldEntries newEntries : List (List Byte)) : Except PatErr Unit := do
  let at' (t : Nat) : Nat := match tlook sects t with | some s => s.off | none => 0
  let shards : Nat := match tlook sects 7 with | some s => field s.bytes 20 4 | none => 0
  let differs {α : Type} [BEq α] (start size : Nat) (a b : List α) : Bool × Nat :=
    match firstDiff 0 a b with | some i => (false, start + size * i) | none => (true, 0)
  scopeAll 4 (at' 4)
    [(old.rlogBase == new.rlogBase, 8), (old.rlogSize == new.rlogSize, 16), (old.regions.length == new.regions.length, 24),
     differs 64 32 old.regions new.regions]
  scopeAll 7 (at' 7)
    [(old.members.length == new.members.length, 0), (old.anchor == new.anchor, 2), (oldEntries.length == newEntries.length, 8),
     differs 64 32 old.members new.members, (old.mappedOut == new.mappedOut, 64 + 32 * new.members.length),
     differs shards 32 oldEntries newEntries]

/-- The tile units that a moult affects (R381): tiles whose map or partition record changes, and the tiles of colonies whose profiles or
graphs are replaced. -/
def affectedTile (old new : Pattern) (fresh : List Nat) (l : Nat) : Bool :=
  old.tiles[l]? != new.tiles[l]? || old.parts[l]? != new.parts[l]? ||
    (match (new.tiles[l]?).bind (·.colony) with | some k => fresh.contains k | none => false)

/-- Colonies whose profiles or graphs a container replaces. -/
def replacedColonies (c : Container) : List Nat :=
  if c.header.kind = 0 then List.range 8
  else
    let of' (t : Nat) (size : List Byte → Nat) : List Nat := match tlook c.sects t with
      | some s => ((List.range s.count).foldl (fun (acc : List Nat × List Byte) _ => (acc.1 ++ [byteAt acc.2 0], acc.2.drop (size acc.2))) ([], s.bytes)).1
      | none => []
    of' 5 (fun _ => 64) ++ of' 6 graphBytes

/-- The shard entries of a moult with a full pattern: the table of the active bank is the pattern's, with the versions kept (R380). -/
def Dev.moultShards (d : Dev) (c : Checked) : Dev :=
  let bank := (planBank c.entries).map fun e => (e.1, { e.2 with version := (d.shard e.1).version })
  { d.setCtl fun x => { x with banks := tset x.banks x.bank bank, mapped := c.mask } with
    tableBad := d.tableBad.filter fun e => e.1 / 65536 != d.ctl.bank }

/-- Orders 5 to 8 of the table Moult: affected tiles are rebound and cleared, the structure is written, STATE goes to every JOINED peer. -/
def Dev.moultStructure (d : Dev) (k : Container) (c : Checked) (old : Pattern) (bind : List Nat) (sects : Tab Sect) : Dev :=
  let fresh := replacedColonies k
  let hit (l : Nat) : Bool := affectedTile old c.pattern fresh l
  let moved (p : Nat) : Bool :=
    (d.tile p).logical != heldBy bind p || (match heldBy bind p with | some l => hit l | none => false)
  let d1 := d.rebind c.pattern.tiles bind moved
  let d2 := d1.setCache c.pattern.cacheSteps
  let digest := shake256 (d.ctl.digest ++ k.digest) 64
  let d3 := d2.setCtl fun x =>
    { x with
      pattern := some { c.pattern with digest := digest }, sections := sects, digest := digest,
      checkFraction := if k.header.kind = 0 || (tlook k.sects 8).isSome then c.pattern.policy.checkFraction else x.checkFraction }
  let d4 := if k.header.kind = 0 then d3.moultShards c else d3
  let d5 : Dev := { d4 with peers := d4.peers.map fun e => (e.1, if e.1 < c.pattern.members.length then e.2 else freshPeer e.2) }
  let d6 := d5.joined.foldl (fun d a => if (d.usable a).isEmpty then d.depart a 1 else d) d5
  d6.sendState

/-- The checks of orders 3 and 4 of the table Moult. -/
def Dev.checkMoult (d : Dev) (k : Container) (old : Pattern) : Except PatErr (Checked × List Nat × Tab Sect) := do
  let full := k.header.kind == 0
  need (full || k.header.base == d.ctl.digest) 0x0C 0 0
  need (k.header.jobId == old.jobId) 0x0D 0 16
  need (k.header.jobSeed == old.jobSeed) 0x0D 0 24
  let sects := if full then k.sects else mergeSections d.ctl.sections k.sects
  let c ← checkPattern sects old.jobId old.jobSeed d.ctl.address
  if !full then
    scopeOk k.sects old c.pattern (planEntries d.ctl.sections) c.entries
  let same (l : Nat) : Bool := old.tiles[l]? == c.pattern.tiles[l]?
  let held := (List.range 96).filterMap fun l => if same l then (d.physOf l).map fun p => (l, p) else none
  let bind ← d.bindTiles c.pattern.tiles held
  return (c, bind, sects)

/-- Detail of a completion record with a code of a refused moult: section type, and byte offset div 16 (R392). -/
def moultDetail (e : PatErr) : Nat := e.sec % 256 + 256 * (e.off / 16 % 2 ^ 24)

/-- Orders 3 to 9 of the table Moult. -/
def State.finishMoult (s : State) (l : Loading) : State :=
  let v := s.readContainer [0, 1] l.base
  let back (d : Dev) (status detail : Nat) : State :=
    { s with d := ((d.setCtl fun c => { c with loading := none }).setState l.back).finish l.uid status (some detail) }
  let refused (d : Dev) (e : PatErr) : State := back d (0x80 + e.code) (moultDetail e)
  match s.d.ctl.pattern with
  | none => refused v.2 ⟨1, 0, 0⟩
  | some old =>
    match v.1 with
    | .error e => refused v.2 e
    | .ok k =>
      match v.2.checkMoult k old with
      | .error e => refused v.2 e
      | .ok c => back (v.2.moultStructure k c.1 old c.2.1 c.2.2) 0 0

/-- The moult in progress, once nothing else is in flight. -/
def State.runMoult (s : State) : State :=
  match s.d.ctl.loading with
  | some l => if !l.load && !l.ovr && s.d.ctl.state == 6 && s.d.quiet l then s.finishMoult l else s
  | none => s

/-- The last step has closed and no drain runs (order 1 of the table Moult). -/
def Dev.moultReady (d : Dev) : Bool :=
  d.ctl.drains.isEmpty && (match d.ctl.txn with | some t => t.aborted && t.closed | none => true)

/-- FENCE moult at the head of the control ring. -/
def Dev.moultHead (d : Dev) (x : Desc) : Dev :=
  if byteAt x.bytes 16 ≠ 1 then d
  else if flagInput x.bytes then d.refuseHead 0 0x02
  else if !d.moultReady then d
  else
    let base := addr40 x.bytes 24
    if d.mapped base 256 = false then d.refuseHead 0 0x03
    else
      let st := d.start 0 x [(base, 256)] []
      st.2.beginLoad ⟨false, st.1.uid, base, 0, d.ctl.state, false⟩

/-- FENCE_MOULT (R380 to R383): the FENCE becomes eligible, and the moult runs once the descriptors in flight have completed. A moult
already in progress goes on. -/
def execFenceMoult (s : State) : Host.Outcome State Fault Refusal :=
  nextS s fun s =>
    match s.d.ctl.loading with
    | some _ => s.runMoult
    | none => State.runMoult { s with d := s.d.issue 0 0x0A false s.d.moultHead }

end Sys2Proof.Machine
end

