-- ==== Sys2Proof/Machine/Pldm.lean ====
section
/-! DEFINITION. Pldm.lean: MCTP control, PLDM base and PLDM monitoring (R477, R481). The manual names the standards; the fields of a
request or response, and the completion codes, are theirs (log entry 48). -/
namespace Sys2Proof.Machine
open Sys2Proof

/-- Bytes of a free value. -/
def freeBytes (n : Nat) (f : Nat → Byte) : List Byte := (List.range n).map f

/-- Number of the endpoint of an MCTP path. -/
def pathIndex : Path → Nat
  | .i3c => 0
  | .vdm => 1
  | .mailbox => 2
  | .doe => 3
  | .peer a => 4 + a

/-! ### MCTP control (DSP0236) -/

/-- Set Endpoint ID: operations 0 and 1 assign an ID of 1 to 254; 2 and 3 belong to endpoints of other kinds. -/
def setEid (p : Path) (op eid : Nat) (s : State) : State × List Byte :=
  if 2 ≤ op ∨ eid = 0 ∨ 255 ≤ eid then (s, natLE 1 2)
  else ({ s with sec := { s.sec with eids := tset s.sec.eids (pathIndex p) eid } }, zeros 2 ++ natLE 1 eid ++ zeros 1)

/-- Get Endpoint ID: a simple endpoint of a dynamic ID. -/
def getEid (p : Path) (s : State) : State × List Byte := (s, zeros 1 ++ natLE 1 (tget 0 s.sec.eids (pathIndex p)) ++ zeros 2)

/-- Get Endpoint UUID. -/
def getUuid (s : State) : State × List Byte := (s, zeros 1 ++ freeBytes 16 (Config.endpointUuid s.sec.otp))

/-- MCTP message types of the module: PLDM, SPDM, secured SPDM and vendor defined (table Management protocols). -/
def messageTypes : List Nat := [1, 5, 6, 0x7F]

/-- Get MCTP Version Support: one entry for MCTP itself, MCTP control, or a type of the module; 0x80 for any other type. -/
def getVersions (typ : Nat) (s : State) : State × List Byte :=
  if typ = 0xFF ∨ typ = 0 ∨ typ ∈ messageTypes then (s, zeros 1 ++ natLE 1 1 ++ freeBytes 4 (Config.mctpVersion typ)) else (s, natLE 1 0x80)

/-- Get Message Type Support. -/
def getTypes (s : State) : State × List Byte := (s, zeros 1 ++ natLE 1 messageTypes.length ++ messageTypes.flatMap (natLE 1))

/-! ### PLDM base (DSP0240) -/

/-- GetTID. -/
def tidGet (s : State) : State × List Byte := (s, zeros 1 ++ natLE 1 s.sec.tid)

/-- SetTID: 0 and 0xFF are reserved. -/
def tidSet (tid : Nat) (s : State) : State × List Byte :=
  if tid = 0 ∨ 255 ≤ tid then (s, natLE 1 2) else ({ s with sec := { s.sec with tid := tid } }, zeros 1)

/-- PLDM types of the module (table Management protocols). -/
def pldmTypes : List Nat := [0, 2, 5]

/-- GetPLDMVersion: one transfer with the version and its checksum; 0x83 for a type that the module does not have. -/
def pldmVersionGet (typ : Nat) (s : State) : State × List Byte :=
  if typ ∈ pldmTypes then (s, zeros 5 ++ natLE 1 5 ++ freeBytes 8 (Config.pldmVersion typ)) else (s, natLE 1 0x83)

/-- Bits of a set of numbers below `8 k`, as `k` bytes. -/
def bitBytes (k : Nat) (xs : List Nat) : List Byte := natLE k ((xs.map fun x => 2 ^ x).sum)

/-- GetPLDMTypes. -/
def pldmTypesGet (s : State) : State × List Byte := (s, zeros 1 ++ bitBytes 8 pldmTypes)

/-- Commands of a PLDM type that the module answers or sends (table Management protocols). -/
def pldmCommands (typ : Nat) : List Nat :=
  match typ with
  | 0 => [1, 2, 3, 4, 5]
  | 2 => [0x04, 0x0A, 0x11, 0x21, 0x31, 0x32, 0x50, 0x51]
  | 5 => [0x01, 0x02, 0x10, 0x13, 0x14, 0x15, 0x16, 0x17, 0x18, 0x1A, 0x1B, 0x1C, 0x1D]
  | _ => []

/-- GetPLDMCommands. -/
def pldmCommandsGet (typ : Nat) (s : State) : State × List Byte :=
  if typ ∈ pldmTypes then (s, zeros 1 ++ bitBytes 32 (pldmCommands typ)) else (s, natLE 1 0x83)

/-! ### PLDM monitoring (DSP0248, R481) -/

/-- Records of the PDR repository: 39 sensors and 8 effecters (tables Sensors and Effecters). -/
def pdrCount : Nat := 47

/-- GetPDRRepositoryInfo: the repository is available; its times and sizes are the module's own. -/
def pdrInfoGet (s : State) : State × List Byte :=
  (s, zeros 2 ++ freeBytes 26 Config.pdrInfo ++ natLE 4 pdrCount ++ freeBytes 9 (fun i => Config.pdrInfo (26 + i)))

/-- GetPDR: handle 0 asks for the first record; the next handle follows, 0 after the last. -/
def pdrGet (handle : Nat) (s : State) : State × List Byte :=
  let h := if handle = 0 then 1 else handle
  if pdrCount < h then (s, natLE 1 0x82)
  else (s, zeros 1 ++ natLE 4 (if h = pdrCount then 0 else h + 1) ++ zeros 4 ++ natLE 1 5 ++ natLE 2 (Config.pdr h).length ++ Config.pdr h)

/-- State of a threshold sensor: normal, above its warning threshold, above its critical one (R481). -/
def Sec.sensorState (x : Sec) (i : Nat) : Nat := if x.crit.getD i false then 9 else if x.warn.getD i false then 8 else 1

/-- GetSensorReading (R481): the newest sample of sensors 1 to 36; before the first sample the sensor is unavailable. -/
def sensorGet (id : Nat) (s : State) : State × List Byte :=
  if id = 0 ∨ 36 < id then (s, natLE 1 0x80)
  else
    let f := s.d.drawFree
    let st := s.sec.sensorState (id - 1)
    let op := if s.sec.readings.isEmpty then 3 else 0
    ({ s with d := f.2 }, zeros 1 ++ natLE 1 2 ++ natLE 1 op ++ zeros 1 ++ natLE 1 st ++ natLE 1 (Config.previousState id f.1) ++ natLE 1 st ++
      natLE 2 (s.sec.readings.getD (id - 1) 0))

/-- Power path of sensor 65: 0 on MAIN, 1 on AUX, 2 qualifying. -/
def State.powerPath (s : State) : Nat := if s.pwr.mainOk && !s.pwr.qualified then 2 else if s.drawMain.d.ctl.onAux then 1 else 0

/-- State of sensors 64 to 66 (table Sensors). -/
def State.stateSensor (s : State) (id : Nat) : Option Nat :=
  match id with
  | 64 => some s.d.ctl.state
  | 65 => some s.powerPath
  | 66 => some (b2n s.d.degraded)
  | _ => none

/-- GetStateSensorReadings (R481). -/
def stateSensorGet (id : Nat) (s : State) : State × List Byte :=
  match s.stateSensor id with
  | some v =>
    let f := s.d.drawFree
    ({ s with d := f.2 }, zeros 1 ++ natLE 1 1 ++ zeros 1 ++ natLE 1 v ++ natLE 1 (Config.previousState id f.1) ++ natLE 1 v)
  | none => (s, natLE 1 0x80)

/-- Values that an effecter takes, exclusive: those of its field (table Effecters). -/
def effecterRange (id : Nat) : Nat :=
  match id with
  | 1 => 4096
  | 2 => 32
  | 3 => 2
  | 4 => 256
  | 5 | 6 | 8 => 2 ^ 32
  | 7 => 256
  | _ => 0

/-- Setting an effecter (table Effecters): the same settings as the PWR_ registers, the operator floor and ID_LED. -/
def State.setEffecter (s : State) (id v : Nat) : State :=
  match id with
  | 1 => { s with pwr := { s.pwr with cap := v } }
  | 2 => { s with pwr := { s.pwr with maxN := v } }
  | 3 => { s with pwr := capOff { s.pwr with capEnable := v == 1 } }
  | 4 => { s with pwr := { s.pwr with qualify := v } }
  | 5 => if v = 1 then s.forceAux else s
  | 6 => if v = 1 then s.forceReturn else s
  | 7 => { s with sec := { s.sec with operatorFloor := v } }
  | 8 => { s with sec := { s.sec with idLed := min v 1 } }
  | _ => s

/-- The present setting of an effecter; the forced switch and return read 0. -/
def State.getEffecter (s : State) (id : Nat) : Nat :=
  match id with
  | 1 => s.pwr.cap
  | 2 => s.pwr.maxN
  | 3 => b2n s.pwr.capEnable
  | 4 => s.pwr.qualify
  | 7 => s.sec.operatorFloor
  | 8 => s.sec.idLed
  | _ => 0

/-- SetNumericEffecterValue. -/
def effecterSet (id v : Nat) (s : State) : State × List Byte :=
  if effecterRange id = 0 then (s, natLE 1 0x80)
  else if effecterRange id ≤ v then (s, natLE 1 2)
  else (s.setEffecter id v, zeros 1)

/-- GetNumericEffecterValue: nothing is pending, as a setting takes effect at once. -/
def effecterGet (id : Nat) (s : State) : State × List Byte :=
  if effecterRange id = 0 then (s, natLE 1 0x80)
  else (s, zeros 1 ++ natLE 1 2 ++ natLE 1 1 ++ natLE 2 (s.getEffecter id) ++ natLE 2 (s.getEffecter id))

/-- SetEventReceiver: mode 0 sends no event messages; 1 and 3 send them to the endpoint; 2, polling, is not among the module's
commands. -/
def receiverSet (mode eid : Nat) (s : State) : State × List Byte :=
  if mode = 0 then ({ s with d := { s.d with receiver := none } }, zeros 1)
  else if mode = 1 ∨ mode = 3 then ({ s with d := { s.d with receiver := some eid } }, zeros 1)
  else (s, natLE 1 2)

/-! ### The commands -/

/-- ENTDAA (R477): the dynamic address of the I3C target. -/
def execEntdaa (addr : Nat) (s : State) : Host.Outcome State Fault Refusal :=
  nextS s fun s => if s.d.ctl.state = 0 then s else { s with sec := { s.sec with dynAddr := addr } }

/-- SET_ENDPOINT_ID. -/
def execSetEndpointId (p : Path) (op eid : Nat) (s : State) : Host.Outcome State Fault Refusal :=
  nextS s fun s => s.control p 0 0x01 (setEid p op eid)

/-- GET_ENDPOINT_ID. -/
def execGetEndpointId (p : Path) (s : State) : Host.Outcome State Fault Refusal :=
  nextS s fun s => s.control p 0 0x02 (getEid p)

/-- GET_ENDPOINT_UUID. -/
def execGetEndpointUuid (p : Path) (s : State) : Host.Outcome State Fault Refusal :=
  nextS s fun s => s.control p 0 0x03 getUuid

/-- GET_MCTP_VERSION_SUPPORT. -/
def execGetMctpVersionSupport (p : Path) (typ : Nat) (s : State) : Host.Outcome State Fault Refusal :=
  nextS s fun s => s.control p 0 0x04 (getVersions typ)

/-- GET_MESSAGE_TYPE_SUPPORT. -/
def execGetMessageTypeSupport (p : Path) (s : State) : Host.Outcome State Fault Refusal :=
  nextS s fun s => s.control p 0 0x05 getTypes

/-- SET_TID. -/
def execSetTid (p : Path) (tid : Nat) (s : State) : Host.Outcome State Fault Refusal :=
  nextS s fun s => s.pldm p 0 0 0x01 (tidSet tid)

/-- GET_TID. -/
def execGetTid (p : Path) (s : State) : Host.Outcome State Fault Refusal :=
  nextS s fun s => s.pldm p 0 0 0x02 tidGet

/-- GET_PLDM_VERSION. -/
def execGetPldmVersion (p : Path) (typ : Nat) (s : State) : Host.Outcome State Fault Refusal :=
  nextS s fun s => s.pldm p 0 0 0x03 (pldmVersionGet typ)

/-- GET_PLDM_TYPES. -/
def execGetPldmTypes (p : Path) (s : State) : Host.Outcome State Fault Refusal :=
  nextS s fun s => s.pldm p 0 0 0x04 pldmTypesGet

/-- GET_PLDM_COMMANDS. -/
def execGetPldmCommands (p : Path) (typ : Nat) (s : State) : Host.Outcome State Fault Refusal :=
  nextS s fun s => s.pldm p 0 0 0x05 (pldmCommandsGet typ)

/-- GET_PDR_REPOSITORY_INFO. -/
def execGetPdrRepositoryInfo (p : Path) (s : State) : Host.Outcome State Fault Refusal :=
  nextS s fun s => s.pldm p 0 2 0x50 pdrInfoGet

/-- GET_PDR. -/
def execGetPdr (p : Path) (handle : Nat) (s : State) : Host.Outcome State Fault Refusal :=
  nextS s fun s => s.pldm p 0 2 0x51 (pdrGet handle)

/-- GET_SENSOR_READING. -/
def execGetSensorReading (p : Path) (sensor : Nat) (s : State) : Host.Outcome State Fault Refusal :=
  nextS s fun s => s.pldm p 0 2 0x11 (sensorGet sensor)

/-- GET_STATE_SENSOR_READINGS. -/
def execGetStateSensorReadings (p : Path) (sensor : Nat) (s : State) : Host.Outcome State Fault Refusal :=
  nextS s fun s => s.pldm p 0 2 0x21 (stateSensorGet sensor)

/-- SET_NUMERIC_EFFECTER_VALUE. -/
def execSetNumericEffecterValue (p : Path) (effecter val : Nat) (s : State) : Host.Outcome State Fault Refusal :=
  nextS s fun s => s.pldm p 0 2 0x31 (effecterSet effecter val)

/-- GET_NUMERIC_EFFECTER_VALUE. -/
def execGetNumericEffecterValue (p : Path) (effecter : Nat) (s : State) : Host.Outcome State Fault Refusal :=
  nextS s fun s => s.pldm p 0 2 0x32 (effecterGet effecter)

/-- SET_EVENT_RECEIVER. -/
def execSetEventReceiver (p : Path) (mode eid : Nat) (s : State) : Host.Outcome State Fault Refusal :=
  nextS s fun s => s.pldm p 0 2 0x04 (receiverSet mode eid)

end Sys2Proof.Machine
end

