-- ==== Sys2Proof/Machine/Update.lean ====
section
/-! DEFINITION. Update.lean: the firmware update over PLDM type 5 (R488 to R491). The manual names the commands of DSP0267; their
fields, completion codes and order are that standard's (log entry 48). -/
namespace Sys2Proof.Machine
open Sys2Proof

/-- Bytes of an SLH-DSA-SHAKE-256s signature (R488). -/
def signatureLen : Nat := 29792

/-- The firmware image of a byte string: a body followed by its signature (R488). -/
def firmwareOf (image : List Byte) : Firmware :=
  let body := image.take (image.length - signatureLen)
  ⟨body, Config.fwLength body, Config.fwBaseline body, Config.fwVersion body, image.drop (image.length - signatureLen)⟩

/-- Whether an image meets R489: whole, with a security version of 0 to 64, and accepted by the boot loader (R488, R489). -/
def Sec.imageOk (x : Sec) (image : List Byte) : Bool :=
  decide (signatureLen < image.length) && decide ((firmwareOf image).version ≤ 64) && x.accepts (firmwareOf image)

/-- A change of the update's stage, with its event: the stage and the security version of the image once it is whole (R491, R483). -/
def State.stage (s : State) (n : Nat) : State :=
  let v := if s.sec.upData.length = s.sec.upSize then (firmwareOf s.sec.upData).version else 0
  { s with
    sec := { s.sec with upPrev := s.sec.upStage, upStage := n }
    d := s.d.logEv 2 0x0062 0xFFFF (natLE 1 n ++ natLE 1 v) 0 }

/-- Drops what an update has gathered. -/
def State.dropImage (s : State) : State := { s with sec := { s.sec with upSize := 0, upData := [], upOk := false } }

/-! ### The commands (R491). Each answers the completion code and its data. -/

/-- QueryDeviceIdentifiers: one descriptor, the enterprise number. -/
def deviceIds (s : State) : State × List Byte :=
  (s, zeros 1 ++ natLE 4 8 ++ natLE 1 1 ++ natLE 2 1 ++ natLE 2 4 ++ natLE 4 enterprise)

/-- GetFirmwareParameters: no self-contained activation; one component. -/
def firmwareParams (s : State) : State × List Byte :=
  let f := if s.sec.runningB then s.sec.copyB else s.sec.copyA
  (s, zeros 5 ++ natLE 2 1 ++ Config.firmwareParameters f.baseline f.version s.sec.updatePending)

/-- RequestUpdate: 0x81 while an update is under way; one component. -/
def updateRequest (maxSize components : Nat) (s : State) : State × List Byte :=
  if s.sec.upStage ≠ 0 then (s, natLE 1 0x81)
  else if components ≠ 1 ∨ maxSize = 0 then (s, natLE 1 2)
  else (State.stage { s.dropImage with sec := { s.dropImage.sec with upMax := maxSize } } 1, zeros 4)

/-- PassComponentTable: 0x84 outside the stage; component 0 alone can be updated; the end flag ends the stage. -/
def passTable (comp flag : Nat) (s : State) : State × List Byte :=
  if s.sec.upStage ≠ 1 then (s, natLE 1 0x84)
  else
    let r := if comp = 0 then zeros 3 else zeros 1 ++ natLE 1 1 ++ natLE 1 6
    (if bitAt flag 2 then s.stage 2 else s, r)

/-- The request for the next bytes of the image. -/
def State.askData (s : State) (p : Path) : State :=
  let n := min s.sec.upMax (s.sec.upSize - s.sec.upData.length)
  if s.sec.upStage = 3 ∧ 0 < n then s.pldmAsk p 0x15 (natLE 4 s.sec.upData.length ++ natLE 4 n) else s

/-- UpdateComponent: the transfer starts. -/
def componentUpdate (comp size : Nat) (s : State) : State × List Byte :=
  if s.sec.upStage ≠ 2 then (s, natLE 1 0x84)
  else if comp ≠ 0 then (s, zeros 1 ++ natLE 1 1 ++ natLE 1 6 ++ zeros 6)
  else (State.stage { s with sec := { s.sec with upSize := size, upData := [], upOk := false } } 3, zeros 9)

/-- Data of RequestFirmwareData: the next bytes of the image. -/
def State.takeData (s : State) (p : Path) (data : List Byte) : State :=
  if s.sec.upStage ≠ 3 then s
  else
    let n := min s.sec.upMax (s.sec.upSize - s.sec.upData.length)
    State.askData { s with sec := { s.sec with upData := s.sec.upData ++ sub data 0 n } } p

/-- TransferComplete: once every byte has come. -/
def State.transferred (s : State) (p : Path) : State :=
  if s.sec.upStage = 3 ∧ s.sec.upData.length = s.sec.upSize then (s.stage 4).pldmAsk p 0x16 (zeros 1) else s

/-- VerifyComplete: success only when the image meets R489; otherwise the update waits to be cancelled. -/
def State.verified (s : State) (p : Path) : State :=
  if s.sec.upStage ≠ 4 then s
  else if s.sec.imageOk s.sec.upData then (s.stage 5).pldmAsk p 0x17 (zeros 1)
  else s.pldmAsk p 0x17 (natLE 1 1)

/-- Writes an image into the copy that is not running (R491). -/
def Sec.writeOther (x : Sec) (f : Firmware) : Sec := if x.runningB then { x with copyA := f } else { x with copyB := f }

/-- ApplyComplete: the image is written into the copy that is not running. -/
def State.applied (s : State) (p : Path) : State :=
  if s.sec.upStage ≠ 5 then s
  else
    let s1 : State := { s with sec := { s.sec.writeOther (firmwareOf s.sec.upData) with upOk := true } }
    (s1.stage 2).pldmAsk p 0x18 (zeros 1 ++ zeros 2)

/-- The boot of an update accepted in recovery: start-up goes on from order 3 of the table Power-up (R490). -/
def State.bootUpdate (s : State) : State :=
  let b := s.sec.activeB
  let s1 : State := { s with
    sec := s.sec.runs (if b then s.sec.copyB else s.sec.copyA) b
    d := s.d.setState 1, pwr := { s.pwr with bootOrder := 2 } }
  if s1.pwr.qualified then s1.enterSwatch else s1

/-- ActivateFirmware: the new copy becomes the active one and runs from the next conventional reset or power-on; in recovery it boots
at once (R490, R491). 0x85 while nothing is applied, 0x8C for a self-contained activation. -/
def activate (selfContained : Bool) (s : State) : State × List Byte :=
  if s.sec.upStage ≠ 2 then (s, natLE 1 0x84)
  else if !s.sec.upOk then (s, natLE 1 0x85)
  else if selfContained then (s, natLE 1 0x8C)
  else
    let s1 := State.stage { s with sec := { s.sec with activeB := !s.sec.runningB, updatePending := true } } 6
    let s2 := State.dropImage { s1 with sec := { s1.sec with upPrev := 6, upStage := 0 } }
    (if s.sec.recovery then s2.bootUpdate else s2, zeros 1 ++ natLE 2 Config.activationTime)

/-- GetStatus: the stage, the one before it, and the share of the image that has come, in per cent. -/
def updateStatus (s : State) : State × List Byte :=
  let x := s.sec
  let pct := if x.upStage = 3 ∧ 0 < x.upSize then 100 * x.upData.length / x.upSize else 0x65
  (s, zeros 1 ++ natLE 1 x.upStage ++ natLE 1 x.upPrev ++ natLE 1 (if x.upStage = 0 then 3 else 0) ++ zeros 1 ++ natLE 1 pct ++ zeros 5)

/-- CancelUpdateComponent: 0x84 outside the transfer of a component. -/
def cancelComponent (s : State) : State × List Byte :=
  if 3 ≤ s.sec.upStage ∧ s.sec.upStage ≤ 5 then (s.dropImage.stage 2, zeros 1) else (s, natLE 1 0x84)

/-- CancelUpdate: 0x80 while no update is under way. -/
def cancelAll (s : State) : State × List Byte :=
  if s.sec.upStage = 0 then (s, natLE 1 0x80) else (s.dropImage.stage 0, zeros 10)

/-- An exchange that the module starts: it takes place where the module answers PLDM type 5. -/
def State.exchange (s : State) (p : Path) (f : State → State) : State := if s.answers p (.pldm 5) then f s else s

/-- QUERY_DEVICE_IDENTIFIERS. -/
def execQueryDeviceIdentifiers (p : Path) (s : State) : Host.Outcome State Fault Refusal := nextS s fun s => s.pldm p 0 5 0x01 deviceIds

/-- GET_FIRMWARE_PARAMETERS. -/
def execGetFirmwareParameters (p : Path) (s : State) : Host.Outcome State Fault Refusal := nextS s fun s => s.pldm p 0 5 0x02 firmwareParams

/-- REQUEST_UPDATE. -/
def execRequestUpdate (p : Path) (maxSize components : Nat) (s : State) : Host.Outcome State Fault Refusal :=
  nextS s fun s => s.pldm p 0 5 0x10 (updateRequest maxSize components)

/-- PASS_COMPONENT_TABLE. -/
def execPassComponentTable (p : Path) (comp flag : Nat) (s : State) : Host.Outcome State Fault Refusal :=
  nextS s fun s => s.pldm p 0 5 0x13 (passTable comp flag)

/-- UPDATE_COMPONENT: with its answer, the request for the first bytes. -/
def execUpdateComponent (p : Path) (comp size : Nat) (s : State) : Host.Outcome State Fault Refusal :=
  nextS s fun s => (s.pldm p 0 5 0x14 (componentUpdate comp size)).exchange p fun t => if s.sec.upStage = 2 then t.askData p else t

/-- REQUEST_FIRMWARE_DATA: the update agent's answer to the module's request. -/
def execRequestFirmwareData (p : Path) (data : List Byte) (s : State) : Host.Outcome State Fault Refusal :=
  nextS s fun s => s.exchange p fun s => s.takeData p data

/-- TRANSFER_COMPLETE. -/
def execTransferComplete (p : Path) (s : State) : Host.Outcome State Fault Refusal := nextS s fun s => s.exchange p fun s => s.transferred p

/-- VERIFY_COMPLETE. -/
def execVerifyComplete (p : Path) (s : State) : Host.Outcome State Fault Refusal := nextS s fun s => s.exchange p fun s => s.verified p

/-- APPLY_COMPLETE. -/
def execApplyComplete (p : Path) (s : State) : Host.Outcome State Fault Refusal := nextS s fun s => s.exchange p fun s => s.applied p

/-- ACTIVATE_FIRMWARE. -/
def execActivateFirmware (p : Path) (selfContained : Bool) (s : State) : Host.Outcome State Fault Refusal :=
  nextS s fun s => s.pldm p 0 5 0x1A (activate selfContained)

/-- GET_STATUS. -/
def execGetStatus (p : Path) (s : State) : Host.Outcome State Fault Refusal := nextS s fun s => s.pldm p 0 5 0x1B updateStatus

/-- CANCEL_UPDATE_COMPONENT. -/
def execCancelUpdateComponent (p : Path) (s : State) : Host.Outcome State Fault Refusal := nextS s fun s => s.pldm p 0 5 0x1C cancelComponent

/-- CANCEL_UPDATE. -/
def execCancelUpdate (p : Path) (s : State) : Host.Outcome State Fault Refusal := nextS s fun s => s.pldm p 0 5 0x1D cancelAll

end Sys2Proof.Machine
end

