-- ==== Sys2Proof/Machine/Keys.lean ====
section
/-! DEFINITION. Keys.lean: the Troulara vendor commands: key records, debug unlock, attestation of a peer, and final records (R478, R480,
R492, R493, R499, R500). -/
namespace Sys2Proof.Machine
open Sys2Proof

/-! ### Random values (R499) -/

/-- `n` bytes from the root's random source, and the root that has drawn them. -/
def Sec.draw (x : Sec) (n : Nat) : List Byte × Sec := (freeBytes n (Config.random x.otp x.draws), { x with draws := x.draws + 1 })

/-! ### Key records (R492, R493) -/

/-- Bytes of a key record or of a debug token. -/
def recordLen : Nat := 29920

/-- A key record or a debug token verifies under a key: its signature is over the first 64 bytes of SHAKE256 of bytes 0 to 127 (R493,
R499). -/
def recordSigned (key b : List Byte) : Bool := Config.slhVerify key (shake256 (b.take 128) 64) (b.drop 128)

/-- Every byte of a range is 0. -/
def zeroAt (b : List Byte) (i n : Nat) : Bool := ((b.drop i).take n).all (· == 0)

/-- The fields of a key record are those of the tables Key record and Key operations; a signer byte that the operation does not take
counts with them (log entry 52). -/
def keyFieldsOk (b : List Byte) : Bool :=
  let op := byteAt b 4
  let slot := byteAt b 5
  b.length == recordLen && field b 0 4 == 0x4B594E45 && byteAt b 7 == 0 && zeroAt b 88 40 &&
    (match op with
     | 1 => (slot == 1 && byteAt b 6 == 0xFF) || (decide (2 ≤ slot) && decide (slot ≤ 7) && byteAt b 6 == 1)
     | 2 => decide (1 ≤ slot) && decide (slot ≤ 7) && byteAt b 6 == 1 && zeroAt b 24 64
     | 3 | 4 => slot == 0 && byteAt b 6 == 1 && zeroAt b 24 64
     | _ => false)

/-- The slot states that an operation needs (table Key operations): the owner key signs only while slot 1 is active. -/
def Sec.slotAllows (x : Sec) (op slot : Nat) : Bool :=
  let st := (tget (0, []) x.slots slot).1
  let owner := (tget (0, []) x.slots 1).1 == 1
  match op with
  | 1 => st != 1 && (slot == 1 || owner)
  | 2 => st == 1 && owner
  | _ => owner

/-- The key that signs a record: the record's own for an enrolment of slot 1, otherwise the owner's. -/
def Sec.signerKey (x : Sec) (b : List Byte) : List Byte := if byteAt b 6 = 1 then (tget (0, []) x.slots 1).2 else sub b 24 64

/-- The effect of a key operation (table Key operations). -/
def Sec.keyEffect (x : Sec) (b : List Byte) : Sec :=
  let slot := byteAt b 5
  match byteAt b 4 with
  | 1 => { x with slots := tset x.slots slot (1, sub b 24 64) }
  | 2 =>
    if slot = 1 then { x with slots := ((List.range 7).map (· + 1)).map fun n => (n, (2, (tget (0, []) x.slots n).2)), slot0Disabled := false }
    else { x with slots := tmod (0, []) x.slots slot fun k => (2, k.2) }
  | 3 => { x with slot0Disabled := true }
  | 4 => { x with slot0Disabled := false }
  | _ => x

/-- The status that a key record gets, in the order of the checks (R493, table Troulara command status; log entry 52). -/
def State.keyStatus (s : State) (p : Path) (b : List Byte) : Nat :=
  let op := byteAt b 4
  let slot := byteAt b 5
  if !keyFieldsOk b then 2
  else if op = 1 ∧ slot = 1 ∧ p ≠ .i3c then 5
  else if field b 8 8 ≠ 0 ∧ field b 8 8 ≠ s.d.ctl.moduleId then 4
  else if !s.sec.slotAllows op slot then 7
  else if !recordSigned (s.sec.signerKey b) b then 1
  else if field b 16 8 ≤ s.sec.keySeq then 3
  else 0

/-- KEY_RECORD (R493): a record whose status is OK applies, sets the stored sequence and leaves an event. -/
def keyRecordOp (p : Path) (b : List Byte) (s : State) : State × List Byte :=
  let st := s.keyStatus p b
  if st = 0 then
    ({ s with sec := { s.sec.keyEffect b with keySeq := field b 16 8 }
              d := s.d.logEv 2 0x0060 0xFFFF (natLE 1 (byteAt b 4) ++ natLE 1 (byteAt b 5)) 0 }, zeros 1)
  else (s, natLE 1 st)

/-- KEY_RECORD. -/
def execKeyRecord (p : Path) (bytes : List Byte) (s : State) : Host.Outcome State Fault Refusal :=
  nextS s fun s => s.vendor p 1 (keyRecordOp p bytes)

/-! ### Debug (R499, R500) -/

/-- DEBUG_CHALLENGE: a fresh nonce replaces the one before it. -/
def challengeOp (s : State) : State × List Byte :=
  let r := s.sec.draw 32
  ({ s with sec := { r.2 with nonce := some r.1 } }, zeros 1 ++ r.1)

/-- The fields of a debug token (R499). -/
def tokenFieldsOk (b : List Byte) : Bool :=
  b.length == recordLen && field b 0 4 == 0x47424445 && decide (byteAt b 4 < 16) && decide (byteAt b 5 ≤ 1) && zeroAt b 6 2 && zeroAt b 48 80

/-- The key that a token's issuer signs with: the debug key of OTP, or the owner key. -/
def Sec.issuerKey (x : Sec) (b : List Byte) : List Byte := if byteAt b 5 = 0 then Config.otpKey x.otp 2 else (tget (0, []) x.slots 1).2

/-- The status that a debug token gets (R499; log entry 52). -/
def State.tokenStatus (s : State) (b : List Byte) : Nat :=
  if !tokenFieldsOk b then 2
  else if field b 8 8 = 0 ∨ field b 8 8 ≠ s.d.ctl.moduleId then 4
  else if s.sec.nonce ≠ some (sub b 16 32) then 6
  else if byteAt b 5 = 1 ∧ (tget (0, []) s.sec.slots 1).1 ≠ 1 then 7
  else if !recordSigned (s.sec.issuerKey b) b then 1
  else 0

/-- The scope that a token grants: an owner token grants bits [1:0] only (R499). -/
def tokenScope (b : List Byte) : Nat := if byteAt b 5 = 1 then byteAt b 4 % 4 else byteAt b 4

/-- DEBUG_TOKEN: the nonce is consumed; an accepted token unlocks its scope, a refused one is counted. Scope [2] or [3] withdraws the
attestation key (R499, R500). -/
def tokenOp (b : List Byte) (s : State) : State × List Byte :=
  let st := s.tokenStatus b
  if st = 0 then
    let sc := tokenScope b
    ({ s with sec := { s.sec with nonce := none, debugScope := sc, debugOn := true, debugIssuer := byteAt b 5,
                                  attest := s.sec.attest && decide (sc < 4) }
              d := s.d.logEv 2 0x0061 0xFFFF (natLE 1 sc ++ natLE 1 (byteAt b 5)) 0 }, zeros 1)
  else ({ s with sec := { s.sec with nonce := none, debugAttempts := satAdd 16 s.sec.debugAttempts 1 } }, natLE 1 st)

/-- Debug locks (R500). -/
def State.relock (s : State) : State :=
  if s.sec.debugOn then
    { s with sec := { s.sec with debugScope := 0, debugOn := false, debugIssuer := 0 }
             d := s.d.logEv 2 0x0061 0xFFFF (zeros 1 ++ natLE 1 s.sec.debugIssuer) 0 }
  else s

/-- DEBUG_RELOCK's answer. -/
def relockOp (s : State) : State × List Byte := (s.relock, zeros 1)

/-- DEBUG_CHALLENGE. -/
def execDebugChallenge (p : Path) (s : State) : Host.Outcome State Fault Refusal := nextS s fun s => s.vendor p 2 challengeOp

/-- DEBUG_TOKEN. -/
def execDebugToken (p : Path) (bytes : List Byte) (s : State) : Host.Outcome State Fault Refusal := nextS s fun s => s.vendor p 3 (tokenOp bytes)

/-- DEBUG_RELOCK: the vendor command on a path, or, with no path, a write of SEC_DEBUG.relock (R500). -/
def execDebugRelock (p : Option Path) (s : State) : Host.Outcome State Fault Refusal :=
  nextS s fun s => match p with
    | some p => s.vendor p 4 relockOp
    | none => s.barWrite 0x1010004 .good false State.relock

/-! ### Attestation of a peer (R478, R480) -/

/-- PEER_ATTEST: the request goes to a JOINED peer in MGMT_MCTP; the answer waits for the peer's. Only a GET_MEASUREMENTS request is
relayed (log entry 52). -/
def State.peerAttest (s : State) (p : Path) (body : List Byte) : State :=
  if !s.answers p .vendor then s
  else
    let a := field body 0 2
    let refuse (n : Nat) : State := s.respond p 0x7F (natLE 4 enterprise ++ natLE 1 5 ++ natLE 1 n)
    if byteAt body 3 ≠ 0xE0 then refuse 2
    else if (s.d.peer a).state ≠ 3 then refuse 8
    else
      { s with sec := { s.sec with attestWait := s.sec.attestWait ++ [(a, p)] }
               d := s.d.send a 6 0xA0 0 (natLE 1 5) (clean (body.drop 2)) }

/-- PEER_ATTEST. -/
def execPeerAttest (p : Path) (body : List Byte) (s : State) : Host.Outcome State Fault Refusal := nextS s fun s => s.peerAttest p body

/-! ### Final records (R472, R478) -/

/-- A final record as READ_FLASH_RECORDS carries it: step, state, cause (log entry 28). -/
def finalBytes (f : Nat × Nat × Nat) : List Byte := natLE 8 f.1 ++ natLE 1 f.2.1 ++ natLE 4 f.2.2

/-- READ_FLASH_RECORDS: the last 16 final records, newest first. -/
def finalsOp (s : State) : State × List Byte := (s, zeros 1 ++ (s.sec.finals.take 16).flatMap finalBytes)

/-- READ_FLASH_RECORDS. -/
def execReadFlashRecords (p : Path) (s : State) : Host.Outcome State Fault Refusal := nextS s fun s => s.vendor p 6 finalsOp

end Sys2Proof.Machine
end

