-- ==== Sys2Proof/Machine/RegRead.lean ====
section
/-! DEFINITION. RegRead.lean: the registers of BAR0 as a reader finds them: decoding, aliases, layouts and shadows (R430 to R455,
R128, R156, R181, R214, R252, R272, R294, R295, R333, R334, R476, R501). -/
namespace Sys2Proof.Machine
open Sys2Proof

/-- What a word of BAR0 is to a reader: a value, the low word of a 64-bit value with a shadow (R436), or the high word that shows
the shadow of the low word at an offset. A location without a register reads 0 (R442). -/
inductive RegWord where
  | word (v : Nat)
  | low (v : Nat)
  | high (off : Nat)
deriving DecidableEq, Repr

/-! ### Decoding (R439 to R443) -/

/-- Words of group g of a tile block; 0 where it holds no register (table Register groups). -/
def tileGroup (g : Nat) : Nat := match g with | 0 => 4 | 4 => 12 | 5 => 12 | 6 => 11 | 7 => 11 | _ => 0

/-- Words of group g of an M-die block. -/
def mdieGroup (g : Nat) : Nat := match g with | 0 => 1 | 1 => 12 | 2 => 11 | _ => 0

/-- procedure decode_replicated (R439): group and word. -/
def decodeReplicated (n : Nat → Nat) (o : Nat) : Nat × Nat :=
  let q := o % 4096
  let g := if n (q / 256) = 0 then 0 else q / 256
  let w := q / 4 % 16
  (g, if n g ≤ w then w % n g else w)

/-- The offset that an aliased offset reaches (R439 to R441). -/
def canonical (off : Nat) : Nat :=
  if 0x100000 ≤ off ∧ off < 0x2A0000 then
    let t := (off - 0x100000) / 0x4000
    let x := decodeReplicated tileGroup (off % 0x4000)
    0x100000 + 0x4000 * t + 256 * x.1 + 4 * x.2
  else if 0x300000 ≤ off ∧ off < 0x380000 then
    let m := (off - 0x300000) / 0x10000
    let x := decodeReplicated mdieGroup (off % 0x10000)
    0x300000 + 0x10000 * m + 256 * x.1 + 4 * x.2
  else if 0x400000 ≤ off ∧ off < 0x480000 then off / 0x4000 * 0x4000 + off % 0x40 / 4 * 4
  else off / 4 * 4


/-! ### Global and control blocks (R447, R448, R450, R451, R453) -/

/-- Physical tiles fenced or marked by the swatch. -/
def Dev.unusableCount (d : Dev) : Nat := ((List.range 4).map d.unusableOn).sum

/-- Bits of a list of truth values, the first lowest. -/
def bitsOf (l : List Bool) : Nat := (l.zipIdx.map fun b => if b.1 then 2 ^ b.2 else 0).sum

/-- GLB_STATUS. -/
def State.glbStatus (s : State) : Nat :=
  let c := s.d.ctl
  c.state + 16 * b2n s.d.stepOpen + 32 * b2n s.drawMain.d.ctl.onAux + 64 * b2n s.d.degraded + 128 * b2n c.pattern.isSome +
    256 * (match c.pattern with | some p => bitsOf ((List.range 8).map (thas p.colonies)) | none => 0) + 65536 * s.d.unusableCount

/-- An event-log entry's 64 bytes (table Event entry). -/
def evBytes (e : Ev) : List Byte :=
  natLE 8 e.seq ++ natLE 8 e.step ++ natLE 1 e.plane ++ natLE 1 e.severity ++ natLE 2 e.code ++ natLE 2 e.unit ++ zeros 2 ++
    sub e.payload 0 32 ++ natLE 8 (e.addr % 2 ^ 40)

/-- The empty slot of the event log. -/
def ev0 : Ev := ⟨0, 0, 0, 0, 0, 0, [], 0⟩

/-- Words of the global block (R447, MSI-X table and pending bits of R427). -/
def State.readGlobal (s : State) (off : Nat) : RegWord :=
  if off = 0x00 then .word 0x4E477A31
  else if off = 0x04 then .word s.sec.glbRev
  else if off = 0x08 then .word s.glbStatus
  else if off = 0x10 then .low s.d.ctl.moduleId
  else if off = 0x14 then .high 0x10
  else if off = 0x18 then .word s.d.host.irqMask
  else if off = 0x1C then .word s.d.host.irqPending
  else if 0x20 ≤ off ∧ off < 0x40 then
    let i := (off - 0x20) / 4
    .word (((List.range 4).map fun j => 256 ^ j * s.d.host.irqVector.getD (4 * i + j) 0).sum)
  else if off = 0x40 then .low s.d.logSeq
  else if off = 0x44 then .high 0x40
  else if 0x8000 ≤ off ∧ off < 0x9000 then .word (tget 0 s.d.host.msixTable ((off - 0x8000) / 4))
  else if 0x9000 ≤ off ∧ off < 0x9020 then .word (bitsOf ((List.range 32).map fun i => thas s.d.host.msixPend (32 * ((off - 0x9000) / 4) + i)))
  else .word 0

/-- CTL_STEP_STATUS. -/
def Dev.stepStatus (d : Dev) : Nat :=
  let c := d.ctl
  let t (f : Txn → Nat) : Nat := match c.txn with | some t => if t.aborted then 0 else f t | none => 0
  b2n d.stepOpen + 2 * t (fun x => b2n x.pledged) + 4 * t (fun x => b2n x.committing) + 8 * b2n (decide (c.committed < c.frogTarget)) +
    16 * b2n (c.drains.any fun x => !x.host) + 32 * b2n (c.drains.any (·.host)) + 256 * t (·.ends)

/-- Words of ring r (R451). The phase bit is that of the next completion record, from the ring's first enable on (R10). -/
def Dev.readRing (d : Dev) (r o : Nat) : Nat :=
  let x := d.ring r
  match o with
  | 0x00 => x.base % 2 ^ 32
  | 0x04 => x.base / 2 ^ 32
  | 0x08 => x.cplBase % 2 ^ 32
  | 0x0C => x.cplBase / 2 ^ 32
  | 0x10 => x.ctrl + b2n x.enable
  | 0x14 => b2n x.enable + 2 * b2n x.halted + 4 * b2n (x.gen != 0 && x.retired / x.sSize % 2 == 0) + 256 * x.haltCode + 65536 * (x.haltAt % x.sSize)
  | 0x18 => x.head % x.sSize
  | 0x1C => x.tail % x.size
  | 0x20 => x.retired % x.sSize + 65536 * (d.acts.filter fun a => a.ring == r).length
  | _ => 0

/-- A gauge of colony k (R453): word pairs 0 to 15 count the edges of a phase, 16 to 31 those with n below 16. -/
def Dev.gauge (d : Dev) (k i : Nat) : Nat :=
  let g := tget (0, 0) d.gauges (16 * k + i % 16)
  if i < 16 then g.1 else g.2

/-- The step's TXN_END of colony k has executed, and the step is open (R410). -/
def Dev.colonyEnded (d : Dev) (k : Nat) : Bool := match d.ctl.txn with | some t => !t.aborted && bitAt t.ends k | none => false

/-- COMMIT stands at the head of the control ring while a drain runs (R63). -/
def Dev.commitDrains (d : Dev) : Bool := !d.ctl.drains.isEmpty && ((d.ring 0).queue.head?.any fun x => kindOf x.bytes == 0x0D)

/-- A tile of colony k runs a ladder repeat, or a GEMM on a widened tensor of the fall-back region (R185, R192). -/
def Dev.fallBackRuns (d : Dev) (k : Nat) : Bool :=
  d.acts.any fun a => a.ring == k + 1 && a.parts.any fun q =>
    (q.unit && decide (q.startRung < q.rung) && !q.resolved && !q.reported) || ((q.opA.inRegion || q.opB.inRegion) && decide (q.drained < q.total))

/-- A tile of colony k runs check work (R205). -/
def Dev.checksRun (d : Dev) (k : Nat) : Bool := (d.members k).any fun l => !(d.logical l).checks.isEmpty

/-- The phase that an edge of colony k counts in: the first that applies (R485). -/
def Dev.gaugePhase (d : Dev) (k : Nat) : Nat :=
  if d.ctl.state = 7 then 14
  else if (d.ring (k + 1)).halted then 13
  else if d.colonyEnded k && d.commitDrains then 6
  else if d.colonyEnded k then 12
  else if d.fallBackRuns k then 7
  else if d.checksRun k then 8
  else if !d.stepOpen && d.ringIdle (k + 1) then 0
  else tget 15 d.ctl.phase k

/-- ACLK edges pass while no command waits: as many as a free value says, on every defined colony (R484, R486; log entry 17). -/
def State.tick (s : State) : State :=
  let throttled := decide (s.aclkN < 16)
  match s.d.ctl.pattern with
  | none => s
  | some p =>
    let d1 := ((List.range 8).filter (thas p.colonies)).foldl (fun (d : Dev) k =>
      let n := Config.timing k s.d.free
      let i := 16 * k + s.d.gaugePhase k
      let g := tget (0, 0) d.gauges i
      { d with gauges := tset d.gauges i ((g.1 + n) % 2 ^ 64, if throttled then (g.2 + n) % 2 ^ 64 else g.2) }) s.d
    { s with d := { d1 with free := s.d.free + 1 } }

/-- A 64-bit register with a shadow at `base`. -/
def pairAt (base off v : Nat) : RegWord := if off = base then .low v else .high base

/-- A 64-bit register that the driver writes. -/
def plainAt (base off v : Nat) : RegWord := .word (if off = base then v % 2 ^ 32 else v / 2 ^ 32)

/-- Words of the control block (R450, R451, R453). -/
def State.readControl (s : State) (off : Nat) : RegWord :=
  let c := s.d.ctl
  let o := off - 0x10000
  if o = 0x00 then .word s.d.stepStatus
  else if o = 0x08 ∨ o = 0x0C then pairAt 0x10008 off c.committed
  else if o = 0x10 then .word (c.checkFraction + 8 * b2n c.sumCheck)
  else if o = 0x14 then .word (c.llInterval + 65536 * c.llHealth + 2 ^ 24 * c.llOwn)
  else if o = 0x18 ∨ o = 0x1C then
    pairAt 0x10018 off (c.abortCause + 256 * c.abortOrigin + 65536 * c.abortCount + 2 ^ 32 * (c.abortStep % 2 ^ 32))
  else if o = 0x20 ∨ o = 0x24 then pairAt 0x10020 off c.frogTarget
  else if o = 0x28 ∨ o = 0x2C then pairAt 0x10028 off c.llLast
  else if o = 0x30 ∨ o = 0x34 then plainAt 0x10030 off c.hostBase
  else if o = 0x38 ∨ o = 0x3C then plainAt 0x10038 off c.hostSlotSize
  else if o = 0x40 then .word c.hostSlots
  else if o = 0x44 then .word c.rlogSkipped
  else if o = 0x48 ∨ o = 0x4C then pairAt 0x10048 off c.rlogHead
  else if o = 0x50 ∨ o = 0x54 then plainAt 0x10050 off c.mirrorBase
  else if o = 0x58 ∨ o = 0x5C then plainAt 0x10058 off c.mirrorSize
  else if o = 0x60 ∨ o = 0x64 then plainAt 0x10060 off c.mirrorTail
  else if o = 0x68 ∨ o = 0x6C then pairAt 0x10068 off c.mirrorHead
  else if o = 0x70 ∨ o = 0x74 then plainAt 0x10070 off c.patBase
  else if o = 0x78 then .word c.patAddr
  else if o = 0x80 then .word (c.patCode + 256 * b2n (match c.loading with | some l => l.load && !l.ovr | none => false) + 65536 * c.patSection)
  else if o = 0x84 then .word c.patOffset
  else if o = 0x88 ∨ o = 0x8C then pairAt 0x10088 off (match c.pattern with | some p => p.jobId | none => 0)
  else if 0x100 ≤ o ∧ o < 0x140 then .word (field c.digest (o - 0x100) 4)
  else if 0x200 ≤ o ∧ o < 0x300 then .word (tget 0 c.sems ((o - 0x200) / 4))
  else if 0x1000 ≤ o ∧ o < 0x12C0 then .word (s.d.readRing ((o - 0x1000) / 0x40) (o % 0x40))
  else if 0x4000 ≤ o ∧ o < 0x4800 then pairAt (off / 8 * 8) off (s.d.gauge ((o - 0x4000) / 0x100) (o % 0x100 / 8))
  else .word 0

/-! ### Tiles and M-dies (R128, R156, R181, R214, R252, R272, R455) -/

/-- TILE_INFO of physical tile p. -/
def Dev.tileInfo (d : Dev) (p : Nat) : Nat :=
  let t := d.tile p
  let col := t.logical.bind d.colonyOf
  let role := if t.failed then 5 else if t.fenced then 4 else if t.service then 3 else if t.logical.isSome then 1 else if d.ctl.pattern.isSome then 2 else 0
  t.logical.getD 0x7F + 256 * col.getD 0 + 2048 * b2n col.isSome + 4096 * role

/-- The started GEMMs that hold work for a logical tile. -/
def Dev.gemmParts (d : Dev) (l : Option Nat) : List (Active × Part) :=
  match l with
  | none => []
  | some l => (d.acts.filter fun a => kindOf a.bytes == 1).flatMap fun a =>
      (a.parts.filter fun q => q.tile == l && decide (q.drained < q.total)).map fun q => (a, q)

/-- A GEMM streams an operand that is not local (R412). -/
def streamsOperand (a : Active) : Bool := !bitAt (byteAt a.bytes 23) 7 || !bitAt (byteAt a.bytes 31) 7

/-- Words of a tile block. -/
def Dev.readTile (d : Dev) (p base g w : Nat) : RegWord :=
  let t := d.tile p
  let work := d.gemmParts t.logical
  let off := base + 256 * g + 4 * w
  match g, w with
  | 0, 0 => .word (d.tileInfo p)
  | 0, 1 => .word (b2n (t.logical.any fun l => (d.segmentJob l false).isSome || (d.segmentJob l true).isSome) +
      2 * b2n (work.any fun x => streamsOperand x.1))
  | 0, 2 | 0, 3 => pairAt (base + 8) off t.dmaBytes
  | 4, 0 => .word (256 * t.castProfile + 65536 * t.castTrigger)
  | 4, 1 => .word t.castPanels
  | 4, 2 | 4, 3 => pairAt (base + 0x408) off t.castSat
  | 4, 4 | 4, 5 => pairAt (base + 0x410) off t.castCrush
  | 4, 6 | 4, 7 => pairAt (base + 0x418) off t.castNonfin
  | 4, 8 | 4, 9 => pairAt (base + 0x420) off t.castOutlier
  | 4, 10 => .word t.castOvf
  | 4, 11 => .word t.castPoison
  | 5, 0 => .word (b2n (!work.isEmpty) + 2 * b2n (thas t.banks 0) + 4 * b2n (thas t.banks 1) +
      8 * (t.queue.filter fun e => e.state != 0).length + 64 * b2n (t.meReference && !work.isEmpty) + 256 * t.meProfile + 65536 * t.meEvent)
  | 5, 1 => .word (t.meConfig + 65536 * t.meO)
  | 5, 2 | 5, 3 => pairAt (base + 0x508) off t.meMac
  | 5, 4 | 5, 5 => pairAt (base + 0x510) off t.meSkip
  | 5, 6 => .word t.meOut
  | 5, 7 => .word t.meSat
  | 5, 8 => .word t.meNonfin
  | 5, 9 => .word t.mePoison
  | 5, 10 => .word t.meRescale
  | 5, 11 => .word t.meRange
  | 6, 0 => .word (2 * b2n t.seDrain + 256 * t.seGraph + 65536 * t.seStages + 2 ^ 24 * t.seRate)
  | 6, 1 => .word ((((List.range 4).map fun e => 4 ^ e * (t.queue.getD e qentry0).state).sum) + 256 * t.qHead + 1024 * t.qTail +
      4096 * (t.queue.filter fun e => e.state != 0).length)
  | 6, 2 | 6, 3 => pairAt (base + 0x608) off t.seElems
  | 6, 4 | 6, 5 => pairAt (base + 0x610) off t.seStall
  | 6, 6 => .word t.seRuns
  | 6, 7 => .word t.seSat
  | 6, 8 => .word t.seNonfin
  | 6, 9 => .word t.sePoison
  | 6, 10 => .word t.seRngOp
  | 7, 0 => .word (b2n (d.acts.any fun a => a.parts.any fun q => q.unit && !q.resolved && !q.reported && some q.tile == t.logical) + 2 * t.ldRung +
      16 * t.ldTriggers + 256 * b2n t.ldInRegion + 65536 * t.remap.length)
  | 7, 1 => .word (t.checks.length + (match t.logical with
      | some l =>
        let own := d.ownChecks l
        16 * min 127 own.length + 2048 * b2n ((thas t.banks 0 || thas t.banks 1) && own.any fun c => decide (c.ordinal + 64 ≤ t.posted))
      | none => 0) + 4096 * t.lastOutcome + 65536 * ((t.logical.bind d.partnerOf).getD t.partner))
  | 7, 2 => .word t.ldRepeats
  | 7, 3 => .word t.ldReports
  | 7, 4 => .word t.ldSplits
  | 7, 5 => .word ((t.remap.filter fun r => !r.inRegion).map fun r => r.recSize * r.recs).sum
  | 7, 6 => .word ((t.remap.filter (·.inRegion)).map fun r => r.recs).sum
  | 7, 7 => .word t.sumFails
  | 7, 8 => .word t.dupCnt
  | 7, 9 => .word t.dupMismatch
  | 7, 10 => .word t.partnerCnt
  | _, _ => .word 0

/-- Update entries with a group queued on M-die m (R272). -/
def Dev.updatesQueued (d : Dev) (m : Nat) : Nat :=
  (d.ctl.buckets.map fun b => ((b.queued m).map fun g => (groupPlace b.entries 0 g 0).1).eraseDups.length).sum

/-- Words of an M-die block; `hold` says that order 6 of the table Switch-over is under way. The rated pin rate is at least 128 (R215), a
free value beyond that. -/
def Dev.readMdie (d : Dev) (hold : Bool) (m base g w : Nat) : RegWord :=
  let x := d.mdie m
  let off := base + 256 * g + 4 * w
  match g, w with
  | 0, 0 => .word (m + 256 * 16 + 65536 * (128 + Config.ratedRate m % 128) + 2 ^ 24 * 125)
  | 1, 0 => .word (b2n x.trained + 2 * b2n x.fillDone + 4 * b2n (x.trained && x.cacheSteps != 0) + 8 * b2n (x.trained && x.scrubEnable) +
      16 * b2n (d.repairs.any (fun r => r.1.mdie == m) || d.retires.any fun r => r.1.mdie == m) +
      32 * b2n (hold && x.cache.any fun y => y.dirty != 0))
  | 1, 1 => .word (x.cacheSteps + 16 * (8 - x.cacheSteps))
  | 1, 2 => .word (b2n x.scrubEnable + 2 * b2n x.scrubLlm + 16 * x.scrubInterval)
  | 1, 3 => .word x.scrubPos
  | 1, 4 => .word x.parityCnt
  | 1, 5 => .word x.poisonReads
  | 1, 6 | 1, 7 => pairAt (base + 0x118) off (x.errAddr % 2 ^ 40 + 2 ^ 40 * x.errFails)
  | 1, 8 => .word (x.merge.length + 65536 * x.poisonedMerges)
  | 1, 9 => .word (x.repaired.length + 65536 * x.noSpare)
  | 1, 10 => .word (d.retired.length + 16384 * b2n d.degraded)
  | 1, 11 => .word (b2n x.selfDone + 2 * b2n x.selfPass + 256 * x.selfFirst)
  | 2, 0 =>
    let n := d.updatesQueued m
    .word ((if n = 0 then 0 else 7) + 256 * min 255 n + 65536 * x.nmeLayer)
  | 2, 1 => .word x.nmeShare
  | 2, 2 | 2, 3 => pairAt (base + 0x208) off x.nmeLaneOps
  | 2, 4 | 2, 5 => pairAt (base + 0x210) off x.nmeAccum
  | 2, 6 => .word x.nmeGroups
  | 2, 7 => .word x.nmeRepeats
  | 2, 8 => .word x.nmeSat
  | 2, 9 => .word x.nmeNonfin
  | 2, 10 => .word x.nmePoison
  | _, _ => .word 0

/-! ### Ports, peers, shards (R294, R295, R333, R334) -/

/-- Words of a port block. -/
def Dev.readPort (d : Dev) (p base o : Nat) : RegWord :=
  let x := d.port p
  match o with
  | 0x00 => .word (x.link + 8 * widthCode x.width + 32 * x.group + 128 * b2n x.reversed + 256 * x.locked + 2 ^ 17 * x.replay.length)
  | 0x04 => .word (b2n x.enable + 2 * x.maxField)
  | 0x08 => .word x.arb
  | 0x0C => .word (x.partnerAddr + 4096 * b2n x.partnerValid + 8192 * b2n x.partnerSwitch)
  | 0x10 | 0x14 => pairAt (base + 0x10) (base + o) x.partnerId
  | 0x18 | 0x1C => pairAt (base + 0x18) (base + o) x.fecCorr
  | 0x20 => .word x.fecUncorr
  | 0x24 => .word x.crcErr
  | 0x28 => .word x.replays
  | 0x2C => .word x.linkDowns
  | 0x30 => .word x.poisonTx
  | 0x34 => .word x.poisonRx
  | 0x38 => .word (bitsOf (x.queues.map fun q => !q.isEmpty) + 256 * (if x.isUp then bitsOf (x.credits.map (· == 0)) else 0))
  | 0x3C => .word x.err
  | _ => .word 0

/-- The member record of a fabric address. -/
def Dev.member (d : Dev) (a : Nat) : Option Member := match d.ctl.pattern with | some p => p.members[a]? | none => none

/-- Words of a peer context (R295). -/
def Dev.readPeer (d : Dev) (a base o : Nat) : RegWord :=
  let x := d.peer a
  let loaded := d.ctl.pattern.isSome
  let buddy := match d.member d.ctl.address with | some m => loaded && m.buddy == a | none => false
  let anchor := match d.ctl.pattern with | some p => p.anchor == a | none => false
  let rt := d.route a
  match o with
  | 0x00 => .word (x.state + 256 * b2n x.onAux + 512 * b2n x.stranded + 1024 * b2n buddy + 2048 * b2n anchor + 4096 * b2n (d.member a).isSome +
      65536 * x.cause)
  | 0x04 => .word (((rt.zipIdx.map fun e => 32 ^ e.2 * e.1).sum) + 2 ^ 20 * rt.length + 2 ^ 23 * bitsOf (rt.map d.up))
  | 0x08 | 0x0C => pairAt (base + 8) (base + o) x.moduleId
  | 0x10 | 0x14 => pairAt (base + 0x10) (base + o) x.jobId
  | 0x18 => .word (x.missed + 65536 * x.missedTotal)
  | 0x1C => .word (x.joins + 65536 * x.departures)
  | o => if 0x20 ≤ o then .word (x.tx.getD ((o - 0x20) / 4) 0 % 65536 + 65536 * (x.rx.getD ((o - 0x20) / 4) 0 % 65536)) else .word 0

/-- The 32 bytes of a shard entry (table Shard entry, R297). -/
def shardBytes (x : Shard) : List Byte :=
  natLE 2 x.tensor ++ natLE 2 x.shard ++ natLE 2 x.owner ++ natLE 2 (b2n x.valid + 2 * b2n x.epoch) ++ natLE 8 x.addr ++ natLE 8 x.len ++ natLE 8 x.version

/-- Words of the shard table. -/
def Dev.readShard (d : Dev) (off : Nat) : RegWord :=
  let o := off - 0x800000
  let b := shardBytes (d.shardAt (o / 0x200000) (o % 0x200000 / 0x20))
  let k := o % 0x20
  if k < 8 then .word (field b k 4) else pairAt (off / 8 * 8) off (field b (k / 8 * 8) 8)

/-- Words of the shard registers. -/
def Dev.readShd (d : Dev) (off : Nat) : RegWord :=
  let c := d.ctl
  match off - 0xC00000 with
  | 0x00 => .word (c.bank + 2 * b2n c.permute.isSome + 4 * b2n (match c.permute with | some p => p.adopt | none => false) + 65536 * c.generation)
  | 0x04 => .word ((List.range 4096).filter fun i => c.mapped.testBit i).length
  | 0x08 => .low c.gatherBytes
  | 0x0C => .high 0xC00008
  | 0x10 => .word c.staleCnt
  | 0x14 => .word c.expertOvf
  | 0x18 => .word c.expertDrop
  | 0x1C => .word c.rerunCnt
  | 0x20 => .word c.absentCnt
  | _ => .word 0

/-! ### The privileged block (R476, R501) -/

/-- Words of the power registers. -/
def State.readPwr (s0 : State) (o : Nat) : Nat :=
  let s := s0.drawMain
  let p := s.pwr
  match o with
  | 0x00 => b2n p.mainOk + 2 * b2n p.auxOk + 4 * b2n s.d.ctl.onAux + 8 * b2n (p.mainOk && !p.qualified) + 16 * b2n (decide (p.nCap < 16)) +
      32 * b2n p.capUnmet + 64 * b2n (decide (p.nThermal < 16)) + 128 * b2n (p.forced && s.d.ctl.state == 7)
  | 0x04 => b2n p.capEnable + 256 * p.qualify
  | 0x08 => p.cap
  | 0x0C => p.maxN + 256 * s.aclkN + 65536 * p.nCap + 2 ^ 24 * p.nThermal
  | 0x10 => p.events
  | 0x14 => p.mainPower % 65536 + 65536 * (p.mainCv % 65536)
  | 0x18 => p.auxPower % 65536 + 65536 * (p.auxCv % 65536)
  | 0x1C => p.toAux + 65536 * p.returns
  | _ => 0

/-- State of key slot n: slot 0 is active or disabled (R492). -/
def Sec.slotState (x : Sec) (n : Nat) : Nat := if n = 0 then (if x.slot0Disabled then 3 else 1) else (tget (0, []) x.slots n).1

/-- SEC_DEBUG bits [15:0]. -/
def Sec.debugBits (x : Sec) : Nat := x.debugScope + 16 * b2n x.debugOn + 256 * x.debugIssuer

/-- Words of the security registers. -/
def State.readSec (s : State) (o : Nat) : Nat :=
  let x := s.sec
  if o = 0 then
    b2n x.runningB + 2 * b2n x.recovery + 4 * b2n x.updatePending + 8 * b2n x.slot0Disabled + 16 * b2n (x.slotState 1 == 1) + 32 * b2n x.attest +
      64 * b2n x.debugOn + 256 * x.otpVersion + 65536 * x.health
  else if o = 4 then x.debugBits + 65536 * x.debugAttempts
  else if o = 8 then ((List.range 8).map fun n => 4 ^ n * x.slotState n).sum
  else if 0x40 ≤ o ∧ o < 0x80 then field x.fwDigest (o - 0x40) 4
  else 0

/-- Words of the mailbox. -/
def State.readMbx (s : State) (o : Nat) : Nat :=
  let m := s.sec.mbx
  if o = 0 then b2n m.toBusy + 2 * b2n m.fromReady + 4 * m.fromBuf.length + 16384 * b2n m.fromFirst + 32768 * b2n m.fromLast
  else if o = 4 then m.toLength + 4096 * b2n m.toFirst + 8192 * b2n m.toLast
  else if 0x1000 ≤ o ∧ o < 0x2000 then tget 0 m.toBuf ((o - 0x1000) / 4)
  else if 0x2000 ≤ o ∧ o < 0x3000 then field m.fromBuf (o - 0x2000) 4
  else 0

/-! ### A read (R430, R433, R436, R437) -/

/-- The word at an offset of BAR0 (R443). -/
def State.regWord (s : State) (off0 : Nat) : RegWord :=
  let off := canonical off0
  if !s.readable off then .word 0
  else if off < 0x10000 then s.readGlobal off
  else if off < 0x20000 then s.readControl off
  else if off < 0x40000 then
    let o := off - 0x20000
    .word (field (evBytes (tget ev0 s.d.log (o / 64))) (o % 64) 4)
  else if 0x100000 ≤ off ∧ off < 0x2A0000 then
    let p := (off - 0x100000) / 0x4000
    s.d.readTile p (0x100000 + 0x4000 * p) (off % 0x4000 / 256) (off % 256 / 4)
  else if 0x300000 ≤ off ∧ off < 0x380000 then
    let m := (off - 0x300000) / 0x10000
    s.d.readMdie (s.pwr.switchStage == 2) m (0x300000 + 0x10000 * m) (off % 0x10000 / 256) (off % 256 / 4)
  else if 0x400000 ≤ off ∧ off < 0x480000 then
    let p := (off - 0x400000) / 0x4000
    s.d.readPort p (0x400000 + 0x4000 * p) (off % 0x4000)
  else if 0x500000 ≤ off ∧ off < 0x540000 then
    let a := (off - 0x500000) / 0x40
    s.d.readPeer a (0x500000 + 0x40 * a) (off % 0x40)
  else if 0x800000 ≤ off ∧ off < 0xC00000 then s.d.readShard off
  else if 0xC00000 ≤ off ∧ off < 0xC10000 then s.d.readShd off
  else if 0x1000000 ≤ off ∧ off < 0x1010000 then .word (s.readPwr (off - 0x1000000))
  else if 0x1010000 ≤ off ∧ off < 0x1020000 then .word (s.readSec (off - 0x1010000))
  else if 0x1020000 ≤ off ∧ off < 0x1030000 then .word (s.readMbx (off - 0x1020000))
  else .word 0

/-- Shadows of a reader: the driver's or the management core's (R437). -/
def Dev.shadowsOf (d : Dev) (core : Bool) : Tab Nat := if core then d.coreShadows else d.shadows

/-- The value a read returns. -/
def State.readValue (s : State) (core : Bool) (off : Nat) : Nat :=
  match s.regWord off with
  | .word v => v % 2 ^ 32
  | .low v => v % 2 ^ 32
  | .high l => tget 0 (s.d.shadowsOf core) l

/-- The shadow latch of a read of a low word (R436). -/
def State.latch (s : State) (core : Bool) (off : Nat) : Dev :=
  match s.regWord off with
  | .low v =>
    if core then { s.d with coreShadows := tset s.d.coreShadows (canonical off) (v / 2 ^ 32 % 2 ^ 32) }
    else { s.d with shadows := tset s.d.shadows (canonical off) (v / 2 ^ 32 % 2 ^ 32) }
  | _ => s.d

/-- A BAR0 request of more than one DW, one that is not aligned to 4 bytes, or one beyond the 64 MiB of BAR0, is an Unsupported Request
(R415, R416). -/
def bar0Refused (off dws : Nat) : Bool := dws != 1 || off % 4 != 0 || decide (0x4000000 ≤ off)

/-- A read of the driver (R421, R422, R428, R429): none arrives while the link is down; one that is dropped gets no completion; an Unsupported
Request gets one with status UR. -/
def State.barRead (s : State) (tag off : Nat) (tlp : Tlp) (bad : Bool) (f : State → State) : State :=
  if !s.d.host.linkUp then s
  else match dropError tlp with
    | some e => { s with d := s.d.aer e off }
    | none => if !s.d.barOpen || bad then { s with d := s.d.unsupported (some tag) off } else f s

/-- BAR0_RS_READ (R416, R431, R436): the driver's read returns its value in a completion, 0 from BAR4; the management core has its own path
and shadows. -/
def execBar0RsRead (tag off : Nat) (req : Request) (s : State) : Host.Outcome State Fault Refusal :=
  let answer (v : Nat) (d : Dev) : Dev := d.setHost fun h => { h with out := .value tag v :: h.out }
  nextS s fun s =>
    match req with
    | .core => { s with d := s.latch true off }
    | .bar0 dws tlp => s.barRead tag off tlp (bar0Refused off dws) fun s => { s with d := answer (s.readValue false off) (s.latch false off) }
    | .bar4 tlp => s.barRead tag off tlp false fun s => { s with d := answer 0 s.d }

/-! ### Configuration space and the debug path (R36, R413 to R415, R445, R499) -/

/-- The identity of the function that configuration space shows (R413, R414, R445). -/
structure ConfigHeader where
  vendorId : Nat
  deviceId : Nat
  revisionId : Nat
  classCode : Nat
  serialNumber : Nat
deriving DecidableEq, Repr

/-- The configuration header and the Device Serial Number of the module. -/
def State.configHeader (s : State) : ConfigHeader := ⟨0x7A31, 0x4E47, s.sec.glbRev / 2 ^ 24, 0x120000, s.d.ctl.moduleId⟩

/-- The BARs, by number: size as a power of two, and prefetchable (table BARs). -/
def State.barSizes (s : State) : List (Nat × Nat × Bool) := [(0, 26, false), (2, s.d.host.cfg.bar2Log2, true), (4, 16, false)]

/-- A debug unlock of scope [1] is in force (R499). -/
def State.debugOpen (s : State) : Bool := s.sec.debugOn && bitAt s.sec.debugScope 1

/-- A sector of stack memory or of a tile scratchpad on the debug path (R36): read only, and only under scope [1]. -/
def State.debugSector (s : State) (key : Nat) : Option Sector :=
  if s.debugOpen && (decide (key < stackEnd) || decide (scratchKey 0 0 ≤ key)) then some (s.d.mem.sector (key / 64 * 64)) else none

/-- The trace under a debug unlock of scope [0]: the control-plane events of the event-log window, oldest first (R499; log entry 160). -/
def State.debugTrace (s : State) : List Ev :=
  if s.sec.debugOn && bitAt s.sec.debugScope 0 then
    ((List.range 2048).filterMap fun i => tlook s.d.log ((s.d.logSeq + i) % 2048)).filter fun e => e.plane == 0
  else []

/-- What an SRAM table holds (R226). -/
inductive TableEntry where
  | shards (l : List Shard)
  | route (ports : List Nat)
  | peer (p : Peer)
  | remap (l : List Remap)
deriving DecidableEq, Repr

/-- An entry of an SRAM table on the debug path, by kind and index as `tableKey` counts them (R36; log entry 160). -/
def State.debugTable (s : State) (kind i : Nat) : Option TableEntry :=
  if !s.debugOpen then none
  else match kind with
    | 0 | 1 => some (.shards [s.d.shardAt kind (2 * i), s.d.shardAt kind (2 * i + 1)])
    | 2 => some (.route (s.d.route i))
    | 3 => some (.peer (s.d.peer i))
    | 4 => some (.remap (s.d.tile i).remap)
    | _ => none

end Sys2Proof.Machine
end

