-- ==== Sys2Proof/Machine/Attest.lean ====
section
/-! DEFINITION. Attest.lean: the SPDM 1.3 responder: versions, capabilities, algorithms, certificates, measurements, sessions, chunks
and the keys of the link IDE stream (R494 to R498, R500). Field places, codes and errors of the messages are those of DSP0274, DSP0277
and the IDE key management of PCI Express, which the manual names (log entries 51 and 53). -/
namespace Sys2Proof.Machine
open Sys2Proof

/-! ### Connections -/

/-- A path with no connection: the requester's transfer size is the module's own until it states one. -/
def spdm0 (p : Path) : Spdm :=
  { path := p, stage := 0, transferSize := 4096, keyExchange := false, vca := [], certs := [], meas := [], keys := [], session := 0,
    sessionId := 0, secret := 0, peerKey := [], keyReq := 0, keyRsp := 0, seqRsp := 0, chunkIn := [], chunkInHandle := 0, chunkInSeq := 0,
    chunkInSize := 0, chunkOut := [], chunkOutHandle := 0, chunkOutSeq := 0 }

/-- The connection of a path. -/
def State.conn (s : State) (p : Path) : Spdm := (s.sec.spdm.find? fun c => c.path == p).getD (spdm0 p)

/-- Replaces the connection of a path. -/
def State.setConn (s : State) (c : Spdm) : State := { s with sec := { s.sec with spdm := c :: s.sec.spdm.filter fun x => x.path != c.path } }

/-- A draw of random bytes. -/
def State.draw (s : State) (n : Nat) : List Byte × State := let r := s.sec.draw n; (r.1, { s with sec := r.2 })

/-! ### Messages -/

/-- The header of a response of SPDM 1.3. -/
def rsp (code p1 p2 : Nat) : List Byte := natLE 1 0x13 ++ natLE 1 code ++ natLE 1 p1 ++ natLE 1 p2

/-- An ERROR response. -/
def spdmErr (code data : Nat) : List Byte := rsp 0x7F code data

/-- Error codes: InvalidRequest, UnexpectedRequest, Unspecified, DecryptError, UnsupportedRequest, SessionLimitExceeded,
SessionRequired, LargeResponse. -/
def errInvalid : List Byte := spdmErr 0x01 0
def errUnexpected : List Byte := spdmErr 0x04 0
def errUnspecified : List Byte := spdmErr 0x05 0
def errDecrypt : List Byte := spdmErr 0x06 0
def errUnsupported (code : Nat) : List Byte := spdmErr 0x07 code
def errSessionLimit : List Byte := spdmErr 0x0A 0
def errSession : List Byte := spdmErr 0x0B 0

/-- The longest message that goes to a requester in one transfer (R495). -/
def Spdm.limit (c : Spdm) : Nat := min 4096 c.transferSize

/-- A response as it goes out in `room` bytes: one that is too long waits to be fetched in chunks, and ERROR LargeResponse with its handle
goes instead (R495). -/
def State.fit (s : State) (p : Path) (room : Nat) (r : List Byte) : State × List Byte :=
  let c := s.conn p
  if r.length ≤ room then (s, r)
  else
    let h := (c.chunkOutHandle + 1) % 256
    (s.setConn { c with chunkOut := r, chunkOutHandle := h, chunkOutSeq := 0 }, spdmErr 0x0F 0 ++ natLE 1 h)

/-- Sends a response: plain, or sealed under the keys of its session, those of the handshake until it has finished. -/
def State.spdmSend (s : State) (p : Path) (sealed : Bool) (before : Spdm) (r : List Byte) : State :=
  let t := s.fit p (s.conn p).limit r
  if !sealed then t.1.respond p 5 t.2
  else
    let c := t.1.conn p
    let gen := if before.session = 1 then 0 else c.keyRsp
    (t.1.setConn { c with seqRsp := c.seqRsp + 1 }).respond p 6
      (natLE 4 before.sessionId ++ Config.aeadSeal before.secret before.peerKey gen c.seqRsp t.2)

/-- Answers a request on a path: `sealed` says that it came in a session. -/
def State.spdm (s : State) (p : Path) (sealed : Bool) (f : State → State × List Byte) : State :=
  if s.answers p .spdm then (let r := f s; r.1.spdmSend p sealed (s.conn p) r.2) else s

/-! ### Signatures (R494, R496, R500) -/

/-- Bytes of an SLH-DSA-SHAKE-256f signature (FIPS 205). -/
def attestLen : Nat := 49856

/-- The SPDM signing prefix: the version prefix four times, then the context at the end of 36 bytes. -/
def signPrefix (context : String) : List Byte :=
  let b (t : String) : List Byte := t.toUTF8.toList.map fun x => x.toBitVec
  (List.replicate 4 (b "dmtf-spdm-v1.3.*")).flatten ++ zeros (36 - (b context).length) ++ b context

/-- A signature over the signing prefix and the 64-byte transcript hash (R496), drawn from the random source. -/
def State.sign (s : State) (context : String) (transcript : List Byte) : List Byte × State :=
  (freeBytes attestLen (Config.attestSign s.sec.otp s.sec.draws (signPrefix context ++ shake256 transcript 64)),
   { s with sec := { s.sec with draws := s.sec.draws + 1 } })

/-- The chain of certificate slot 0 (R494). -/
def State.chain (s : State) : List Byte := Config.certChain s.sec.otp s.d.ctl.moduleId

/-! ### Measurements (R497, R498) -/

/-- Measurement block 8 (R498): 59 bytes. -/
def State.hardwareRecord (s : State) : List Byte :=
  let map := (List.range 104).filter fun p => let t := s.d.tile p; t.failed || t.fenced
  let entries := s.d.retired.flatMap fun e => natLE 8 (65536 * e.1) ++ natLE 8 (0x8FE0000000 + 65536 * e.2)
  natLE 4 0x4E477A31 ++ natLE 8 s.d.ctl.moduleId ++ bitBytes 13 map ++ natLE 2 s.d.retired.length ++ sub (shake256 entries 64) 0 32

/-- States and keys of the key slots in slot order, as they are hashed for block 6 (log entry 51). -/
def Sec.slotBytes (x : Sec) : List Byte :=
  (List.range 8).flatMap fun n => natLE 1 (x.slotState n) ++ sub (if n = 0 then Config.otpKey x.otp 1 else (tget (0, []) x.slots n).2) 0 64

/-- Value type, whether raw, and value of a measurement block (table Measurement blocks). -/
def State.measurement (s : State) (i : Nat) : Nat × Bool × List Byte :=
  match i with
  | 1 => (0, false, freeBytes 64 Config.romDigest)
  | 2 => (1, false, sub s.sec.fwDigest 0 64)
  | 3 => (6, true, natLE 4 s.sec.glbRev)
  | 4 => (7, true, natLE 1 s.sec.otpVersion)
  | 5 => (3, false, sub s.d.ctl.digest 0 64)
  | 6 => (3, false, shake256 s.sec.slotBytes 64)
  | 7 => (5, true, natLE 2 s.sec.debugBits)
  | _ => (2, true, s.hardwareRecord)

/-- A block in the DMTF measurement specification format: index, specification, size; value type with its raw bit, size, value. -/
def measureBlock (i : Nat) (v : Nat × Bool × List Byte) : List Byte :=
  natLE 1 i ++ natLE 1 1 ++ natLE 2 (v.2.2.length + 3) ++ natLE 1 (v.1 + 128 * b2n v.2.1) ++ natLE 2 v.2.2.length ++ v.2.2

/-- The blocks that an index asks for (R497). -/
def measureIndexes (i : Nat) : List Nat := if i = 0xFF then [1, 2, 3, 4, 5, 6, 7, 8] else if 1 ≤ i ∧ i ≤ 8 then [i] else []

/-- The measurement record of a list of blocks. -/
def State.record (s : State) (is : List Nat) : List Byte := is.flatMap fun i => measureBlock i (s.measurement i)

/-- The measurement summary hash that a request asks for: none for 0, the boot loader and the firmware for 1, every block for 0xFF. -/
def State.summary (s : State) (t : Nat) : Option (List Byte) :=
  match t with
  | 0 => some []
  | 1 => some (shake256 (s.record [1, 2]) 64)
  | 0xFF => some (shake256 (s.record (measureIndexes 0xFF)) 64)
  | _ => none

/-! ### The requests -/

/-- GET_VERSION: SPDM 1.3; the connection starts anew. -/
def spdmVersion (p : Path) (s : State) : State × List Byte :=
  let r := natLE 1 0x10 ++ natLE 1 4 ++ zeros 3 ++ natLE 1 1 ++ natLE 2 0x1300
  (s.setConn { spdm0 p with stage := 1, chunkOutHandle := (s.conn p).chunkOutHandle, vca := natLE 1 0x10 ++ natLE 1 0x84 ++ zeros 2 ++ r }, r)

/-- The capabilities of the module: CERT, CHAL, MEAS with signature, ENCRYPT, MAC, KEY_EX, HBEAT, KEY_UPD and CHUNK (R495). -/
def capabilities : Nat := 2 ^ 1 + 2 ^ 2 + 2 ^ 4 + 2 ^ 6 + 2 ^ 7 + 2 ^ 9 + 2 ^ 13 + 2 ^ 14 + 2 ^ 17

/-- GET_CAPABILITIES: CTExponent 15, DataTransferSize 4,096, MaxSPDMmsgSize 65,536 (R495). The least transfer size is 42. -/
def spdmCapabilities (p : Path) (req : List Byte) (s : State) : State × List Byte :=
  let c := s.conn p
  if c.stage ≠ 1 then (s, errUnexpected)
  else if field req 12 4 < 42 then (s, errInvalid)
  else
    let r := rsp 0x61 0 0 ++ zeros 1 ++ natLE 1 15 ++ zeros 2 ++ natLE 4 capabilities ++ natLE 4 4096 ++ natLE 4 65536
    (s.setConn { c with stage := 2, transferSize := field req 12 4, vca := c.vca ++ req ++ r }, r)

/-- The algorithm structures of a NEGOTIATE_ALGORITHMS request: type and what it supports. -/
def algStructs : Nat → List Byte → List (Nat × Nat)
  | 0, _ => []
  | k + 1, b => (byteAt b 0, field b 2 2) :: algStructs k (b.drop (4 + 4 * (byteAt b 1 % 16)))

/-- What the module selects of a structure: P-384, AES-256-GCM, the SPDM key schedule (R496). -/
def algSelect (x : Nat × Nat) : Option (Nat × Nat) :=
  match x.1 with
  | 2 => some (2, x.2 &&& 0x10)
  | 3 => some (3, x.2 &&& 2)
  | 5 => some (5, x.2 &&& 1)
  | _ => none

/-- An extended algorithm: registry IANA and algorithm ID (R496). -/
def extAlg (id : Nat) : List Byte := natLE 1 4 ++ zeros 1 ++ natLE 2 id

/-- The extended algorithms that a request offers: `n` entries from byte `i`. -/
def offers (req : List Byte) (i n id : Nat) : Bool := (List.range n).any fun k => (req.drop (i + 4 * k)).take 4 == extAlg id

/-- NEGOTIATE_ALGORITHMS (R496): no base algorithm; the extended algorithms that the request offers, or ERROR UnsupportedRequest where
it offers neither. -/
def spdmAlgorithms (p : Path) (req : List Byte) (s : State) : State × List Byte :=
  let c := s.conn p
  if c.stage ≠ 2 then (s, errUnexpected)
  else
    let na := byteAt req 28
    let nh := byteAt req 29
    let asym := offers req 32 na 1
    let hash := offers req (32 + 4 * na) nh 2
    if !asym && !hash then (s, errUnsupported 0xE3)
    else
      let sel := (algStructs (byteAt req 2) (req.drop (32 + 4 * (na + nh)))).filterMap algSelect
      let ext := (if asym then extAlg 1 else []) ++ (if hash then extAlg 2 else [])
      let tail := sel.flatMap fun x => natLE 1 x.1 ++ natLE 1 0x20 ++ natLE 2 x.2
      let r := rsp 0x63 sel.length 0 ++ natLE 2 (36 + ext.length + tail.length) ++ natLE 1 (byteAt req 6 &&& 1) ++ zeros 25 ++ natLE 1 (b2n asym) ++
        natLE 1 (b2n hash) ++ zeros 2 ++ ext ++ tail
      let has (t v : Nat) : Bool := sel.contains (t, v)
      (s.setConn { c with stage := 3, keyExchange := has 2 0x10 && has 3 2 && has 5 1, vca := c.vca ++ req ++ r }, r)

/-- GET_DIGESTS: slot 0 alone is supported and provisioned (R494). -/
def spdmDigests (p : Path) (s : State) : State × List Byte :=
  let c := s.conn p
  if c.stage ≠ 3 then (s, errUnexpected)
  else
    let r := rsp 1 1 1 ++ shake256 s.chain 64
    (s.setConn { c with certs := c.certs ++ rsp 0x81 0 0 ++ r }, r)

/-- GET_CERTIFICATE: a portion of the chain in slot 0 (R494). -/
def spdmCertificate (p : Path) (slot off len : Nat) (s : State) : State × List Byte :=
  let c := s.conn p
  if c.stage ≠ 3 then (s, errUnexpected)
  else if slot ≠ 0 ∨ s.chain.length ≤ off then (s, errInvalid)
  else
    let n := min len (s.chain.length - off)
    let r := rsp 2 0 0 ++ natLE 2 n ++ natLE 2 (s.chain.length - off - n) ++ (s.chain.drop off).take n
    (s.setConn { c with certs := c.certs ++ rsp 0x82 slot 0 ++ natLE 2 off ++ natLE 2 len ++ r }, r)

/-- CHALLENGE: signed with the attestation key, or ERROR Unspecified once that is withdrawn (R495, R500). -/
def spdmChallenge (p : Path) (req : List Byte) (s : State) : State × List Byte :=
  let c := s.conn p
  if c.stage ≠ 3 then (s, errUnexpected)
  else match s.summary (byteAt req 3) with
    | none => (s, errInvalid)
    | some sum =>
      if byteAt req 2 ≠ 0 ∨ req.length < 44 then (s, errInvalid)
      else if !s.sec.attest then (s, errUnspecified)
      else
        let n := s.draw 32
        let body := rsp 3 0 1 ++ shake256 s.chain 64 ++ n.1 ++ sum ++ zeros 2 ++ sub req 36 8
        let g := n.2.sign "responder-challenge_auth signing" (c.vca ++ c.certs ++ req ++ body)
        (g.2.setConn { c with certs := [], meas := [] }, body ++ g.1)

/-- GET_MEASUREMENTS (R497): the count of blocks, all of them, or one; with a signature where the request asks for it. A peer's request
in MGMT_MCTP needs no negotiation before it (R480; log entry 51). -/
def spdmMeasurements (p : Path) (req : List Byte) (s : State) : State × List Byte :=
  let c := s.conn p
  let signed := bitAt (byteAt req 2) 0
  let i := byteAt req 3
  let isPeer := match p with | .peer _ => true | _ => false
  if c.stage ≠ 3 && !isPeer then (s, errUnexpected)
  else if req.length < (if signed then 45 else 12) || (i != 0 && (measureIndexes i).isEmpty) || (signed && byteAt req 36 % 16 != 0) then
    (s, errInvalid)
  else if signed && !s.sec.attest then (s, errUnspecified)
  else
    let rec' := s.record (measureIndexes i)
    let n := s.draw 32
    let body := rsp 0x60 (if i = 0 then 8 else 0) 0 ++ natLE 1 (measureIndexes i).length ++ natLE 3 rec'.length ++ rec' ++ n.1 ++ zeros 2 ++
      sub req (if signed then 37 else 4) 8
    if signed then
      let g := n.2.sign "responder-measurements signing" (c.vca ++ c.meas ++ req ++ body)
      (g.2.setConn { c with meas := [] }, body ++ g.1)
    else (n.2.setConn { c with meas := c.meas ++ req ++ body }, body)

/-! ### Sessions (R496) -/

/-- HMAC over the extended hash: RFC 2104 with a block size of 136 bytes and 64 bytes of output (R496). -/
def hmac (key msg : List Byte) : List Byte :=
  let k := sub (if 136 < key.length then shake256 key 64 else key) 0 136
  shake256 (k.map (· ^^^ 0x5C) ++ shake256 (k.map (· ^^^ 0x36) ++ msg) 64) 64

/-- One derivation of the SPDM key schedule: 64 bytes for a label and a context (DSP0274; log entry 51). -/
def deriveKey (secret : List Byte) (label : String) (context : List Byte) : List Byte :=
  let b (t : String) : List Byte := t.toUTF8.toList.map fun x => x.toBitVec
  hmac secret (natLE 2 64 ++ b "spdm1.3 " ++ b label ++ context ++ natLE 1 1)

/-- The verification data of a direction over a transcript hash: the finished key of the direction's handshake secret, which comes from the
Diffie-Hellman secret and the hash of the key exchange. -/
def verifyData (draw : Nat) (peer : List Byte) (responder : Bool) (th1 transcript : List Byte) : List Byte :=
  let handshake := hmac (zeros 64) (freeBytes 48 (Config.dheSecret draw peer))
  let direction := deriveKey handshake (if responder then "rsp hs data" else "req hs data") th1
  hmac (deriveKey direction "finished" []) transcript

/-- The hash of the key exchange of a session: the transcript up to the responder's verification data. -/
def exchangeHash (keys : List Byte) : List Byte := shake256 (keys.take (keys.length - 64)) 64

/-- KEY_EXCHANGE: one session on each path; the handshake is not in the clear, so the answer carries verification data. -/
def spdmKeyExchange (p : Path) (req : List Byte) (s : State) : State × List Byte :=
  let c := s.conn p
  if c.stage ≠ 3 || !c.keyExchange then (s, errUnexpected)
  else if c.session ≠ 0 then (s, errSessionLimit)
  else match s.summary (byteAt req 2) with
    | none => (s, errInvalid)
    | some sum =>
      if byteAt req 3 ≠ 0 ∨ req.length < 138 then (s, errInvalid)
      else if !s.sec.attest then (s, errUnspecified)
      else
        let id := s.draw 2
        let n := id.2.draw 32
        let secret := n.2.sec.draws
        let dhe := freeBytes 96 (Config.dhePublic s.sec.otp secret)
        let s3 : State := { n.2 with sec := { n.2.sec with draws := secret + 1 } }
        let body := rsp 0x64 Config.heartbeatPeriod 0 ++ id.1 ++ zeros 2 ++ n.1 ++ dhe ++ sum ++ zeros 2
        let th := c.vca ++ shake256 s.chain 64 ++ req ++ body
        let g := s3.sign "responder-key_exchange_rsp signing" th
        let peer := sub req 40 96
        let th1 := shake256 (th ++ g.1) 64
        let r := body ++ g.1 ++ verifyData secret peer true th1 th1
        (g.2.setConn { c with session := 1, sessionId := field req 4 2 + 65536 * leNat id.1, secret := secret, peerKey := peer, keyReq := 0,
                              keyRsp := 0, seqRsp := 0, keys := c.vca ++ shake256 s.chain 64 ++ req ++ r }, r)

/-- FINISH: the requester's verification data must be that of the session; mutual authentication is not supported (R495). -/
def spdmFinish (p : Path) (req : List Byte) (s : State) : State × List Byte :=
  let c := s.conn p
  if c.session ≠ 1 then (s, errSession)
  else if bitAt (byteAt req 2) 0 then (s, errInvalid)
  else if (req.drop 4).take 64 ≠ verifyData c.secret c.peerKey false (exchangeHash c.keys) (shake256 (c.keys ++ req.take 4) 64) then
    (s.setConn { c with session := 0 }, errDecrypt)
  else
    let r := rsp 0x65 0 0
    (s.setConn { c with session := 2, keyReq := 1, keyRsp := 1, keys := c.keys ++ req ++ r }, r)

/-- A request of a finished session, by its session ID. -/
def inSession (p : Path) (sid : Nat) (f : Spdm → State → State × List Byte) (s : State) : State × List Byte :=
  let c := s.conn p
  if c.session = 2 ∧ c.sessionId = sid then f c s else (s, errSession)

/-- END_SESSION. -/
def spdmEnd (p : Path) (sid : Nat) : State → State × List Byte :=
  inSession p sid fun c s => (s.setConn { c with session := 0 }, rsp 0x6C 0 0)

/-- HEARTBEAT. -/
def spdmHeartbeat (p : Path) (sid : Nat) : State → State × List Byte := inSession p sid fun _ s => (s, rsp 0x68 0 0)

/-- KEY_UPDATE: operation 1 renews the requester's key, 2 both, 3 verifies the new one. -/
def spdmKeyUpdate (p : Path) (sid op tag : Nat) : State → State × List Byte :=
  inSession p sid fun c s =>
    match op with
    | 1 => (s.setConn { c with keyReq := c.keyReq + 1 }, rsp 0x69 op tag)
    | 2 => (s.setConn { c with keyReq := c.keyReq + 1, keyRsp := c.keyRsp + 1, seqRsp := 0 }, rsp 0x69 op tag)
    | 3 => (s, rsp 0x69 op tag)
    | _ => (s, errInvalid)

/-- RESPOND_IF_READY: no response of the module is ever deferred. -/
def spdmReady (s : State) : State × List Byte := (s, errUnexpected)

/-! ### IDE_KM (R413, R495; log entry 53) -/

/-- The header of an answer that carries an IDE_KM object. -/
def ideRsp (obj : List Byte) : List Byte := rsp 0x7E 0 0 ++ natLE 2 3 ++ natLE 1 2 ++ natLE 2 1 ++ natLE 2 (1 + obj.length) ++ zeros 1 ++ obj

/-- An IDE_KM object for the link IDE stream at port 0: a query, a key, the start or the stop of a key. -/
def ideObject (b : List Byte) (s : State) : State × List Byte :=
  let key := byteAt b 5
  let set (f : Tab (List Byte × Bool) → Tab (List Byte × Bool)) : State :=
    { s with d := s.d.setHost fun h => { h with ideKeys := f h.ideKeys } }
  match byteAt b 0 with
  | 0 => (s, ideRsp (natLE 1 1 ++ freeBytes 16 Config.ideQuery))
  | 2 =>
    let status := if b.length ≠ 47 then 1 else if byteAt b 6 ≠ 0 then 2 else 0
    (if status = 0 then set fun t => tset t key (sub b 7 40, false) else s,
     ideRsp (natLE 1 3 ++ zeros 2 ++ natLE 1 (byteAt b 3) ++ natLE 1 status ++ natLE 1 key ++ natLE 1 (byteAt b 6)))
  | 4 =>
    (if thas s.d.host.ideKeys key then set fun t => tset t key ((tget ([], false) t key).1, true) else s,
     ideRsp (natLE 1 6 ++ zeros 2 ++ natLE 1 (byteAt b 3) ++ zeros 1 ++ natLE 1 key ++ natLE 1 (byteAt b 6)))
  | 5 =>
    (set fun t => tdel t key, ideRsp (natLE 1 6 ++ zeros 2 ++ natLE 1 (byteAt b 3) ++ zeros 1 ++ natLE 1 key ++ natLE 1 (byteAt b 6)))
  | _ => (s, errInvalid)

/-- VENDOR_DEFINED_REQUEST: IDE_KM of PCI-SIG alone, in a session over DOE (R413, R495). -/
def spdmVendor (p : Path) (sid : Nat) (req : List Byte) (s : State) : State × List Byte :=
  if p ≠ .doe ∨ field req 4 2 ≠ 3 ∨ byteAt req 6 ≠ 2 ∨ field req 7 2 ≠ 1 ∨ byteAt req 11 ≠ 0 then (s, errUnsupported 0xFE)
  else inSession p sid (fun _ s => ideObject (req.drop 12) s) s

/-! ### Dispatch and chunks (R495) -/

/-- A request by its code: every supported one but the chunk requests. -/
def spdmRequest (p : Path) (req : List Byte) (s : State) : State × List Byte :=
  let sid := (s.conn p).sessionId
  match byteAt req 1 with
  | 0x84 => spdmVersion p s
  | 0xE1 => spdmCapabilities p req s
  | 0xE3 => spdmAlgorithms p req s
  | 0x81 => spdmDigests p s
  | 0x82 => spdmCertificate p (byteAt req 2 % 16) (field req 4 2) (field req 6 2) s
  | 0x83 => spdmChallenge p req s
  | 0xE0 => spdmMeasurements p req s
  | 0xE4 => spdmKeyExchange p req s
  | 0xE5 => spdmFinish p req s
  | 0xEC => spdmEnd p sid s
  | 0xE8 => spdmHeartbeat p sid s
  | 0xE9 => spdmKeyUpdate p sid (byteAt req 2) (byteAt req 3) s
  | 0xFE => spdmVendor p sid req s
  | 0xFF => spdmReady s
  | c => (s, errUnsupported c)

/-- A large request that is no longer arriving. -/
def State.dropChunks (s : State) (p : Path) : State :=
  s.setConn { s.conn p with chunkIn := [], chunkInSize := 0, chunkInSeq := 0 }

/-- CHUNK_SEND: chunks of a request of at most 65,536 bytes, in order; the last one's answer carries the response to the whole. -/
def spdmChunkSend (p : Path) (req : List Byte) (s : State) : State × List Byte :=
  let c := s.conn p
  let last := bitAt (byteAt req 2) 0
  let h := byteAt req 3
  let q := field req 4 2
  let size := field req 8 4
  let total := if q = 0 then field req 12 4 else c.chunkInSize
  let got := (if q = 0 then [] else c.chunkIn) ++ (req.drop (if q = 0 then 16 else 12)).take size
  let ack (early : Nat) (r : List Byte) : List Byte := rsp 5 early h ++ natLE 2 q ++ r
  let inOrder := q == 0 || (c.chunkInSize != 0 && h == c.chunkInHandle && q == c.chunkInSeq + 1)
  if !inOrder || decide (65536 < total) || total == 0 || decide (total < got.length) || (last && got.length != total) then
    (s.dropChunks p, ack 1 errInvalid)
  else if !last then
    (s.setConn { c with chunkIn := got, chunkInHandle := h, chunkInSeq := q, chunkInSize := total }, ack 0 [])
  else
    let r := spdmRequest p got (s.dropChunks p)
    let t := r.1.fit p (c.limit - 6) r.2
    (t.1, ack 0 t.2)

/-- CHUNK_GET: the next chunk of the large response that waits. -/
def spdmChunkGet (p : Path) (handle seq : Nat) (s : State) : State × List Byte :=
  let c := s.conn p
  if c.chunkOut.isEmpty ∨ handle ≠ c.chunkOutHandle ∨ seq ≠ c.chunkOutSeq then (s, errInvalid)
  else
    let room := if seq = 0 then c.limit - 16 else c.limit - 12
    let n := min room c.chunkOut.length
    let rest := c.chunkOut.drop n
    let r := rsp 6 (b2n rest.isEmpty) handle ++ natLE 2 seq ++ zeros 2 ++ natLE 4 n ++ (if seq = 0 then natLE 4 c.chunkOut.length else []) ++
      c.chunkOut.take n
    (s.setConn { c with chunkOut := rest, chunkOutSeq := seq + 1 }, r)

/-- Any request of SPDM by its code. -/
def spdmAny (p : Path) (req : List Byte) (s : State) : State × List Byte :=
  match byteAt req 1 with
  | 0x85 => spdmChunkSend p req s
  | 0x86 => spdmChunkGet p (byteAt req 3) (field req 4 2) s
  | _ => spdmRequest p req s

/-! ### The commands. A request that belongs to a session is sealed in it. -/

/-- Whether a request with a session ID reaches an open session. -/
def State.sealedBy (s : State) (p : Path) (sid : Nat) : Bool := (s.conn p).session != 0 && (s.conn p).sessionId == sid

/-- SPDM_GET_VERSION. -/
def execSpdmGetVersion (p : Path) (s : State) : Host.Outcome State Fault Refusal := nextS s fun s => s.spdm p false (spdmVersion p)

/-- SPDM_GET_CAPABILITIES. -/
def execSpdmGetCapabilities (p : Path) (req : List Byte) (s : State) : Host.Outcome State Fault Refusal :=
  nextS s fun s => s.spdm p false (spdmCapabilities p req)

/-- SPDM_NEGOTIATE_ALGORITHMS. -/
def execSpdmNegotiateAlgorithms (p : Path) (req : List Byte) (s : State) : Host.Outcome State Fault Refusal :=
  nextS s fun s => s.spdm p false (spdmAlgorithms p req)

/-- SPDM_GET_DIGESTS. -/
def execSpdmGetDigests (p : Path) (s : State) : Host.Outcome State Fault Refusal := nextS s fun s => s.spdm p false (spdmDigests p)

/-- SPDM_GET_CERTIFICATE. -/
def execSpdmGetCertificate (p : Path) (slot off len : Nat) (s : State) : Host.Outcome State Fault Refusal :=
  nextS s fun s => s.spdm p false (spdmCertificate p slot off len)

/-- SPDM_CHALLENGE. -/
def execSpdmChallenge (p : Path) (req : List Byte) (s : State) : Host.Outcome State Fault Refusal :=
  nextS s fun s => s.spdm p false (spdmChallenge p req)

/-- SPDM_GET_MEASUREMENTS. -/
def execSpdmGetMeasurements (p : Path) (req : List Byte) (s : State) : Host.Outcome State Fault Refusal :=
  nextS s fun s => s.spdm p false (spdmMeasurements p req)

/-- SPDM_KEY_EXCHANGE. -/
def execSpdmKeyExchange (p : Path) (req : List Byte) (s : State) : Host.Outcome State Fault Refusal :=
  nextS s fun s => s.spdm p false (spdmKeyExchange p req)

/-- SPDM_FINISH: sealed under the handshake's keys. -/
def execSpdmFinish (p : Path) (req : List Byte) (s : State) : Host.Outcome State Fault Refusal :=
  nextS s fun s => s.spdm p ((s.conn p).session == 1) (spdmFinish p req)

/-- SPDM_END_SESSION. -/
def execSpdmEndSession (p : Path) (sid : Nat) (s : State) : Host.Outcome State Fault Refusal :=
  nextS s fun s => s.spdm p (s.sealedBy p sid) (spdmEnd p sid)

/-- SPDM_HEARTBEAT. -/
def execSpdmHeartbeat (p : Path) (sid : Nat) (s : State) : Host.Outcome State Fault Refusal :=
  nextS s fun s => s.spdm p (s.sealedBy p sid) (spdmHeartbeat p sid)

/-- SPDM_KEY_UPDATE. -/
def execSpdmKeyUpdate (p : Path) (sid op tag : Nat) (s : State) : Host.Outcome State Fault Refusal :=
  nextS s fun s => s.spdm p (s.sealedBy p sid) (spdmKeyUpdate p sid op tag)

/-- SPDM_CHUNK_SEND. -/
def execSpdmChunkSend (p : Path) (req : List Byte) (s : State) : Host.Outcome State Fault Refusal :=
  nextS s fun s => s.spdm p false (spdmChunkSend p req)

/-- SPDM_CHUNK_GET. -/
def execSpdmChunkGet (p : Path) (handle seq : Nat) (s : State) : Host.Outcome State Fault Refusal :=
  nextS s fun s => s.spdm p false (spdmChunkGet p handle seq)

/-- SPDM_VENDOR_DEFINED_REQUEST. -/
def execSpdmVendorDefinedRequest (p : Path) (sid : Nat) (req : List Byte) (s : State) : Host.Outcome State Fault Refusal :=
  nextS s fun s => s.spdm p (s.sealedBy p sid) (spdmVendor p sid req)

/-- SPDM_RESPOND_IF_READY. -/
def execSpdmRespondIfReady (p : Path) (_code _token : Nat) (s : State) : Host.Outcome State Fault Refusal :=
  nextS s fun s => s.spdm p false spdmReady

end Sys2Proof.Machine
end

