-- ==== Sys2Proof/Machine/Close.lean ====
section
/-! DEFINITION. Close.lean: the commit of a step, the last orders of its abort, and the parking of the module (R62, R340, R345, R401,
R405). -/
namespace Sys2Proof.Machine
open Sys2Proof

/-- Tells every fence peer that is there that the commit has begun, with the H it uses (R340, R363). -/
def Dev.sendCommitting (d : Dev) (t : Txn) (h : Nat) : Dev :=
  (d.fenceHere t).foldl (fun d a => d.send a 5 0x81 t.step (zeros 5 ++ natLE 1 h) []) d

/-- The commit of a settled step with its tokens (orders 3 to 8 of the table Closing a step). -/
def Dev.commitStep (d : Dev) (t : Txn) (own : Nat) : Dev :=
  if !d.quorum then d.partition
  else
    let f := d.fixedOf t own
    let d1 := (d.sendCommitting t f.h).closeCommit t f
    if d1.ctl.committed = t.step then d1.dueDrains f else d1

/-- COMMIT at the head of the control ring starts with its step open (R391, R406). -/
def Dev.commitHead (d : Dev) (x : Desc) : Dev :=
  if flagInput x.bytes then d.refuseHead 0 0x02
  else
    let a := d.start 0 x [] []
    (a.2.setAct a.1.uid fun y => { y with hold := true }).setRing 0 fun r => { r with openAhead := false }

/-- A started COMMIT (R340): it waits until the module is settled, the tokens are there and no drain runs. -/
def Dev.tryCommit (d : Dev) (own : Nat) : Dev :=
  match d.ctl.txn with
  | none => d
  | some t =>
    if d.commitAct.isNone || !d.settled || !t.pledged || !t.settledOnce || !d.tokens t || !d.ctl.drains.isEmpty then d
    else d.commitStep t own

/-- COMMIT (R62, R340): the module's own health word is sampled. -/
def execCommit (s : State) : Host.Outcome State Fault Refusal :=
  nextS s fun s => { s with d := (s.d.issue 0 0x0D false s.d.commitHead).tryCommit s.sec.health }

/-- A message of the aborted attempt waits for its acknowledgement (order 4 of the table Abort of step s). -/
def Dev.abortWaits (d : Dev) (t : Txn) : Bool := d.peers.any fun e => e.2.unacked.any fun m => m.step == t.step

/-- Completes the COMMIT of an aborted step: the one that has started, else the one that comes to the head of the control ring
(order 6). -/
def Dev.closeAbort (d : Dev) : Dev :=
  let x := d.ring 0
  let done (d : Dev) : Dev := d.setTxn fun t => { t with closed := true }
  match d.commitAct with
  | some a => done (d.finish a.uid 0x11 (some d.abortDetail))
  | none =>
    if !x.openAhead then done d
    else
      match x.queue with
      | h :: _ =>
        if x.enable && !x.halted && kindOf h.bytes == 0x0D then
          done ((d.refuseHead 0 0x11 d.abortDetail).setRing 0 fun r => { r with openAhead := false, removing := false })
        else d
      | [] => d

/-- STEP_ABORT_SEND (R345 orders 4 to 6): once the messages of the attempt are acknowledged, STEP_ABORT goes to the fence peers and
COMMIT completes. -/
def execStepAbortSend (s : State) : Host.Outcome State Fault Refusal :=
  nextD s fun d =>
    match d.ctl.txn with
    | none => d
    | some t =>
      if !t.aborted || t.closed then d
      else if t.abortSent then d.closeAbort
      else if d.abortWaits t then d
      else
        let d1 := (d.fenceHere t).foldl (fun d a =>
          d.send a 5 0x82 t.step (natLE 1 t.cause ++ natLE 1 t.origin) []) d
        (d1.setTxn fun t => { t with abortSent := true }).closeAbort

/-- The cause that a STEP_ABORT hands on: its origin where it is itself a peer abort (table Abort causes). -/
def originOf (m : Rx) : Nat := if m.par 24 1 = 10 then m.par 25 1 else m.par 24 1

/-- A STEP_ABORT of a step that is not committed: it aborts the open step unless the module is pledged to it and holds the sender's
CLEAN, where it is held for order 7 of a later abort; one that belongs to an attempt this module has not opened waits for it (R344 to
R346). -/
def Dev.peerAborts (d : Dev) (m : Rx) : Dev :=
  let held (d : Dev) : Dev := d.setPeer m.src fun p => { p with abortStep := m.step, cleanStep := if p.cleanStep = m.step then 0 else p.cleanStep }
  let later (d : Dev) : Dev := d.setPeer m.src fun p => { p with abortAgain := some (originOf m, originOf m), cleanStep := if p.cleanStep = m.step then 0 else p.cleanStep }
  match d.ctl.txn with
  | none => later d
  | some t =>
    if t.step ≠ m.step then later d
    else if t.aborted then (if (d.peer m.src).abortStep = m.step then later d else held d)
    else if t.pledged && (d.peer m.src).cleanStep == m.step then d.setPeer m.src fun p => { p with abortStep := m.step }
    else (held d).raise 10 (originOf m)

/-- STEP_ABORT_MSG (R345): ignored by a module that has committed the step. -/
def execStepAbortMsg (m : Rx) (s : State) : Host.Outcome State Fault Refusal :=
  nextD s fun d => d.accept 0x82 m true fun d => if m.step ≤ d.ctl.committed then d else d.peerAborts m

/-- FENCE_PARK (R405): RUNNING with no step open becomes LOADED; in LOADED it has no effect. -/
def execFencePark (s : State) : Host.Outcome State Fault Refusal :=
  nextD s fun d => d.issue 0 0x0A false fun x =>
    if byteAt x.bytes 16 ≠ 2 then d
    else if flagInput x.bytes then d.refuseHead 0 0x02
    else (if d.ctl.state = 5 then d.setState 4 else d).refuseHead 0 0

end Sys2Proof.Machine
end

