-- ==== Sys2Proof/Machine/Manage.lean ====
section
/-! DEFINITION. Manage.lean: management messages as bytes: those of the mailbox and those that peers send (R477 to R480). -/
namespace Sys2Proof.Machine
open Sys2Proof

/-- An MCTP control message (log entry 48): a request by its command; 5 for one that the module does not have. -/
def State.controlMessage (s : State) (p : Path) (m : List Byte) : State :=
  let inst := byteAt m 0 % 32
  let b := m.drop 2
  if !bitAt (byteAt m 0) 7 then s
  else s.control p inst (byteAt m 1) (match byteAt m 1 with
    | 1 => setEid p (byteAt b 0 % 4) (byteAt b 1)
    | 2 => getEid p
    | 3 => getUuid
    | 4 => getVersions (byteAt b 0)
    | 5 => getTypes
    | _ => fun s => (s, natLE 1 5))

/-- A PLDM base request. -/
def pldmBase (cmd : Nat) (b : List Byte) : State → State × List Byte :=
  match cmd with
  | 1 => tidSet (byteAt b 0)
  | 2 => tidGet
  | 3 => pldmVersionGet (byteAt b 5)
  | 4 => pldmTypesGet
  | 5 => pldmCommandsGet (byteAt b 0)
  | _ => fun s => (s, natLE 1 5)

/-- A PLDM monitoring request. -/
def pldmMonitor (cmd : Nat) (b : List Byte) : State → State × List Byte :=
  match cmd with
  | 0x04 => receiverSet (byteAt b 0) (byteAt b 2)
  | 0x11 => sensorGet (field b 0 2)
  | 0x21 => stateSensorGet (field b 0 2)
  | 0x31 => effecterSet (field b 0 2) (field b 3 4)
  | 0x32 => effecterGet (field b 0 2)
  | 0x50 => pdrInfoGet
  | 0x51 => pdrGet (field b 0 4)
  | _ => fun s => (s, natLE 1 5)

/-- A PLDM firmware update request. -/
def pldmUpdate (cmd : Nat) (b : List Byte) : State → State × List Byte :=
  match cmd with
  | 0x01 => deviceIds
  | 0x02 => firmwareParams
  | 0x10 => updateRequest (field b 0 4) (field b 4 2)
  | 0x13 => passTable (field b 3 2) (byteAt b 0)
  | 0x14 => componentUpdate (field b 2 2) (field b 9 4)
  | 0x1A => activate (byteAt b 0 == 1)
  | 0x1B => updateStatus
  | 0x1C => cancelComponent
  | 0x1D => cancelAll
  | _ => fun s => (s, natLE 1 5)

/-- A PLDM message (log entry 48): a request by its type and command; the update agent's data; 0x20 for a type that the module does not
have. -/
def State.pldmMessage (s : State) (p : Path) (m : List Byte) : State :=
  let typ := byteAt m 1 % 64
  let cmd := byteAt m 2
  let b := m.drop 3
  if !bitAt (byteAt m 0) 7 then
    (if typ = 5 ∧ cmd = 0x15 ∧ byteAt b 0 = 0 then s.exchange p fun s => s.takeData p (b.drop 1) else s)
  else
    let r := s.pldm p (byteAt m 0 % 32) typ cmd (match typ with
      | 0 => pldmBase cmd b
      | 2 => pldmMonitor cmd b
      | 5 => pldmUpdate cmd b
      | _ => fun s => (s, natLE 1 0x20))
    if typ = 5 ∧ cmd = 0x14 ∧ s.sec.upStage = 2 then r.exchange p fun t => t.askData p else r

/-- A secured SPDM message: opened under the keys of its path's session, answered in it (R496; log entry 51). -/
def State.securedMessage (s : State) (p : Path) (m : List Byte) : State :=
  let c := s.conn p
  if c.session = 0 ∨ field m 0 4 ≠ c.sessionId then s.spdm p false fun s => (s, errSession)
  else
    match Config.aeadOpen c.secret c.peerKey (if c.session = 1 then 0 else c.keyReq) (m.drop 4) with
    | some b => s.spdm p true (spdmAny p b)
    | none => s.spdm p false fun s => (s, errDecrypt)

/-- A Troulara vendor message: enterprise number, command code and body (R478); any other is not answered. -/
def State.vendorMessage (s : State) (p : Path) (m : List Byte) : State :=
  let b := m.drop 5
  if field m 0 4 ≠ enterprise then s
  else
    match byteAt m 4 with
    | 1 => s.vendor p 1 (keyRecordOp p b)
    | 2 => s.vendor p 2 challengeOp
    | 3 => s.vendor p 3 (tokenOp b)
    | 4 => s.vendor p 4 relockOp
    | 5 => s.peerAttest p b
    | 6 => s.vendor p 6 finalsOp
    | _ => s

/-- An MCTP message by its type (table Management protocols); a type that the module does not have is not answered. -/
def State.mctp (s : State) (p : Path) (typ : Nat) (m : List Byte) : State :=
  match typ with
  | 0x00 => s.controlMessage p m
  | 0x01 => s.pldmMessage p m
  | 0x05 => s.spdm p false (spdmAny p m)
  | 0x06 => s.securedMessage p m
  | 0x7F => s.vendorMessage p m
  | _ => s

/-! ### The mailbox (R479, R501) -/

/-- Bytes of SEC_MBX_TO_CORE. -/
def Mailbox.toBytes (x : Mailbox) (n : Nat) : List Byte := ((List.range ((n + 3) / 4)).flatMap fun w => natLE 4 (tget 0 x.toBuf w)).take n

/-- Bytes of a message, at most (R479). -/
def messageLen : Nat := 65536

/-- The driver's send: the core takes the fragment at once, so to_busy is never seen set. A fragment of no byte, and one that continues
nothing, are not taken; a message that grows too long is dropped (log entry 54). -/
def State.mbxSend (s : State) : State :=
  let x := s.sec.mbx
  if x.toBusy || x.toLength == 0 || (!x.toFirst && x.toPartial.isEmpty) then s
  else
    let got := (if x.toFirst then [] else x.toPartial) ++ x.toBytes x.toLength
    let keep (p : List Byte) : State := { s with sec := { s.sec with mbx := { x with toPartial := p } } }
    if messageLen < got.length then keep []
    else if x.toLast then (keep []).mctp .mailbox (byteAt got 0) (got.drop 1)
    else keep got

/-- A write of SEC_MBX_CTRL: its fields, then send, then ack (R501). `en` says which of its bits the byte enables select. -/
def State.mbxCtrl (s : State) (val en : Nat) : State :=
  let pick (old hi lo : Nat) : Nat := ((old <<< lo) &&& ((2 ^ 32 - 1) ^^^ en) ||| (val &&& en)) / 2 ^ lo % 2 ^ (hi + 1 - lo)
  let x := s.sec.mbx
  let y := { x with toLength := pick x.toLength 11 0, toFirst := pick (b2n x.toFirst) 12 12 == 1, toLast := pick (b2n x.toLast) 13 13 == 1 }
  let s1 : State := { s with sec := { s.sec with mbx := y } }
  let s2 := if bitAt (val &&& en) 14 then s1.mbxSend else s1
  if bitAt (val &&& en) 15 then s2.mbxAck else s2

/-- MBX_SEND (R479): a write of SEC_MBX_CTRL with send. -/
def execMbxSend (val : Nat) (s : State) : Host.Outcome State Fault Refusal :=
  nextS s fun s => s.barWrite 0x1020004 .good false fun s => s.mbxCtrl val (2 ^ 32 - 1)

/-- MBX_ACK (R479). -/
def execMbxAck (s : State) : Host.Outcome State Fault Refusal := nextS s fun s => s.barWrite 0x1020004 .good false State.mbxAck

/-! ### MGMT_MCTP (R480) -/

/-- A peer's response goes back, unchanged, to the path whose PEER_ATTEST waits longest for that peer. -/
def State.relay (s : State) (a : Nat) (m : List Byte) : State :=
  match s.sec.attestWait.find? fun w => w.1 == a with
  | some w =>
    State.respond { s with sec := { s.sec with attestWait := s.sec.attestWait.erase w } } w.2 0x7F (natLE 4 enterprise ++ natLE 1 5 ++ zeros 1 ++ m)
  | none => s

/-- A message of a peer: an SPDM request is answered as by a responder, an SPDM response is relayed. -/
def State.fromPeer (s : State) (a typ : Nat) (m : List Byte) : State :=
  if typ = 5 then (if 0x80 ≤ byteAt m 1 then s.mctp (.peer a) 5 m else s.relay a m)
  else if typ = 6 then s.mctp (.peer a) 6 m
  else s

/-- MGMT_MCTP (R480). -/
def execMgmtMctp (m : Rx) (s : State) : Host.Outcome State Fault Refusal :=
  nextS s fun s =>
    let r := s.d.accepted 0xA0 m true
    let s1 : State := { s with d := r.1 }
    if r.2 then s1.fromPeer m.src (m.par 24 1) m.bytes else s1

end Sys2Proof.Machine
end

