-- ==== Sys2Proof/Machine/Permute.lean ====
section
/-! DEFINITION. Permute.lean: PERMUTE in move and adopt mode, with its messages (R323 to R327, R329, R331, R362). -/
namespace Sys2Proof.Machine
open Sys2Proof

/-! ### The image (R323) -/

/-- Bytes of a table image: its header is 576 bytes, then 32 for each entry. -/
def tableBytes (count : Nat) : Nat := 576 + 32 * count

/-- The 32-byte entries of an image. -/
def tableEntries (image : List Byte) : List (List Byte) := (List.range (field image 4 4)).map fun i => sub image (576 + 32 * i) 32

/-- Whether the module takes an image (R323). -/
def Dev.tableOk (d : Dev) (image : List Byte) : Bool :=
  field image 0 2 == d.ctl.generation + 1 && decide (field image 2 2 < 2) &&
    (match d.ctl.pattern with | some p => tableFormed p (tableEntries image) | none => false)

/-- The bank of an image: version fields are ignored. -/
def bankOf (image : List Byte) : Tab Shard := (tableEntries image).zipIdx.map fun e => (e.2, { parseShard e.1 with version := 0 })

/-! ### Moves (R324, R362) -/

/-- A run of bytes that moves: old entry and offset (none beyond the old string's end), new entry and offset, length. -/
structure Move where
  old : Option (Nat × Nat)
  new : Nat × Nat
  len : Nat
deriving DecidableEq, Repr

/-- The shards of a tensor in shard order, as entry, start in the tensor's byte string and length. -/
def stringOf (bank : Tab Shard) (tensor : Nat) : List (Nat × Nat × Nat) :=
  let mine := (bank.filter fun e => e.2.valid && e.2.tensor == tensor).map fun e => (e.2.shard, natLE 4 e.1)
  ((sortKeys mine).foldl (fun (acc : List (Nat × Nat × Nat) × Nat) k =>
    let e := leNat k
    let n := (tget shard0 bank e).len
    (acc.1 ++ [(e, acc.2, n)], acc.2 + n)) ([], 0)).1

/-- The moves of one tensor. -/
def movesOf (old new : Tab Shard) (tensor : Nat) : List Move :=
  let os := stringOf old tensor
  let total := (os.map fun o => o.2.2).sum
  ((stringOf new tensor).map fun n =>
    (os.filterMap fun o =>
      let lo := max o.2.1 n.2.1
      let hi := min (o.2.1 + o.2.2) (n.2.1 + n.2.2)
      if lo < hi then some (⟨some (o.1, lo - o.2.1), (n.1, lo - n.2.1), hi - lo⟩ : Move) else none) ++
      (let lo := max total n.2.1
       if lo < n.2.1 + n.2.2 then [(⟨none, (n.1, lo - n.2.1), n.2.1 + n.2.2 - lo⟩ : Move)] else [])).flatten

/-- Every move between two banks. -/
def allMoves (old new : Tab Shard) : List Move :=
  (((new.filter fun e => e.2.valid).map fun e => e.2.tensor).eraseDups.map (movesOf old new)).flatten

/-- The member that serves a move: the old owner, or its buddy where it has departed; none where both have. -/
def Dev.server (d : Dev) (owner : Nat) : Option Nat :=
  if d.alive owner then some owner
  else
    match d.ctl.pattern with
    | some p => ((p.members[owner]?).map (·.buddy)).filter d.alive
    | none => none

/-- Where the bytes of a departed owner's shard stand in the image that this module holds for it (R362). -/
def Dev.imagePlace (d : Dev) (owner : Nat) (x : Shard) (off : Nat) : Option Nat :=
  match d.heldImage owner d.ctl.committed with
  | some (base, _) =>
    if x.epoch then (d.regionOf (x.addr + off)).map fun r => base + regionOffset d.regions r.1 + (x.addr + off - r.2.copy0) else none
  | none => none

/-- Reads the bytes of a move that this module serves: its own shard, or the image it holds; none where the image cannot serve. -/
def Dev.readMove (d : Dev) (e off n : Nat) : Option (List PB × Dev) :=
  let x := d.shard e
  if x.owner = d.ctl.address then some (d.read (x.addr + off) n)
  else (d.imagePlace x.owner x off).map fun a => d.read a n


/-- A PERMUTE that ends without its new bank. -/
def Dev.permuteEnds (d : Dev) (uid status : Nat) : Dev :=
  (d.setCtl fun c => { c with permute := none, adopt := false, written := if c.adopt then [] else c.written }).finish uid status

/-- Sends the bytes of a move to its new owner, cut at 1 MiB. -/
def Dev.sendMove (d : Dev) (uid gen rcv : Nat) (m : Move) (bs : List PB) : Dev :=
  (cuts m.len).foldl (fun d c =>
    d.send rcv 3 0x60 0 (natLE 2 m.new.1 ++ natLE 2 gen ++ zeros 4 ++ natLE 8 (m.new.2 + c.1) ++ natLE 8 d.ctl.committed)
      ((bs.drop c.1).take c.2) (some uid)) d

/-- The device address that a move's bytes are read from. -/
def Dev.readPlace (d : Dev) (e off : Nat) : Nat :=
  let x := d.shard e
  if x.owner = d.ctl.address then x.addr + off else (d.imagePlace x.owner x off).getD 0

/-- Notes an outgoing read of the PERMUTE (R325). -/
def Dev.noteRead (d : Dev) (rcv : Nat) (m : Move) (addr : Nat) : Dev :=
  d.setCtl fun c => { c with permute := c.permute.map fun p => { p with reads := p.reads ++ [(rcv, m.new.1, m.new.2, m.len, addr)] } }

/-- Reads and sends what this module serves: the local bytes to write, the bytes sent, and whether a move could not be served. -/
def Dev.serveMoves (d : Dev) (uid gen : Nat) (new : Tab Shard) (ms : List Move) : List (Move × List PB) × Nat × Bool × Dev :=
  ms.foldl (fun (acc : List (Move × List PB) × Nat × Bool × Dev) m =>
    match m.old with
    | none => acc
    | some o =>
      let d := acc.2.2.2
      let rcv := (tget shard0 new m.new.1).owner
      match d.server (d.shard o.1).owner with
      | none => (acc.1, acc.2.1, acc.2.2.1 || rcv == d.ctl.address, d)
      | some a =>
        if a ≠ d.ctl.address then acc
        else
          match d.readMove o.1 o.2 m.len with
          | none => (acc.1, acc.2.1, true, d)
          | some v =>
            if rcv = d.ctl.address then (acc.1 ++ [(m, v.1)], acc.2.1, acc.2.2.1, v.2)
            else (acc.1, acc.2.1 + m.len, acc.2.2.1, (v.2.sendMove uid gen rcv m v.1).noteRead rcv m (d.readPlace o.1 o.2))) ([], 0, false, d)

/-- Bytes that come to this module from others: in adopt mode every byte of its new shards that has an old place. -/
def Dev.needed (d : Dev) (adopt : Bool) (new : Tab Shard) (ms : List Move) : Nat :=
  (ms.map fun m =>
    match m.old with
    | some o =>
      if (tget shard0 new m.new.1).owner = d.ctl.address ∧ (adopt = true ∨ d.server (d.shard o.1).owner ≠ some d.ctl.address) then m.len else 0
    | none => 0).sum

/-- Starts a PERMUTE with an image that the module takes: the inactive bank, the reads and the sends, then the local writes and the
zeros beyond the old strings, each once the outgoing reads that it overlaps are acknowledged (R324, R325). -/
def Dev.permuteStart (d : Dev) (x : Desc) (image : List Byte) : Dev :=
  let adopt := field image 2 2 == 1
  let gen := field image 0 2
  let new := bankOf image
  let other := 1 - d.ctl.bank
  let old := tget [] d.ctl.banks d.ctl.bank
  let ms := allMoves old new
  let a := d.start 0 x [(addr40 x.bytes 24, tableBytes (field image 4 4))] []
  let uid := a.1.uid
  let p : Permute := ⟨uid, adopt, gen, field image 64 512, false, 0, [], d.needed adopt new ms, none, false, [], []⟩
  let d1 := a.2.setCtl fun c => { c with banks := tset c.banks other new, permute := some p, adopt := adopt }
  let r := if adopt then ([], 0, false, d1) else d1.serveMoves uid gen new ms
  if r.2.2.1 then r.2.2.2.permuteEnds uid 0x12
  else
    let ws := (r.1.map fun w => (w.1.new.1, w.1.new.2, w.2)) ++
      (ms.filter fun m => m.old.isNone && (tget shard0 new m.new.1).owner == d.ctl.address).map fun m => (m.new.1, m.new.2, clean (zeros m.len))
    (r.2.2.2.setCtl fun c => { c with permute := c.permute.map fun p => { p with bytesOut := r.2.1, writes := ws } }).permuteWrites.permuteAcked

/-- The checks of a PERMUTE at the head of the control ring, for a command of one mode (R323, R406, R517): they give the table image and the
state after its read. -/
def Dev.permutePlan (d : Dev) (adopt : Bool) (x : Desc) : Plan (List Byte × Dev) :=
  if kindOf x.bytes ≠ 0x06 ∨ x.fetch ≠ 0 ∨ d.judge 0 x.bytes false = .waits ∨ d.ctl.permute.isSome = true then .waits
  else
    let at' := addr40 x.bytes 24
    let hdr := if d.mapped at' 576 then d.read at' 576 else ([], d)
    let mode := field (hdr.1.map (·.1)) 2 2
    let n := tableBytes (min 65536 (field (hdr.1.map (·.1)) 4 4))
    if adopt != (mode == 1) || d.clash 0 [(at', n)] [] then .waits
    else if hdr.1.any (·.2) then .refuses (hdr.2.poisonedRead 15 0 (poisonSector at' hdr.1)) 0x13
    else if d.judge 0 x.bytes adopt = .illegal then .refuses d 0x01
    else if flagInput x.bytes || decide (96 < tilesOf x.bytes) then .refuses d 0x02
    else if !d.mapped at' n then .refuses d 0x03
    else
      let v := d.read at' n
      if v.1.any (·.2) then .refuses (v.2.poisonedRead 15 0 (poisonSector at' v.1)) 0x13
      else
        let image := v.1.map (·.1)
        let count := field image 4 4
        if count = 0 ∨ 65536 < count ∨ d.tableOk image = false then .refuses v.2 0x0F
        else .goes (image, v.2)

/-- PERMUTE at the head. -/
def Dev.permuteHead (d : Dev) (adopt : Bool) : Dev :=
  match d.head 0 with
  | none => d
  | some x => d.follow 0 (d.permutePlan adopt x) fun w => w.2.permuteStart x w.1

/-- PERMUTE_MOVE (R323, R324). -/
def execPermuteMove (s : State) : Host.Outcome State Fault Refusal := nextD s fun d => d.permuteHead false

/-! ### The end of a PERMUTE (R326, R327) -/

/-- The versions of a new bank: one above the largest of the old entries that supplied bytes of the entry, 0 where none did. -/
def newVersions (old new : Tab Shard) : Tab Shard :=
  let ms := allMoves old new
  new.map fun e =>
    let from' := ms.filterMap fun m => if m.new.1 = e.1 then m.old.map (·.1) else none
    (e.1, { e.2 with version := if from'.isEmpty then 0 else ((from'.map fun o => (tget shard0 old o).version).foldl max 0 + 1) % 2 ^ 64 })

/-- Makes the new bank active, with its versions, generation and mapped-out mask. -/
def Dev.activate (d : Dev) (p : Permute) : Dev :=
  let other := 1 - d.ctl.bank
  d.setCtl fun c =>
    { c with
      banks := tset c.banks other (newVersions (tget [] c.banks c.bank) (tget [] c.banks other))
      bank := other, generation := p.gen, mapped := p.mapped, permute := none, adopt := false }

/-- PERMUTE_ACTIVATE (R326). -/
def execPermuteActivate (s : State) : Host.Outcome State Fault Refusal :=
  nextD s fun d =>
    match d.ctl.permute with
    | some p =>
      let expected := d.members'.filter fun a => !d.ctl.mapped.testBit a && (d.peer a).state == 3 && a != d.ctl.address
      if p.adopt || !p.sentDone || p.need != 0 || !p.writes.isEmpty || !(expected.all p.dones.contains) then d
      else (d.activate p).finish p.uid 0
    | none => d

/-- PERMUTE_ADOPT (R327, R329): a PERMUTE in adopt mode starts; once every byte is there, the one flip of R48. -/
def execPermuteAdopt (s : State) : Host.Outcome State Fault Refusal :=
  nextD s fun d =>
    match d.ctl.permute with
    | none => d.permuteHead true
    | some p =>
      if !p.adopt then d
      else if p.mismatch then d.permuteEnds p.uid 0x10
      else if p.need ≠ 0 then d
      else
        let d1 := (d.copyForward.setCtl fun c => { c with storm := [] }).flip
        let d2 := (d1.setCtl fun c => { c with committed := p.carried.getD c.committed, txn := none }).activate p
        ((d2.setState 4).sendState).finish p.uid 0

/-! ### Messages (R324, R326, R331) -/

/-- Admits a permute message of a generation (R331): to the module's own PERMUTE; not before it has started; of the generation in force, to
nothing that waits; any other that is in order is discarded without acknowledgement and counted. A message that is not in order is a
duplicate, or ahead, whatever its generation (R284). -/
def Dev.permuteMessage (d : Dev) (typ : Nat) (m : Rx) (f : Dev → Dev) : Dev :=
  let gen := m.par 26 2
  let d1 := (d.accepted typ m false).1
  if d.permuting gen then d.accept typ m true f
  else if gen = d.ctl.generation + 1 then d1
  else if gen = d.ctl.generation then d.accept typ m true fun d => d
  else if (d.received typ m).2 && (d.peer m.src).state == 3 && m.sequenced && m.seq == (d.peer m.src).rx.getD m.cls 0 then d1.portErr m.port 5
  else d1

/-- PERMUTE_DATA (R324, R327, R331). -/
def execPermuteData (m : Rx) (s : State) : Host.Outcome State Fault Refusal :=
  nextD s fun d => d.permuteMessage 0x60 m fun d =>
    match d.ctl.permute with
    | none => d
    | some _ =>
      let other := 1 - d.ctl.bank
      let x := d.shardAt other (m.par 24 2)
      if x.valid = false ∨ x.owner ≠ d.ctl.address ∨ x.len < m.par 32 8 + m.body.length then d
      else
        (d.setCtl fun c =>
          { c with permute := c.permute.map fun p =>
              { p with need := p.need - m.body.length, carried := some (m.par 40 8), writes := p.writes ++ [(m.par 24 2, m.par 32 8, m.body)]
                       mismatch := p.mismatch || (match p.carried with | some k => k != m.par 40 8 | none => false) } }).permuteWrites

/-- PERMUTE_DONE (R326, R331). -/
def execPermuteDone (m : Rx) (s : State) : Host.Outcome State Fault Refusal :=
  nextD s fun d => d.permuteMessage 0x61 m fun d =>
    d.setCtl fun c => { c with permute := c.permute.map fun p => { p with dones := if p.dones.contains m.src then p.dones else p.dones ++ [m.src] } }

end Sys2Proof.Machine
end

