-- ==== Sys2Proof/Machine/RegWrite.lean ====
section
/-! DEFINITION. RegWrite.lean: writes of BAR0 registers (R29, R294, R387, R416, R427, R429, R430 to R443, R450 to R452, R476, R501), by the
driver or by the management core: byte enables, RW fields, W1C flags and WO actions. -/
namespace Sys2Proof.Machine
open Sys2Proof

/-- Bits that byte enables select (R416). -/
def enabled (be : Nat) : Nat := ((List.range 4).map fun i => if bitAt be i then 0xFF * 256 ^ i else 0).sum

/-- An RW word after a write: the bytes that are not enabled stay (R416). -/
def merge (old val en : Nat) : Nat := (old &&& ((2 ^ 32 - 1) ^^^ en)) ||| (val &&& en)

/-- A W1C word after a write: bits written 1 in enabled bytes are cleared (R434). -/
def cleared (old val en : Nat) : Nat := old ^^^ (old &&& (val &&& en))

/-- A 64-bit value of two RW words after a write of its low or its high word (R438). -/
def mergeLow (old val en : Nat) : Nat := old / 2 ^ 32 * 2 ^ 32 + merge (old % 2 ^ 32) val en
def mergeHigh (old val en : Nat) : Nat := old % 2 ^ 32 + 2 ^ 32 * merge (old / 2 ^ 32) val en

/-- The same at a word's place: `high` says which word. -/
def merge64 (high : Bool) (old val en : Nat) : Nat := if high then mergeHigh old val en else mergeLow old val en

/-! ### The global block (R427, R447) -/

/-- A source's mask bit is clear: a pending interrupt is delivered, once (R427). -/
def Dev.unmasked (d : Dev) (src : Nat) : Dev :=
  if bitAt d.host.irqMask src || !bitAt d.host.irqPending src then d
  else (d.setHost fun h => { h with irqPending := h.irqPending ^^^ 2 ^ src }).deliver src

/-- GLB_IRQ_MASK takes a value: sources 29 to 31 are reserved. -/
def Dev.setMask (d : Dev) (v : Nat) : Dev := (List.range 29).foldl Dev.unmasked (d.setHost fun h => { h with irqMask := v % 2 ^ 29 })

/-- GLB_IRQ_VECTOR_i: the vectors of sources 4i to 4i + 3; those of sources 29 to 31 are RZ. -/
def vectorsWritten (i val en : Nat) (vs : List Nat) : List Nat :=
  vs.mapIdx fun src v => if src / 4 = i ∧ en / 256 ^ (src % 4) % 256 = 0xFF then val / 256 ^ (src % 4) % 256 else v

/-- A vector of the MSI-X table is unmasked: its pending message is sent (R427). -/
def Dev.sendPending (d : Dev) (v : Nat) : Dev :=
  if !thas d.host.msixPend v || bitAt (tget 0 d.host.msixTable (4 * v + 3)) 0 then d
  else
    let d1 := d.setHost fun h => { h with msixPend := tdel h.msixPend v }
    let src := d.host.irqVector.findIdx (· == v)
    if src < 29 then d1.deliver src else d1.toHost (.msix v src)

/-- A word of the MSI-X table (R427): message address, data, and the mask bit of vector control. -/
def Dev.msixWrite (d : Dev) (w val en : Nat) : Dev :=
  let old := tget 0 d.host.msixTable w
  let new := merge old val en &&& (match w % 4 with | 0 => 0xFFFFFFFC | 3 => 1 | _ => 0xFFFFFFFF)
  (d.setHost fun h => { h with msixTable := tset h.msixTable w new }).sendPending (w / 4)

/-- Writes of the global block. -/
def Dev.writeGlobal (d : Dev) (off val en : Nat) : Dev :=
  if off = 0x18 then d.setMask (merge d.host.irqMask val en)
  else if off = 0x1C then d.setHost fun h => { h with irqPending := cleared h.irqPending val en }
  else if 0x20 ≤ off ∧ off < 0x40 then d.setHost fun h => { h with irqVector := vectorsWritten ((off - 0x20) / 4) val en h.irqVector }
  else if 0x8000 ≤ off ∧ off < 0x9000 then d.msixWrite ((off - 0x8000) / 4) val en
  else d

/-! ### The control block (R450, R451) -/

/-- Writes of the registers of ring r. -/
def Dev.writeRing (d : Dev) (r o val en : Nat) : Dev :=
  match o with
  | 0x00 => d.setRing r fun x => { x with base := mergeLow x.base (val &&& 0xFFFFF000) en }
  | 0x04 => d.setRing r fun x => { x with base := mergeHigh x.base val en }
  | 0x08 => d.setRing r fun x => { x with cplBase := mergeLow x.cplBase (val &&& 0xFFFFF000) en }
  | 0x0C => d.setRing r fun x => { x with cplBase := mergeHigh x.cplBase val en }
  | 0x10 => d.setRing r fun x => ctrlWritten (merge (x.ctrl + b2n x.enable) val en) x
  | 0x18 => d.setRing r fun x => if en % 65536 = 0 then x else headWritten (merge (x.head % x.sSize) val en % 65536) x
  | _ => d

/-- Writes of the control block (R387, R450). -/
def Dev.writeControl (d : Dev) (o val en : Nat) : Dev :=
  let high := o / 4 % 2 == 1
  if o = 0x10 then
    let v := merge (d.ctl.checkFraction + 8 * b2n d.ctl.sumCheck) val en
    d.setCtl fun c => { c with checkFraction := v % 8, sumCheck := bitAt v 3 }
  else if o = 0x30 ∨ o = 0x34 then d.setCtl fun c => { c with hostBase := merge64 (o == 0x34) c.hostBase val en }
  else if o = 0x38 ∨ o = 0x3C then d.setCtl fun c => { c with hostSlotSize := merge64 high c.hostSlotSize val en }
  else if o = 0x40 then d.setCtl fun c => { c with hostSlots := merge c.hostSlots val en % 65536 }
  else if o = 0x50 ∨ o = 0x54 then d.setCtl fun c => { c with mirrorBase := merge64 high c.mirrorBase val en }
  else if o = 0x58 ∨ o = 0x5C then d.setCtl fun c => { c with mirrorSize := merge64 high c.mirrorSize val en }
  else if o = 0x60 ∨ o = 0x64 then d.setCtl fun c => { c with mirrorTail := merge64 high c.mirrorTail val en }
  else if o = 0x70 ∨ o = 0x74 then d.setCtl fun c => { c with patBase := merge64 high c.patBase val en &&& 0xFFFFFFFFC0 }
  else if o = 0x78 then d.setCtl fun c => { c with patAddr := merge c.patAddr val en % 4096 }
  else if o = 0x7C then (if bitAt (val &&& en) 0 then d.askLoad else d)
  else if 0x200 ≤ o ∧ o < 0x300 then
    d.setCtl fun c => { c with sems := tset c.sems ((o - 0x200) / 4) (merge (tget 0 c.sems ((o - 0x200) / 4)) val en) }
  else if 0x1000 ≤ o ∧ o < 0x12C0 then d.writeRing ((o - 0x1000) / 0x40) (o % 0x40) val en
  else d

/-! ### M-dies and ports (R245, R268, R279, R280, R294) -/

/-- Writes of an M-die block, by group and word. -/
def Dev.writeMdie (d : Dev) (m g w val en : Nat) : Dev :=
  match g, w with
  | 1, 2 => d.setMdie m fun x =>
      let v := merge (b2n x.scrubEnable + 2 * b2n x.scrubLlm + 16 * x.scrubInterval) val en
      { x with scrubEnable := bitAt v 0, scrubLlm := bitAt v 1, scrubInterval := slice v 7 4 }
  | 2, 1 => d.setMdie m fun x => { x with nmeShare := merge x.nmeShare val en % 32 }
  | _, _ => d

/-- The lanes of a max_width code: 3 acts as 2. -/
def lanesOf (code : Nat) : Nat := match code with | 0 => 8 | 1 => 4 | _ => 2

/-- A write of PORT_CTRL (R279, R280, R289, R294): clearing enable takes the link down, setting it starts training; a narrower max_width
takes effect through a width change, a wider one at the next training; retrain starts training. -/
def Dev.writePortCtrl (d : Dev) (p val en : Nat) : Dev :=
  let x := d.port p
  let v := merge (b2n x.enable + 2 * x.maxField) val en
  let d1 := d.setPort p fun y => { y with enable := bitAt v 0, maxField := slice v 2 1, maxWidth := lanesOf (slice v 2 1) }
  let d2 :=
    if x.enable && !bitAt v 0 then (d1.portDown p 0xFF 0xFF).setPort p fun y => { y with link := 4 }
    else if !x.enable && bitAt v 0 then (if x.held || decide (d.ctl.state < 2) then d1 else d1.setPort p fun y => { y with link := 1, partnerValid := false })
    else d1
  let d3 := if (d2.port p).maxWidth < x.maxWidth then d2.askWidth p (d2.port p).maxWidth else d2
  if bitAt (val &&& en) 3 then d3.train p else d3

/-- Writes of a port block. -/
def Dev.writePortReg (d : Dev) (p o val en : Nat) : Dev :=
  match o with
  | 0x04 => d.writePortCtrl p val en
  | 0x08 => d.setPort p fun x => { x with arb := merge x.arb (val &&& 0xFFFFFFF0) en }
  | 0x3C => d.setPort p fun x => { x with err := cleared x.err val en }
  | _ => d

/-! ### The privileged block (R475, R476, R500, R501) -/

/-- Writes of the power registers. -/
def State.writePwr (s : State) (o val en : Nat) : State :=
  match o with
  | 0x04 =>
    let v := merge (b2n s.pwr.capEnable + 256 * s.pwr.qualify) val en
    let s1 : State := { s with pwr := capOff { s.pwr with capEnable := bitAt v 0, qualify := slice v 15 8 } }
    let s2 := if bitAt (val &&& en) 1 then s1.forceAux else s1
    if bitAt (val &&& en) 2 then s2.forceReturn else s2
  | 0x08 => { s with pwr := { s.pwr with cap := merge s.pwr.cap val en % 4096 } }
  | 0x0C => { s with pwr := { s.pwr with maxN := merge s.pwr.maxN val en % 32 } }
  | 0x10 => { s with pwr := { s.pwr with events := cleared s.pwr.events val en } }
  | _ => s

/-- Writes of the mailbox registers. -/
def State.writeMbx (s : State) (o val en : Nat) : State :=
  if o = 4 then s.mbxCtrl val en
  else if 0x1000 ≤ o ∧ o < 0x2000 then
    let w := (o - 0x1000) / 4
    { s with sec := { s.sec with mbx := { s.sec.mbx with toBuf := tset s.sec.mbx.toBuf w (merge (tget 0 s.sec.mbx.toBuf w) val en) } } }
  else s

/-! ### A write (R430, R432, R434, R441, R442) -/

/-- A write of the word at an offset of BAR0; every location that is not writable ignores it. -/
def State.regWrite (s : State) (off0 val en : Nat) : State :=
  let off := canonical off0
  let onDev (f : Dev → Dev) : State := { s with d := f s.d }
  if !s.readable off then s
  else if off < 0x10000 then onDev fun d => d.writeGlobal off val en
  else if off < 0x20000 then onDev fun d => d.writeControl (off - 0x10000) val en
  else if 0x300000 ≤ off ∧ off < 0x380000 then
    onDev fun d => d.writeMdie ((off - 0x300000) / 0x10000) (off % 0x10000 / 256) (off % 256 / 4) val en
  else if 0x400000 ≤ off ∧ off < 0x480000 then onDev fun d => d.writePortReg ((off - 0x400000) / 0x4000) (off % 0x4000) val en
  else if 0x1000000 ≤ off ∧ off < 0x1010000 then s.writePwr (off - 0x1000000) val en
  else if off = 0x1010004 then (if bitAt (val &&& en) 5 then s.relock else s)
  else if 0x1020000 ≤ off ∧ off < 0x1030000 then s.writeMbx (off - 0x1020000) val en
  else s

/-- REGISTER_WRITE (R29, R416, R429, R430): by the management core, by a request of the driver to BAR0, or by one to BAR4 that is no
doorbell and is ignored. -/
def execRegisterWrite (off val be : Nat) (req : Request) (s : State) : Host.Outcome State Fault Refusal :=
  nextS s fun s =>
    match req with
    | .core => s.regWrite off val (enabled be)
    | .bar0 dws tlp => s.barWrite off tlp (bar0Refused off dws) fun s => s.regWrite off val (enabled be)
    | .bar4 tlp => s.barWrite off tlp false id

/-- IRQ_UNMASK (R427): the driver clears a bit of GLB_IRQ_MASK. -/
def execIrqUnmask (source : Nat) (s : State) : Host.Outcome State Fault Refusal :=
  nextS s fun s => s.regSet 0x18 fun d => d.setMask (d.host.irqMask &&& ((2 ^ 32 - 1) ^^^ 2 ^ source))

end Sys2Proof.Machine
end

