-- ==== Sys2Proof/Machine/Routed.lean ====
section
/-! DEFINITION. Routed.lean: routed SCATTER, its placement and its messages (R305 to R309, R400). -/
namespace Sys2Proof.Machine
open Sys2Proof

/-- The route block of a routed SCATTER (R400). -/
structure RouteBlock where
  idx : Nat
  status : Nat
  rows : Nat
  size : Nat
  x : Nat
  e : Nat
  ovf : Nat
  ovfs : Nat
deriving DecidableEq, Repr

/-- Reads a route block. -/
def parseRoute (b : List Byte) : RouteBlock :=
  ⟨addr40 b 0, addr40 b 8, field b 16 4, field b 20 4, field b 24 2, field b 26 2, field b 28 2, field b 30 2⟩

/-- The distinct owners of the expert entries, ascending (R400). -/
def Dev.expertOwners (d : Dev) (x e : Nat) : List Nat :=
  let l := (List.range e).map fun i => (d.shard (x + i)).owner
  (List.range 4096).filter fun a => l.contains a

/-- Experts whose entry an owner holds, ascending. -/
def Dev.expertsOf (d : Dev) (x e owner : Nat) : List Nat := (List.range e).filter fun i => (d.shard (x + i)).owner == owner

/-- The expert of each source row: −1 and every index outside the experts is not routed (R305; log entry 39). -/
def expertOf (idx : List Byte) (e row : Nat) : Option Nat :=
  let z := sext 32 (field idx (4 * row) 4)
  if 0 ≤ z ∧ z < (e : Int) then some z.toNat else none

/-- A routed SCATTER of this module by its experts. -/
def Dev.routeOf (d : Dev) (x e : Nat) : Option Route := d.ctl.routes.find? fun r => r.x == x && r.e == e

/-- Changes a routed SCATTER. -/
def Dev.setRoute (d : Dev) (x e : Nat) (f : Route → Route) : Dev :=
  d.setCtl fun c => { c with routes := c.routes.map fun r => if r.x = x ∧ r.e = e then f r else r }

/-- The descriptor's route block, source and colony, from a started descriptor: kept in its values (rows, row size, first overflow entry,
index array, status array, source). -/
def Dev.routeBlock (d : Dev) (a : Active) : RouteBlock :=
  ⟨a.mem.getD 3 0, a.mem.getD 4 0, a.mem.getD 0 0, a.mem.getD 1 0, a.mem.getD 6 0, a.mem.getD 7 0, a.mem.getD 2 0, (d.expertOwners (a.mem.getD 6 0) (a.mem.getD 7 0)).length⟩

/-- The overflow entry of an owner (R305, R400). -/
def RouteBlock.overflowOf (b : RouteBlock) (owners : List Nat) (owner : Nat) : Nat := b.ovf + owners.findIdx (· == owner)

/-- Rows that an overflow entry holds (R308). -/
def overflowCap (len size : Nat) : Nat := len / (size + 8)

/-! ### The placement (R307) -/

/-- Per expert of an owner, the words of a source: first slot, rows placed, rows to overflow, first overflow slot, rows dropped. -/
structure Placed where
  slot : Nat
  rows : Nat
  ovr : Nat
  overSlot : Nat
  drop : Nat
deriving DecidableEq, Repr

/-- Places the rows of one expert: sources ascending take slots up to the capacity, the rest take overflow slots up to its capacity,
the rest are dropped (R307). `used` is the overflow used so far. -/
def placeExpert (cap ovfCap : Nat) : Nat → Nat → List Nat → List Placed × Nat
  | _, used, [] => ([], used)
  | slot, used, n :: ns =>
    let k := min n (cap - slot)
    let o := min (n - k) (ovfCap - used)
    let rest := placeExpert cap ovfCap (slot + k) (used + o) ns
    (⟨slot, k, o, used, n - k - o⟩ :: rest.1, rest.2)

/-- Places every expert of an owner in ascending order: capacities and the counts of each source, per expert (R307). -/
def placeAll (ovfCap : Nat) : Nat → List (Nat × List Nat) → List (List Placed) × Nat
  | used, [] => ([], used)
  | used, (cap, ns) :: es =>
    let p := placeExpert cap ovfCap 0 used ns
    let rest := placeAll ovfCap p.2 es
    (p.1 :: rest.1, rest.2)

/-! ### Rows and messages (R306, R308) -/

/-- Tag of an overflow row: expert, source address, source row (R308). -/
def overflowTag (expert src row : Nat) : Nat := expert + 2 ^ 16 * src + 2 ^ 32 * row

/-- Writes rows into an owner's entry, or with their tags into its overflow entry (R308). -/
def Dev.writeRows (d : Dev) (src entry size slot : Nat) (ovr : Bool) (tags rows : List PB) : Dev :=
  let x := d.shard entry
  if ovr then
    (d.write src (x.addr + 8 * slot) tags).write src (x.addr + 8 * overflowCap x.len size + size * slot) rows
  else d.write src (x.addr + size * slot) rows

/-- Rows a ROUTE_DATA message carries at most. -/
def rowsPerMessage (size : Nat) : Nat := max 1 (mib / (size + 8))

/-- Sends or writes rows of the source to slots of an owner's entry; `rows` are source row numbers. -/
def Dev.routeRows (d : Dev) (a : Active) (src size owner entry expert slot : Nat) (ovr : Bool) (rows : List Nat) : Dev :=
  (List.range ((rows.length + rowsPerMessage size - 1) / rowsPerMessage size)).foldl (fun d i =>
    let part := (rows.drop (i * rowsPerMessage size)).take (rowsPerMessage size)
    let s := slot + i * rowsPerMessage size
    let v := part.foldl (fun (acc : List PB × Dev) r => let w := acc.2.read (src + r * size) size; (acc.1 ++ w.1, w.2)) ([], d)
    let tags := clean (part.map fun r => natLE 8 (overflowTag expert d.ctl.address r)).flatten
    if owner = v.2.ctl.address then v.2.writeRows (ringSource a.ring) entry size s ovr tags v.1
    else v.2.send owner 7 0x72 (v.2.messageStep a) (natLE 2 entry ++ zeros 6 ++ natLE 4 s ++ natLE 1 (b2n ovr)) ((if ovr then tags else []) ++ v.1) (some a.uid)) d

/-- The routed SCATTER completes at this member once its placements are all taken up, its rows are acknowledged and, as owner, the rows
it placed have arrived (order 5 of the table Routed SCATTER). -/
def Dev.routeDone (d : Dev) (x e : Nat) : Dev :=
  match d.routeOf x e with
  | none => d
  | some r =>
    let mine := r.owners.contains d.ctl.address
    if r.owners.all (fun o => r.answered.contains o) && (!mine || r.placed) && r.expect == 0 then
      (d.setAct r.uid fun a => { a with done := true }).tryFinish r.uid
    else d

/-- A sender takes up an owner's placement: status bytes are written and its placed rows sent (R306 order 4, R308). -/
def Dev.takePlacement (d : Dev) (r : Route) (owner : Nat) (ps : List Placed) : Dev :=
  match d.act r.uid with
  | none => d
  | some a =>
    let b := d.routeBlock a
    let idx := d.read b.idx (4 * b.rows)
    let bytes := idx.1.map (·.1)
    let ovf := b.overflowOf r.owners owner
    let d1 := ((d.expertsOf r.x r.e owner).zip ps).foldl (fun d q =>
      let p := q.2
      let rows := (List.range b.rows).filter fun i => expertOf bytes r.e i == some q.1
      let first := rows.take p.rows
      let ovr := (rows.drop p.rows).take p.ovr
      let rest := rows.drop (p.rows + p.ovr)
      let st (d : Dev) (i v : Nat) : Dev := d.writeAs (.byStep (ringSource a.ring)) a.uid (b.status + i) [(BitVec.ofNat 8 v, false)]
      let d1 := first.foldl (fun d i => st d i 0) d
      let d2 := ovr.foldl (fun d i => st d i 1) d1
      let d3 := rest.foldl (fun d i => st d i 2) d2
      let d4 := d3.routeRows a (a.mem.getD 5 0) b.size owner (r.x + q.1) q.1 p.slot false first
      let d5 := d4.routeRows a (a.mem.getD 5 0) b.size owner ovf q.1 p.overSlot true ovr
      d5.setRoute r.x r.e fun y =>
        { y with took := y.took ++ (first.zipIdx.map fun i => [i.1, r.x + q.1, 0, p.slot + i.2]) ++ (ovr.zipIdx.map fun i => [i.1, ovf, 1, p.overSlot + i.2]) }) idx.2
    let d2 := if owner = d1.ctl.address then d1 else d1.noteLeft a owner
    (d2.setRoute r.x r.e fun y => { y with answered := y.answered ++ [owner] }).routeDone r.x r.e

/-- ROUTE_COUNT: an owner records a sender's counts (R306); a poisoned count aborts the step (R293). Counts of a sender whose counts the
move already has are those of the next move with the same experts. -/
def Dev.countsIn (d : Dev) (m : Rx) : Dev :=
  let x := m.par 24 2
  let e := m.par 28 4
  match d.routeOf x e with
  | none => if d.inStep m.step = .past ∧ m.step ≠ 0 then d else d.keepEarly 0x70 m
  | some r =>
    if r.placed || r.counts.any (fun c => c.1 == m.src) || (d.act r.uid).isNone then d.keepEarly 0x70 m
    else if m.poisoned then (d.consume 10 m.src 0).raise 3
    else
      d.setRoute x e fun r =>
        { r with counts := (r.counts.filter fun c => c.1 != m.src) ++ [(m.src, (List.range (m.body.length / 4)).map fun i => field m.bytes (4 * i) 4)] }

/-- Takes up kept ROUTE_COUNTs of a routed SCATTER that has begun. -/
def Dev.earlyCounts (d : Dev) : Dev :=
  let l := d.ctl.early
  (l.foldl (fun d e => if e.1 = 0x70 then d.countsIn e.2 else d.keepEarly e.1 e.2) (d.setCtl fun c => { c with early := [] }))

/-- ROUTE_COUNT (R306). -/
def execRouteCount (m : Rx) (s : State) : Host.Outcome State Fault Refusal :=
  nextD s fun d => d.accept 0x70 m true fun d => d.countsIn m

/-- Members of the chain of a routed SCATTER that are there: this module and the JOINED peers. -/
def Dev.routeMembers (d : Dev) (r : Route) : List Nat :=
  match d.act r.uid with
  | some a => (d.chainMembers (field a.bytes 34 2)).filter d.alive
  | none => []

/-- The last row of a routed SCATTER has arrived: the entries that took rows rise by one version (R298). -/
def Dev.bumpGiven (d : Dev) (gave : List (List Nat)) : Dev := ((gave.map fun g => g.getD 1 0).eraseDups).foldl Dev.bump d

/-- The owner places the rows of a routed SCATTER whose counts it holds and answers each sender (orders 2 and 3). -/
def Dev.placeRoute (d : Dev) (r : Route) (a : Active) : Dev :=
  let b := d.routeBlock a
  let me := d.ctl.address
  let exps := d.expertsOf r.x r.e me
  let srcs := (List.range 4096).filter fun s => r.counts.any fun c => c.1 == s
  let countOf (s i : Nat) : Nat := match r.counts.find? fun c => c.1 == s with | some c => c.2.getD i 0 | none => 0
  let ovf := b.overflowOf r.owners me
  let caps := exps.zipIdx.map fun q => ((d.shard (r.x + q.1)).len / b.size, srcs.map fun s => countOf s q.2)
  let pl := (placeAll (overflowCap (d.shard ovf).len b.size) 0 caps).1
  let of (si : Nat) : List Placed := pl.map fun row => row.getD si ⟨0, 0, 0, 0, 0⟩
  let all := pl.flatten
  let overs := (all.map (·.ovr)).sum
  let drops := (all.map (·.drop)).sum
  let far := ((srcs.zipIdx.filter fun s => s.1 != me).map fun s => ((of s.2).map fun p => p.rows + p.ovr).sum).sum
  let gave := (srcs.zipIdx.map fun s => ((exps.zip (of s.2)).map fun q =>
    [[s.1, r.x + q.1, 0, q.2.slot, q.2.rows], [s.1, ovf, 1, q.2.overSlot, q.2.ovr]]).flatten).flatten
  let d1 := (d.setRoute r.x r.e fun y => { y with placed := true, expect := far, gave := gave.filter fun g => g.getD 4 0 != 0 }).setCtl fun c =>
    { c with expertOvf := satAdd 32 c.expertOvf overs, expertDrop := satAdd 32 c.expertDrop drops }
  let d2 := if 0 < drops then d1.logEv 0 0x0033 0xFFFF (natLE 4 drops) 0 else d1
  let words (p : Placed) : List Byte := natLE 4 p.slot ++ natLE 4 p.rows ++ natLE 4 p.ovr ++ natLE 4 p.overSlot ++ natLE 4 p.drop
  let d3 := (srcs.zipIdx.filter fun s => s.1 != me).foldl (fun d s =>
    d.send s.1 7 0x71 (d.messageStep a) (natLE 2 r.x ++ zeros 2 ++ natLE 4 r.e) (clean ((of s.2).map words).flatten) (some a.uid)) d2
  let d4 := match (srcs.zipIdx.find? fun s => s.1 == me), d3.routeOf r.x r.e with
    | some s, some r2 => d3.takePlacement r2 me (of s.2)
    | _, _ => d3
  let d5 := if far = 0 then d4.bumpGiven (gave.filter fun g => g.getD 4 0 != 0) else d4
  d5.routeDone r.x r.e

/-- ROUTE_PLACEMENT (R306, R307): `first` is the first expert entry; the owner waits for the counts of every JOINED member of the chain. -/
def execRoutePlacement (first : Nat) (s : State) : Host.Outcome State Fault Refusal :=
  nextD s fun d =>
    match d.ctl.routes.find? fun r => r.x == first && !r.placed && r.owners.contains d.ctl.address && (d.routeMembers r).all fun m => r.counts.any fun c => c.1 == m with
    | none => d
    | some r => match d.act r.uid with | some a => d.placeRoute r a | none => d

/-- ROUTE_PLACE (R306): the sender takes up its placement; a poisoned count aborts the step (R293). -/
def execRoutePlace (m : Rx) (s : State) : Host.Outcome State Fault Refusal :=
  nextD s fun d => d.accept 0x71 m true fun d =>
    match d.routeOf (m.par 24 2) (m.par 28 4) with
    | none => d
    | some r =>
      if m.poisoned then (d.consume 10 m.src 0).raise 3
      else if r.answered.contains m.src then d
      else
        let w (i : Nat) : Nat := field m.bytes (4 * i) 4
        d.takePlacement r m.src ((List.range (m.body.length / 20)).map fun i => ⟨w (5 * i), w (5 * i + 1), w (5 * i + 2), w (5 * i + 3), w (5 * i + 4)⟩)

/-- Rows come back to their source positions (R309). -/
def Dev.rowsBack (d : Dev) (r : Route) (a : Active) (entry slot : Nat) (ovr : Bool) (rows : List PB) : Dev :=
  let size := a.mem.getD 1 0
  let d1 := (List.range (rows.length / max 1 size)).foldl (fun d i =>
    match r.took.find? fun t => t.drop 1 == [entry, b2n ovr, slot + i] with
    | some t => (d.writeAs (.byStep (ringSource a.ring)) a.uid (a.mem.getD 5 0 + t.headD 0 * size) ((rows.drop (i * size)).take size)).setRoute r.x r.e
        fun y => { y with backLeft := y.backLeft - 1 }
    | none => d) d
  match d1.routeOf r.x r.e with
  | some y => if y.backLeft = 0 then (d1.setAct a.uid fun a => { a with done := true }).tryFinish a.uid else d1
  | none => d1

/-- ROUTE_DATA (R308, R309): rows for an entry of this module, or its own rows coming back, which wait until their reverse move has begun
here. -/
def execRouteData (m : Rx) (s : State) : Host.Outcome State Fault Refusal :=
  nextD s fun d => d.accept 0x72 m true fun d =>
    let entry := m.par 24 2
    let slot := m.par 32 4
    let ovr := m.par 36 1 % 2 == 1
    let here := (d.shard entry).owner == d.ctl.address
    match d.ctl.routes.find? fun r => if here then r.gave.any (fun g => g.take 3 == [m.src, entry, b2n ovr]) else r.took.any fun t => (t.drop 1).take 2 == [entry, b2n ovr] with
    | none => d
    | some r =>
      match (if here then d.act r.uid else r.back.bind d.act) with
      | none => if here then d else d.keepEarly 0x72 m
      | some a =>
        let size := a.mem.getD 1 0
        let n := m.body.length / (size + if ovr then 8 else 0)
        let tags := if ovr then m.body.take (8 * n) else []
        let rows := if ovr then m.body.drop (8 * n) else m.body
        if !here then (d.noteUsed a.bytes m.src).rowsBack r a entry slot ovr rows
        else
          let x := d.shard entry
          let d1 := ((d.writeRows 4 entry size slot ovr tags rows).setRoute r.x r.e fun y => { y with expect := y.expect - n }).noteGot
            m.step m.src x.addr x.len
          let d2 := match d1.routeOf r.x r.e with
            | some y => if y.expect = 0 then d1.bumpGiven y.gave else d1
            | none => d1
          d2.routeDone r.x r.e

/-! ### The descriptor (R305, R309, R400) -/

/-- The values that a routed SCATTER keeps of its route block and source. -/
def routeMem (b : RouteBlock) (src : Nat) : List Nat := [b.rows, b.size, b.ovf, b.idx, b.status, src, b.x, b.e]

/-- A forward move begins: counts go to every owner (order 1). -/
def Dev.routeForward (d : Dev) (a : Active) (b : RouteBlock) : Dev :=
  let owners := d.expertOwners b.x b.e
  let idx := d.read b.idx (4 * b.rows)
  let bytes := idx.1.map (·.1)
  let counts (o : Nat) : List Nat := (idx.2.expertsOf b.x b.e o).map fun e => ((List.range b.rows).filter fun i => expertOf bytes b.e i == some e).length
  let me := d.ctl.address
  let r : Route :=
    { uid := a.uid, owners := owners, x := b.x, e := b.e, counts := if owners.contains me then [(me, counts me)] else [], answered := [],
      placed := false, expect := 0, gave := [], took := [], back := none, backLeft := 0 }
  let d1 := idx.2.setCtl fun c => { c with routes := (c.routes.filter fun y => !(y.x == b.x && y.e == b.e)) ++ [r] }
  let d2 := ((List.range b.rows).filter fun i => expertOf bytes b.e i == none).foldl (fun d i =>
    d.writeAs (.byStep (ringSource a.ring)) a.uid (b.status + i) [((3 : Byte), false)]) d1
  let d3 := (owners.filter (· != me)).foldl (fun d o =>
    d.send o 7 0x70 (d.messageStep a) (natLE 2 b.x ++ zeros 2 ++ natLE 4 b.e) (clean ((counts o).map (natLE 4)).flatten) (some a.uid)) d2
  d3.earlyCounts

/-- The rows of one slot range that an owner returns to a source. -/
def Dev.returnRows (d : Dev) (a : Active) (r : Route) (b : RouteBlock) (g : List Nat) : Dev :=
  let entry := g.getD 1 0
  let ovr := g.getD 2 0 == 1
  let x := d.shard entry
  let n := g.getD 4 0
  (List.range ((n + rowsPerMessage b.size - 1) / rowsPerMessage b.size)).foldl (fun d i =>
    let s := g.getD 3 0 + i * rowsPerMessage b.size
    let k := min (rowsPerMessage b.size) (n - i * rowsPerMessage b.size)
    let tags := if ovr then d.read (x.addr + 8 * s) (8 * k) else ([], d)
    let rows := tags.2.read (x.addr + (if ovr then 8 * overflowCap x.len b.size else 0) + b.size * s) (b.size * k)
    if g.headD 0 = d.ctl.address then rows.2.rowsBack r a entry s ovr rows.1
    else
      (rows.2.send (g.headD 0) 7 0x72 (rows.2.messageStep a) (natLE 2 entry ++ zeros 6 ++ natLE 4 s ++ natLE 1 (b2n ovr)) (tags.1 ++ rows.1)
        (some a.uid)).noteLeft a (g.headD 0)) d

/-- Kept returning rows of the slots that this move recorded, to their places; those of other moves stay kept. -/
def Dev.earlyRows (d : Dev) (a : Active) (size x e : Nat) : Dev :=
  d.ctl.early.foldl (fun d m =>
    let entry := m.2.par 24 2
    let ovr := m.2.par 36 1 % 2 == 1
    match d.routeOf x e with
    | some y =>
      if m.1 = 0x72 ∧ (y.took.any fun t => (t.drop 1).take 2 == [entry, b2n ovr]) = true then
        (d.noteUsed a.bytes m.2.src).rowsBack y a entry (m.2.par 32 4) ovr
          (if ovr then m.2.body.drop (8 * (m.2.body.length / (size + 8))) else m.2.body)
      else d.keepEarly m.1 m.2
    | none => d.keepEarly m.1 m.2) (d.setCtl fun c => { c with early := [] })

/-- A reverse move: rows that were dropped or not routed receive +0, the others come back from their slots (R309). -/
def Dev.routeReverse (d : Dev) (a : Active) (b : RouteBlock) (r : Route) : Dev :=
  let kept := r.took.map fun t => t.headD 0
  let d1 := ((List.range b.rows).filter fun i => !kept.contains i).foldl (fun d i =>
    d.writeAs (.byStep (ringSource a.ring)) a.uid (a.mem.getD 5 0 + i * b.size) (clean (zeros b.size))) d
  let d2 := d1.setRoute r.x r.e fun y => { y with back := some a.uid, backLeft := r.took.length }
  let d3 := r.gave.foldl (fun d g => d.returnRows a r b g) d2
  let d4 := match d3.routeOf r.x r.e with
    | some y => if y.backLeft = 0 then (d3.setAct a.uid fun a => { a with done := true }).tryFinish a.uid else d3
    | none => d3
  d4.earlyRows a b.size r.x r.e

/-- What the checks of a routed SCATTER give: the state after their read, its route block, its direction and its ranges. -/
structure RouteWork where
  d : Dev
  block : RouteBlock
  rev : Bool
  reads : List (Nat × Nat)
  writes : List (Nat × Nat)
deriving DecidableEq, Repr

/-- The checks of a routed SCATTER at the head (R305, R400, R517). -/
def Dev.routedPlan (d : Dev) (r : Nat) (x : Desc) : Plan RouteWork :=
  let b := x.bytes
  let blk := (addr40 b 40, 64)
  if !routedFlag b || d.clash r [blk] [] then .waits
  else if flagInput b || !(d.chainMembers (field b 34 2)).contains d.ctl.address then .refuses d 0x02
  else if !d.allMapped [blk] then .refuses d 0x03
  else
    let v := d.read blk.1 64
    if v.1.any (·.2) then .refuses (v.2.poisonedRead 15 r blk.1) 0x13
    else
      let q := parseRoute (v.1.map (·.1))
      let owners := v.2.expertOwners q.x q.e
      let rev := bitAt (byteAt b 32) 1
      let src := (addr40 b 24, q.rows * q.size)
      let idx := (q.idx, 4 * q.rows)
      let st := (q.status, q.rows)
      let entries := (List.range q.e).map (fun i => v.2.shard (q.x + i)) ++ (List.range q.ovfs).map fun i => v.2.shard (q.ovf + i)
      let own := (entries.filter fun s => s.valid && s.owner == d.ctl.address).map fun s => (s.addr, s.len)
      let reads := if rev then blk :: own else [blk, src, idx]
      let writes := if rev then [src] else st :: own
      if d.clash r reads writes then .waits
      else if q.size = 0 ∨ q.ovfs ≠ owners.length then .refuses v.2 0x02
      else if !v.2.allMapped [src, idx, st] then .refuses v.2 0x03
      else if entries.any fun s => !s.valid || s.epoch then .refuses v.2 0x0C
      else if rev ∧ (v.2.routeOf q.x q.e).isNone then .refuses v.2 0x02
      else .goes ⟨v.2, q, rev, reads, writes⟩

/-- A routed SCATTER starts: forward or in reverse; an owner that is not there ends it (R305, R306, R309). -/
def Dev.routedGo (r : Nat) (x : Desc) (w : RouteWork) : Dev :=
  let q := w.block
  let a := w.d.start r x w.reads w.writes
  let d1 := a.2.setAct a.1.uid fun y => { y with mem := routeMem q (addr40 x.bytes 24) }
  let act := { a.1 with mem := routeMem q (addr40 x.bytes 24) }
  if (w.d.expertOwners q.x q.e).any fun o => !d1.alive o then d1.ownerGone a.1
  else
    match w.rev, d1.routeOf q.x q.e with
    | true, some y => d1.routeReverse act q y
    | _, _ => d1.routeForward act q

/-- The table sectors of a routed SCATTER: its expert and overflow entries, and the routes and peer contexts of its chain (R226). -/
def Dev.routedSectors (d : Dev) (b : List Byte) : List Nat :=
  let q := parseRoute ((d.read (addr40 b 40) 64).1.map (·.1))
  (List.range q.e).map (fun i => d.shardSector (q.x + i)) ++ (List.range q.ovfs).map (fun i => d.shardSector (q.ovf + i)) ++
    (d.chainMembers (field b 34 2)).flatMap peerSectors

/-- A routed SCATTER at the head. -/
def Dev.routedHead (d : Dev) (r : Nat) (x : Desc) : Dev :=
  d.withTables (d.routedSectors x.bytes) fun d => d.follow r (d.routedPlan r x) (Dev.routedGo r x)

/-- ROUTED_SCATTER (R305, R306). -/
def execRoutedScatter (ring : Nat) (s : State) : Host.Outcome State Fault Refusal :=
  nextD s fun d => d.issue ring 0x05 false (d.routedHead ring)

end Sys2Proof.Machine
end

