-- ==== Sys2Proof/Machine/Dispatch.lean ====
section
/-! DEFINITION. Dispatch.lean: the effect of a command, one arm for each row of the command table. -/
namespace Sys2Proof.Machine
open Sys2Proof

/-- The effect of a command on everything but the queue. -/
def exec (i : Instr) (s : State) : Host.Outcome State Fault Refusal :=
  match i with
  | .powerOn mainCv auxCv => Sys2Proof.Machine.execPowerOn mainCv auxCv s
  | .swatchEnd r => Sys2Proof.Machine.execSwatchEnd r s
  | .conventionalReset => Sys2Proof.Machine.execConventionalReset s
  | .flr => Sys2Proof.Machine.execFlr s
  | .d3hotEntry => Sys2Proof.Machine.execD3hotEntry s
  | .d0Return => Sys2Proof.Machine.execD0Return s
  | .hostLinkDown errors => Sys2Proof.Machine.execHostLinkDown errors s
  | .hostLinkUp speed width => Sys2Proof.Machine.execHostLinkUp speed width s
  | .mainInRange cv => Sys2Proof.Machine.execMainInRange cv s
  | .mainQualified => Sys2Proof.Machine.execMainQualified s
  | .mainLost cv => Sys2Proof.Machine.execMainLost cv s
  | .holdEntry => Sys2Proof.Machine.execHoldEntry s
  | .auxLost cv => Sys2Proof.Machine.execAuxLost cv s
  | .auxReturned cv => Sys2Proof.Machine.execAuxReturned cv s
  | .bothInputsLost cv => Sys2Proof.Machine.execBothInputsLost cv s
  | .inputOverVoltage main cv => Sys2Proof.Machine.execInputOverVoltage main cv s
  | .thermalTrip sensor => Sys2Proof.Machine.execThermalTrip sensor s
  | .tripRelease mainCv auxCv => Sys2Proof.Machine.execTripRelease mainCv auxCv s
  | .forceOff => Sys2Proof.Machine.execForceOff s
  | .presenceBreak => Sys2Proof.Machine.execPresenceBreak s
  | .forceAux => Sys2Proof.Machine.execForceAux s
  | .forceReturn => Sys2Proof.Machine.execForceReturn s
  | .pllLockLoss die => Sys2Proof.Machine.execPllLockLoss die s
  | .capLoopTick avg1ms avg100us => Sys2Proof.Machine.execCapLoopTick avg1ms avg100us s
  | .thermalTick temps => Sys2Proof.Machine.execThermalTick temps s
  | .sensorSample readings => Sys2Proof.Machine.execSensorSample readings s
  | .healthTick => Sys2Proof.Machine.execHealthTick s
  | .bar0RsRead tag off req => Sys2Proof.Machine.execBar0RsRead tag off req s
  | .registerWrite off val be req => Sys2Proof.Machine.execRegisterWrite off val be req s
  | .irqUnmask source => Sys2Proof.Machine.execIrqUnmask source s
  | .doorbell ring val be tlp => Sys2Proof.Machine.execDoorbell ring val be tlp s
  | .ringEnable ring val => Sys2Proof.Machine.execRingEnable ring val s
  | .ringDisable ring val => Sys2Proof.Machine.execRingDisable ring val s
  | .ringResume ring => Sys2Proof.Machine.execRingResume ring s
  | .ringHeadWrite ring val => Sys2Proof.Machine.execRingHeadWrite ring val s
  | .descriptorFetch ring bytes outcome => Sys2Proof.Machine.execDescriptorFetch ring bytes outcome s
  | .patternLoad => Sys2Proof.Machine.execPatternLoad s
  | .gemm ring => Sys2Proof.Machine.execGemm ring s
  | .segmentFill tile ofB => Sys2Proof.Machine.execSegmentFill tile ofB s
  | .outputTilePost tile => Sys2Proof.Machine.execOutputTilePost tile s
  | .queueEntryDrain tile => Sys2Proof.Machine.execQueueEntryDrain tile s
  | .stream ring => Sys2Proof.Machine.execStream ring s
  | .cast ring => Sys2Proof.Machine.execCast ring s
  | .ladderMove tile => Sys2Proof.Machine.execLadderMove tile s
  | .checkComputation phys fault => Sys2Proof.Machine.execCheckComputation phys fault s
  | .checkRepeat phys fault => Sys2Proof.Machine.execCheckRepeat phys fault s
  | .thirdComputation phys fault => Sys2Proof.Machine.execThirdComputation phys fault s
  | .gather ring => Sys2Proof.Machine.execGather ring s
  | .scatter ring => Sys2Proof.Machine.execScatter ring s
  | .routedScatter ring => Sys2Proof.Machine.execRoutedScatter ring s
  | .routePlacement first => Sys2Proof.Machine.execRoutePlacement first s
  | .reduce ring => Sys2Proof.Machine.execReduce ring s
  | .nmeGroupUpdate mdie => Sys2Proof.Machine.execNmeGroupUpdate mdie s
  | .fill ring => Sys2Proof.Machine.execFill ring s
  | .copy ring => Sys2Proof.Machine.execCopy ring s
  | .permuteMove => Sys2Proof.Machine.execPermuteMove s
  | .permuteActivate => Sys2Proof.Machine.execPermuteActivate s
  | .permuteAdopt => Sys2Proof.Machine.execPermuteAdopt s
  | .fenceBarrier ring => Sys2Proof.Machine.execFenceBarrier ring s
  | .fenceMoult => Sys2Proof.Machine.execFenceMoult s
  | .fencePark => Sys2Proof.Machine.execFencePark s
  | .txnBegin => Sys2Proof.Machine.execTxnBegin s
  | .txnEnd ring => Sys2Proof.Machine.execTxnEnd ring s
  | .cleanSend => Sys2Proof.Machine.execCleanSend s
  | .commit => Sys2Proof.Machine.execCommit s
  | .lifelineDrainEnd host => Sys2Proof.Machine.execLifelineDrainEnd host s
  | .mirrorRecordCopy => Sys2Proof.Machine.execMirrorRecordCopy s
  | .fencePeerWaitExpiry => Sys2Proof.Machine.execFencePeerWaitExpiry s
  | .stepAbortSend => Sys2Proof.Machine.execStepAbortSend s
  | .strandedRejoin => Sys2Proof.Machine.execStrandedRejoin s
  | .lifelineRestore => Sys2Proof.Machine.execLifelineRestore s
  | .lifelineHostDrain => Sys2Proof.Machine.execLifelineHostDrain s
  | .mark ring => Sys2Proof.Machine.execMark ring s
  | .wait ring => Sys2Proof.Machine.execWait ring s
  | .signal ring => Sys2Proof.Machine.execSignal ring s
  | .bar2Read tag addr len tlp => Sys2Proof.Machine.execBar2Read tag addr len tlp s
  | .bar2Write addr bytes tlp => Sys2Proof.Machine.execBar2Write addr bytes tlp s
  | .confirmationRead mdie agrees => Sys2Proof.Machine.execConfirmationRead mdie agrees s
  | .rowRepair mdie => Sys2Proof.Machine.execRowRepair mdie s
  | .granuleRetirement => Sys2Proof.Machine.execGranuleRetirement s
  | .scrubRead mdie upset strike => Sys2Proof.Machine.execScrubRead mdie upset strike s
  | .mergeEntryIdle mdie sector => Sys2Proof.Machine.execMergeEntryIdle mdie sector s
  | .frameReceive port bytes => Sys2Proof.Machine.execFrameReceive port bytes s
  | .nakRepeatTimer port => Sys2Proof.Machine.execNakRepeatTimer port s
  | .replayTimeout port => Sys2Proof.Machine.execReplayTimeout port s
  | .widthRequest port width group seq => Sys2Proof.Machine.execWidthRequest port width group seq s
  | .widthAccept port width group seq => Sys2Proof.Machine.execWidthAccept port width group seq s
  | .widthRequestTimeout port => Sys2Proof.Machine.execWidthRequestTimeout port s
  | .portLinkDown port cause => Sys2Proof.Machine.execPortLinkDown port cause s
  | .portRetrain port => Sys2Proof.Machine.execPortRetrain port s
  | .linkUp port t => Sys2Proof.Machine.execLinkUp port t s
  | .trainingRetryTimer port found => Sys2Proof.Machine.execTrainingRetryTimer port found s
  | .ack m => Sys2Proof.Machine.execAck m s
  | .ackSend peer => Sys2Proof.Machine.execAckSend peer s
  | .ackTimeout peer cls => Sys2Proof.Machine.execAckTimeout peer cls s
  | .peerSilenceTimeout peer => Sys2Proof.Machine.execPeerSilenceTimeout peer s
  | .probeTimeout peer => Sys2Proof.Machine.execProbeTimeout peer s
  | .probe m => Sys2Proof.Machine.execProbe m s
  | .helloTimer => Sys2Proof.Machine.execHelloTimer s
  | .hello m => Sys2Proof.Machine.execHello m s
  | .welcome m => Sys2Proof.Machine.execWelcome m s
  | .refuse m => Sys2Proof.Machine.execRefuse m s
  | .leave m => Sys2Proof.Machine.execLeave m s
  | .state m => Sys2Proof.Machine.execState m s
  | .retraction m => Sys2Proof.Machine.execRetraction m s
  | .rsum m => Sys2Proof.Machine.execRsum m s
  | .result m => Sys2Proof.Machine.execResult m s
  | .rerunReq m => Sys2Proof.Machine.execRerunReq m s
  | .rerun m => Sys2Proof.Machine.execRerun m s
  | .gatherReq m => Sys2Proof.Machine.execGatherReq m s
  | .gatherReply peer => Sys2Proof.Machine.execGatherReply peer s
  | .gatherData m => Sys2Proof.Machine.execGatherData m s
  | .scatterData m => Sys2Proof.Machine.execScatterData m s
  | .shardRefuse m => Sys2Proof.Machine.execShardRefuse m s
  | .permuteData m => Sys2Proof.Machine.execPermuteData m s
  | .permuteDone m => Sys2Proof.Machine.execPermuteDone m s
  | .routeCount m => Sys2Proof.Machine.execRouteCount m s
  | .routePlace m => Sys2Proof.Machine.execRoutePlace m s
  | .routeData m => Sys2Proof.Machine.execRouteData m s
  | .clean m => Sys2Proof.Machine.execClean m s
  | .committing m => Sys2Proof.Machine.execCommitting m s
  | .stepAbortMsg m => Sys2Proof.Machine.execStepAbortMsg m s
  | .retractDone m => Sys2Proof.Machine.execRetractDone m s
  | .llBegin m => Sys2Proof.Machine.execLlBegin m s
  | .llData m => Sys2Proof.Machine.execLlData m s
  | .llEnd m => Sys2Proof.Machine.execLlEnd m s
  | .llFetch m => Sys2Proof.Machine.execLlFetch m s
  | .llNone m => Sys2Proof.Machine.execLlNone m s
  | .mgmtMctp m => Sys2Proof.Machine.execMgmtMctp m s
  | .moduleReadCompletion tag bytes tlp => Sys2Proof.Machine.execModuleReadCompletion tag bytes tlp s
  | .completionTimeout tag => Sys2Proof.Machine.execCompletionTimeout tag s
  | .mbxSend val => Sys2Proof.Machine.execMbxSend val s
  | .mbxAck => Sys2Proof.Machine.execMbxAck s
  | .entdaa addr => Sys2Proof.Machine.execEntdaa addr s
  | .setEndpointId p op eid => Sys2Proof.Machine.execSetEndpointId p op eid s
  | .getEndpointId p => Sys2Proof.Machine.execGetEndpointId p s
  | .getEndpointUuid p => Sys2Proof.Machine.execGetEndpointUuid p s
  | .getMctpVersionSupport p typ => Sys2Proof.Machine.execGetMctpVersionSupport p typ s
  | .getMessageTypeSupport p => Sys2Proof.Machine.execGetMessageTypeSupport p s
  | .getTid p => Sys2Proof.Machine.execGetTid p s
  | .setTid p tid => Sys2Proof.Machine.execSetTid p tid s
  | .getPldmVersion p typ => Sys2Proof.Machine.execGetPldmVersion p typ s
  | .getPldmTypes p => Sys2Proof.Machine.execGetPldmTypes p s
  | .getPldmCommands p typ => Sys2Proof.Machine.execGetPldmCommands p typ s
  | .getPdrRepositoryInfo p => Sys2Proof.Machine.execGetPdrRepositoryInfo p s
  | .getPdr p handle => Sys2Proof.Machine.execGetPdr p handle s
  | .getSensorReading p sensor => Sys2Proof.Machine.execGetSensorReading p sensor s
  | .getStateSensorReadings p sensor => Sys2Proof.Machine.execGetStateSensorReadings p sensor s
  | .setNumericEffecterValue p effecter val => Sys2Proof.Machine.execSetNumericEffecterValue p effecter val s
  | .getNumericEffecterValue p effecter => Sys2Proof.Machine.execGetNumericEffecterValue p effecter s
  | .setEventReceiver p mode eid => Sys2Proof.Machine.execSetEventReceiver p mode eid s
  | .queryDeviceIdentifiers p => Sys2Proof.Machine.execQueryDeviceIdentifiers p s
  | .getFirmwareParameters p => Sys2Proof.Machine.execGetFirmwareParameters p s
  | .requestUpdate p maxSize components => Sys2Proof.Machine.execRequestUpdate p maxSize components s
  | .passComponentTable p comp flag => Sys2Proof.Machine.execPassComponentTable p comp flag s
  | .updateComponent p comp size => Sys2Proof.Machine.execUpdateComponent p comp size s
  | .requestFirmwareData p data => Sys2Proof.Machine.execRequestFirmwareData p data s
  | .transferComplete p => Sys2Proof.Machine.execTransferComplete p s
  | .verifyComplete p => Sys2Proof.Machine.execVerifyComplete p s
  | .applyComplete p => Sys2Proof.Machine.execApplyComplete p s
  | .activateFirmware p selfContained => Sys2Proof.Machine.execActivateFirmware p selfContained s
  | .getStatus p => Sys2Proof.Machine.execGetStatus p s
  | .cancelUpdateComponent p => Sys2Proof.Machine.execCancelUpdateComponent p s
  | .cancelUpdate p => Sys2Proof.Machine.execCancelUpdate p s
  | .keyRecord p bytes => Sys2Proof.Machine.execKeyRecord p bytes s
  | .debugChallenge p => Sys2Proof.Machine.execDebugChallenge p s
  | .debugToken p bytes => Sys2Proof.Machine.execDebugToken p bytes s
  | .debugRelock p => Sys2Proof.Machine.execDebugRelock p s
  | .peerAttest p body => Sys2Proof.Machine.execPeerAttest p body s
  | .readFlashRecords p => Sys2Proof.Machine.execReadFlashRecords p s
  | .spdmGetVersion p => Sys2Proof.Machine.execSpdmGetVersion p s
  | .spdmGetCapabilities p req => Sys2Proof.Machine.execSpdmGetCapabilities p req s
  | .spdmNegotiateAlgorithms p req => Sys2Proof.Machine.execSpdmNegotiateAlgorithms p req s
  | .spdmGetDigests p => Sys2Proof.Machine.execSpdmGetDigests p s
  | .spdmGetCertificate p slot off len => Sys2Proof.Machine.execSpdmGetCertificate p slot off len s
  | .spdmChallenge p req => Sys2Proof.Machine.execSpdmChallenge p req s
  | .spdmGetMeasurements p req => Sys2Proof.Machine.execSpdmGetMeasurements p req s
  | .spdmKeyExchange p req => Sys2Proof.Machine.execSpdmKeyExchange p req s
  | .spdmFinish p req => Sys2Proof.Machine.execSpdmFinish p req s
  | .spdmEndSession p sid => Sys2Proof.Machine.execSpdmEndSession p sid s
  | .spdmHeartbeat p sid => Sys2Proof.Machine.execSpdmHeartbeat p sid s
  | .spdmKeyUpdate p sid op tag => Sys2Proof.Machine.execSpdmKeyUpdate p sid op tag s
  | .spdmChunkSend p req => Sys2Proof.Machine.execSpdmChunkSend p req s
  | .spdmChunkGet p handle seq => Sys2Proof.Machine.execSpdmChunkGet p handle seq s
  | .spdmVendorDefinedRequest p sid req => Sys2Proof.Machine.execSpdmVendorDefinedRequest p sid req s
  | .spdmRespondIfReady p code token => Sys2Proof.Machine.execSpdmRespondIfReady p code token s
  | .inputOutsideInRangeBand main cv => Sys2Proof.Machine.execInputOutsideInRangeBand main cv s
  | .busMasterEnable on c => Sys2Proof.Machine.execBusMasterEnable on c s
  | .doeDiscovery index => Sys2Proof.Machine.execDoeDiscovery index s

end Sys2Proof.Machine
end

