-- ==== Sys2Proof/Safety.lean ====
section
/-! DEFINITION. Safety.lean: what every run keeps, and the conditions and results that the statements are written in. -/
namespace Sys2Proof.Machine
open Sys2Proof

/-! ### What every step keeps -/

/-- The power path's settings and counts stay inside their fields: n of the cap loop and of the thermal loop between 2 and 16, the
event bits in [7:0], the settings and the counts in theirs (R473, R474, R476, R482). -/
def Pwr.ok (p : Pwr) : Bool :=
  decide (2 ≤ p.nCap) && decide (p.nCap ≤ 16) && decide (2 ≤ p.nThermal) && decide (p.nThermal ≤ 16) && decide (p.events < 256) &&
    decide (p.cap < 4096) && decide (p.maxN < 32) && decide (p.qualify < 256) && decide (p.toAux < 65536) && decide (p.returns < 65536)

/-- The security root's records stay inside their fields: the score and the health word (R487), the operator floor and the ID LED (R481),
the debug registers, which hold 0 while debug is locked (R500, R501), and the slot states empty, active and revoked (R492). -/
def Sec.ok (x : Sec) : Bool :=
  decide (x.score ≤ 255 * 65536) && decide (x.health ≤ 255) && decide (x.operatorFloor < 256) && decide (x.idLed ≤ 1) &&
    decide (x.debugScope < 16) && decide (x.debugIssuer ≤ 1) && (x.debugOn || (x.debugScope == 0 && x.debugIssuer == 0)) &&
    decide (x.debugAttempts < 65536) && x.slots.all fun e => decide (e.2.1 ≤ 2)

/-- What every step keeps of the power path and of the security root. -/
def State.ok (s : State) : Bool := s.pwr.ok && s.sec.ok

/-- Memory is in canonical form: addresses strictly rising, and no entry equal to what an unlisted address reads as (an unlisted SRAM byte
reads 0; what a stack byte that nothing has written reads as is not known, so every written one is listed). -/
def Mem.canonical (m : Mem) : Bool := tabOk m.cells && tabOk m.bad && m.cells.all fun c => decide (c.1 < stackEnd) || c.2 != 0

/-! ### Next states -/

/-- The state whose data and control planes are `d`, with the heads it leaves completed where no command starts them (R390, R393,
R411). -/
def State.settled (s : State) (d : Dev) : State := { s with d := d.settle }

/-- The state with a new power path, management plane and data and control planes; the queue of commands stands. -/
def State.become (s : State) (p : Pwr) (x : Sec) (d : Dev) : State := { pending := s.pending, pwr := p, sec := x, d := d.settle }

/-- The state whose power path, management plane, data and control planes are those of `t`; the queue of commands stands. -/
def State.went (s t : State) : State := s.become t.pwr t.sec t.d

/-- No ring holds a fetched descriptor. -/
def Dev.noHead (d : Dev) : Bool := (List.range 11).all fun r => (d.ring r).queue.isEmpty

/-! ### Conditions -/

/-- Descriptor `x` stands at the head of ring `r` with kind `k` and a tile count in range, and the ring, the module's state and the open step
let it start (R391, R393, R406, R410). -/
def Dev.ready (d : Dev) (r k : Nat) (adopt : Bool) (x : Desc) : Bool :=
  d.head r == some x && kindOf x.bytes == k && x.fetch == 0 && !(isColony r && (d.ring r).ended) && d.judge r x.bytes adopt == .legal &&
    !(r == 0 && d.commitAct.isSome) && decide (tilesOf x.bytes ≤ 96)

/-- A well-formed message of a type waits in the inbox (R285). -/
def Dev.arrived (d : Dev) (typ : Nat) (m : Rx) : Bool := d.inbox.contains (typ, m) && !d.malformed typ m

/-- A sequenced message waits in the inbox, well formed, in order, from a JOINED peer; it is neither of an aborted attempt nor one that
shows the module to be behind, and the tables of its sender read without poison (R226, R284, R285, R343, R346). -/
def Dev.inOrder (d : Dev) (typ : Nat) (m : Rx) : Bool :=
  d.arrived typ m && (d.peer m.src).state == 3 && m.sequenced && m.seq == (d.peer m.src).rx.getD m.cls 0 && !d.showsBehind m &&
    (match d.ctl.txn with | some t => !(t.aborted && m.step == t.step && m.cls != 5 && m.step != 0) | none => true) &&
    (peerSectors m.src).all d.tableClean

/-- The planes once a sequenced message has been taken up: out of the inbox, its sequence number passed, the acknowledgement due
(R284). -/
def Dev.taken (d : Dev) (typ : Nat) (m : Rx) : Dev :=
  (d.takeMessage typ m).setPeer m.src fun x =>
    { x with rx := x.rx.set m.cls (((d.peer m.src).rx.getD m.cls 0 + 1) % 2 ^ 32), missed := 0, ackDue := true }

/-- The driver can reach the registers: the link is up and the function is in D0 (R421, R422). -/
def Dev.reached (d : Dev) : Bool := d.host.linkUp && d.barOpen

/-! ### Families of commands -/

/-- The commands that read a register or speak with the management core alone: no request among them starts work or sets the supply. -/
def managementOnly : Instr → Bool
  | .bar0RsRead .. | .healthTick | .sensorSample .. | .thermalTick .. | .capLoopTick .. | .doeDiscovery .. | .mbxAck | .entdaa .. => true
  | .setEndpointId .. | .getEndpointId .. | .getEndpointUuid .. | .getMctpVersionSupport .. | .getMessageTypeSupport .. => true
  | .getTid .. | .setTid .. | .getPldmVersion .. | .getPldmTypes .. | .getPldmCommands .. => true
  | .getPdrRepositoryInfo .. | .getPdr .. | .getSensorReading .. | .getStateSensorReadings .. | .getNumericEffecterValue .. => true
  | .setEventReceiver .. | .queryDeviceIdentifiers .. | .getFirmwareParameters .. | .requestUpdate .. | .passComponentTable .. => true
  | .updateComponent .. | .requestFirmwareData .. | .transferComplete .. | .verifyComplete .. | .applyComplete .. | .getStatus .. => true
  | .cancelUpdateComponent .. | .cancelUpdate .. => true
  | .keyRecord .. | .debugChallenge .. | .debugToken .. | .debugRelock .. | .peerAttest .. | .readFlashRecords .. => true
  | .spdmGetVersion .. | .spdmGetCapabilities .. | .spdmNegotiateAlgorithms .. | .spdmGetDigests .. | .spdmGetCertificate .. => true
  | .spdmChallenge .. | .spdmGetMeasurements .. | .spdmKeyExchange .. | .spdmFinish .. | .spdmEndSession .. | .spdmHeartbeat .. => true
  | .spdmKeyUpdate .. | .spdmChunkSend .. | .spdmChunkGet .. | .spdmVendorDefinedRequest .. | .spdmRespondIfReady .. => true
  | _ => false

/-- The commands that can bring a key record or a debug token: those two, and a fragment sent through the mailbox. -/
def bringsRecord : Instr → Bool
  | .keyRecord .. | .debugToken .. | .mbxSend .. | .registerWrite .. => true
  | _ => false

/-- The commands that take up a sequenced message, with the message type of each (R285). -/
def sequencedCommands : List (Nat × (Rx → Instr)) :=
  [(0x14, .state), (0x20, .retraction), (0x40, .rsum), (0x41, .result), (0x42, .rerunReq), (0x43, .rerun), (0x50, .gatherReq), (0x51, .gatherData),
   (0x52, .scatterData), (0x53, .shardRefuse), (0x60, .permuteData), (0x61, .permuteDone), (0x70, .routeCount), (0x71, .routePlace),
   (0x72, .routeData), (0x80, .clean), (0x81, .committing), (0x82, .stepAbortMsg), (0x83, .retractDone), (0x90, .llBegin), (0x91, .llData),
   (0x92, .llEnd), (0x93, .llFetch), (0x94, .llNone), (0xA0, .mgmtMctp)]

/-- The commands that start a descriptor of ring `r` that some state of the module does not allow, with the kind of each (R406). -/
def startingCommands (r : Nat) : List (Nat × Instr) :=
  [(0x01, .gemm r), (0x02, .stream r), (0x03, .cast r), (0x04, .gather r), (0x05, .scatter r), (0x05, .routedScatter r), (0x07, .reduce r),
   (0x08, .fill r), (0x09, .copy r), (0x0C, .txnEnd r)] ++
  (if r = 0 then [(0x0A, .fencePark), (0x0B, .txnBegin), (0x0E, .lifelineRestore), (0x0E, .lifelineHostDrain)] else [])

end Sys2Proof.Machine
end

