-- ==== Sys2Proof/Certificates/Slice0/Obligations.lean ====
section
/-! DEFINITION. Obligations.lean: the statements for the provers. A statement about a command writes its next state with
`State.settled` or `State.become` of Safety.lean: the fields named change as written, every other field stands, and the heads that no
command starts are then completed (`Dev.settle`). -/
open Sys2Proof Sys2Proof.Machine

/-! ### The queue of commands -/

/-- A step takes the front command and runs it on the state with the rest of the queue. -/
def Obligations.StepRunsFrontCommand : Prop :=
  ∀ (c : Instr) (rest : List Instr) (s : State), step { s with pending := c :: rest } = exec c { s with pending := rest }

/-- Every step ends in a next state, and takes exactly the front command off the queue: no command adds one, drops one or stops the
module. With no command waiting the module idles: nothing changes but the gauges of the colonies and the count of free values (the model's
choice, log entries 17 and 21). -/
def Obligations.StepConsumesFrontCommand : Prop :=
  (∀ s : State, ∃ t, step s = .next t ∧ t.pending = s.pending.tail) ∧
  (∀ s : State, s.pending = [] → step s = .next s.tick ∧ ∃ g n, s.tick = { s with d := { s.d with gauges := g, free := n } }) ∧
  (∀ s : State, s.d.ctl.pattern = none → s.tick = s)

/-! ### Power inputs (R456 to R458) -/

/-- MAIN_IN_RANGE, AUX_RETURNED and INPUT_OUTSIDE_IN_RANGE_BAND record what the power path measures: in range is 44.0 V to 59.0 V. An input
that leaves its band and is not lost clears its in-range flag, MAIN its qualification too, and nothing else changes once the power path
draws from a MAIN that was qualified (`State.drawMain`, FAULT alone; log entry 58).
INPUT_OVER_VOLTAGE above 60.0 V opens the input and leaves event bit 4 and 16 health points; AUX_LOST with MAIN qualified leaves event bit 2
and 32 points, and outside HOLD the module then draws from MAIN (log entry 29); TRIP_RELEASE below 42.0 V on both inputs closes them again
(R456, R457, R458, R476, R487, R506). -/
def Obligations.InputEventsAreRecorded : Prop :=
  (∀ (s : State) (cv : Nat), s.d.ctl.state ≠ 0 →
     (4400 ≤ cv → cv ≤ 5900 →
       exec (.mainInRange cv) s = .next (s.become { s.pwr with mainCv := cv, mainOk := true, mainOpen := false } s.sec s.d)) ∧
     (4400 ≤ cv → cv ≤ 5900 → s.pwr.auxOk = true →
       exec (.auxReturned cv) s = .next (s.become { s.pwr with auxCv := cv, auxOk := true, auxOpen := false } s.sec s.d)) ∧
     (4400 ≤ cv → cv ≤ 5900 → s.pwr.auxOk = false →
       exec (.auxReturned cv) s = .next (s.become { s.pwr with auxCv := cv, auxOk := true, auxOpen := false, events := s.pwr.events ||| 8 } s.sec
         (s.d.logEv 2 0x0040 0xFFFF (natLE 1 8) 0))) ∧
     (∀ u, u = s.drawMain → (4200 ≤ cv ∧ cv < 4400 ∨ 5900 < cv ∧ cv ≤ 6000) →
       exec (.inputOutsideInRangeBand true cv) s = .next (s.become { u.pwr with mainCv := cv, mainOk := false, qualified := false } s.sec u.d) ∧
       exec (.inputOutsideInRangeBand false cv) s = .next (s.become { u.pwr with auxCv := cv, auxOk := false } s.sec u.d))) ∧
  (∀ (s : State) (cv : Nat),
     (s.d.ctl.state ≠ 0 → 6000 < cv →
       exec (.inputOverVoltage true cv) s = .next (s.become
         { s.pwr with mainCv := cv, mainOpen := true, mainOk := false, qualified := false, events := s.pwr.events ||| 16 } s.sec
         ((s.d.logEv 2 0x0040 0xFFFF (natLE 1 16) 0).health 16))) ∧
     (s.d.ctl.state ≠ 0 → 6000 < cv →
       exec (.inputOverVoltage false cv) s = .next (s.become
         { s.pwr with auxCv := cv, auxOpen := true, auxOk := false, events := s.pwr.events ||| 16 } s.sec
         ((s.d.logEv 2 0x0040 0xFFFF (natLE 1 16) 0).health 16))) ∧
     (s.d.ctl.state ≠ 0 → s.d.ctl.state ≠ 7 → (cv < 4200 ∨ 6000 < cv) → s.pwr.qualified = true → s.d.ctl.onAux = false →
       exec (.auxLost cv) s = .next (s.become { s.pwr with auxCv := cv, auxOk := false, events := s.pwr.events ||| 4 } s.sec
         ((s.d.logEv 2 0x0040 0xFFFF (natLE 1 4) 0).health 32))) ∧
     (s.d.ctl.state ≠ 0 → s.d.ctl.state ≠ 7 → (cv < 4200 ∨ 6000 < cv) → s.pwr.qualified = true → s.d.ctl.onAux = true →
       exec (.auxLost cv) s = .next (s.become
         { s.pwr with auxCv := cv, auxOk := false, events := s.pwr.events ||| 4, returns := satAdd 16 s.pwr.returns 1, forced := false, switchStage := 0 } s.sec
         (((s.d.logEv 2 0x0040 0xFFFF (natLE 1 4) 0).health 32).setCtl fun c => { c with onAux := false }))) ∧
     (∀ av, s.pwr.tripOpen = true → cv < 4200 → av < 4200 →
       exec (.tripRelease cv av) s = .next (s.become
         { s.pwr with mainCv := cv, auxCv := av, mainOpen := false, auxOpen := false, tripOpen := false, thermTrip := false } s.sec s.d)))

/-- Loss of both inputs, a thermal trip, FORCE_OFF_N and a broken presence pair take the module to POWEROFF (state 0): a final record with
the step and the state is in flash, what flash and OTP hold stands (firmware copies, key slots, security version, key sequence, the
retirement list), the control plane, rings, peers, tiles and ports are at their reset values, and the stacks have lost their contents. -/
def Obligations.PowerOffKeepsFlashAlone : Prop :=
  ∀ (s : State) (n : Nat), s.d.ctl.state ≠ 0 →
    ∀ c, ((c = .bothInputsLost n ∧ outsideLoss n = true) ∨ c = .thermalTrip n ∨ c = .forceOff ∨ c = .presenceBreak ∨
          (c = .mainLost n ∧ outsideLoss n = true ∧ s.pwr.auxThere = false) ∨ (c = .auxLost n ∧ outsideLoss n = true ∧ s.pwr.qualified = false)) →
      ∃ t cause, exec c s = .next t ∧ t.pending = s.pending ∧ t.d.ctl = { Ctl.reset with state := 0, moduleId := s.d.ctl.moduleId } ∧
        t.d.mem = ⟨[], [], s.d.mem.losses + 1⟩ ∧ t.d.retired = s.d.retired ∧ t.d.rings = [] ∧ t.d.acts = [] ∧ t.d.peers = [] ∧
        t.d.tiles = [] ∧ t.d.ports = [] ∧ t.sec.finals = (s.d.ctl.committed + 1, s.d.ctl.state, cause) :: s.sec.finals ∧
        t.sec.copyA = s.sec.copyA ∧ t.sec.copyB = s.sec.copyB ∧ t.sec.otpVersion = s.sec.otpVersion ∧ t.sec.slots = s.sec.slots ∧
        t.sec.slot0Disabled = s.sec.slot0Disabled ∧ t.sec.keySeq = s.sec.keySeq ∧ t.pwr.pwrgd = false ∧ t.pwr.qualified = false

/-! ### Start-up, switch-over and HOLD (R460 to R475) -/

/-- POWER_ON with an input in range starts the management island and verifies the firmware: the module waits for MAIN in BOOT (state 1),
or is in FAULT (state 9) where neither copy was accepted. -/
def Obligations.PowerOnBootsTheFirmware : Prop :=
  ∀ (s : State) (mv av : Nat), s.d.ctl.state ≤ 1 → s.pwr.bootOrder = 0 → s.pwr.tripOpen = false →
    (4400 ≤ mv ∧ mv ≤ 5900 ∨ 4400 ≤ av ∧ av ≤ 5900) →
    ∃ d, exec (.powerOn mv av) s = .next (s.become
        { s.pwr with mainCv := mv, auxCv := av, mainOpen := false, auxOpen := false, mainOk := inBand mv, auxOk := inBand av, qualified := false, bootOrder := 2 }
        s.sec.boot d) ∧
      d.ctl.state = (if s.sec.boot.recovery then 9 else 1) ∧ d.mem = s.d.mem ∧ d.rings = s.d.rings

/-- MAIN_QUALIFIED in BOOT, or in a SWATCH that has stopped, runs orders 4 to 7 of the table Power-up: SWATCH (state 2), PWRGD high, the
stacks trained and the SRAM filled; where AUX carried the module the return counts, and where MAIN had been lost event bit 1 is set.
SWATCH_END then leaves BARE (state 3) where no unit failed that puts the module into FAULT; the tiles that failed a test or whose parity
checker failed are marked failed. -/
def Obligations.StartUpReachesBare : Prop :=
  (∀ s : State, (s.d.ctl.state = 1 ∨ s.d.ctl.state = 2) → s.pwr.bootOrder = 2 → s.pwr.mainOk = true → s.pwr.qualified = false →
    ∃ d, exec .mainQualified s = .next (s.become
        { s.pwr with qualified := true, mainWas := false, events := if s.pwr.mainWas then s.pwr.events ||| 2 else s.pwr.events,
                     returns := if s.d.ctl.onAux then satAdd 16 s.pwr.returns 1 else s.pwr.returns, forced := s.pwr.forced && !s.d.ctl.onAux,
                     switchStage := if s.d.ctl.onAux then 0 else s.pwr.switchStage, bootOrder := 7, stopped := false, pwrgd := true } s.sec d) ∧
      d.ctl.state = 2 ∧ d.ctl.onAux = false ∧ d.mem = s.d.mem.fillSram ∧ ∀ m < 8, (d.mdie m).trained = true ∧ (d.mdie m).fillDone = true) ∧
  (∀ (s : State) (r : SwatchResult), s.d.ctl.state = 2 → s.pwr.bootOrder = 7 → s.pwr.stopped = false → swatchFault r = false →
    ∃ d, exec (.swatchEnd r) s = .next (s.become { s.pwr with bootOrder := 10 } s.sec d) ∧ d.ctl.state = 3 ∧ d.mem = s.d.mem.fillSram ∧
      ∀ p < 104, (d.tile p).failed = (badTiles r).contains p)

/-- A loss of MAIN, or a write of force_aux, takes the load to AUX with its event and its count: a load that has not got far is abandoned,
the supply cause is raised, and the switch-over waits for HOLD_ENTRY (stage 1; R465, R466, R475). -/
def Obligations.SwitchOverRaisesSupplyCause : Prop :=
  ∀ (s : State) (cv : Nat), holdable s.d.ctl.state = true → s.d.ctl.onAux = false → s.pwr.auxThere = true →
    ((cv < 4200 ∨ 6000 < cv) → exec (.mainLost cv) s = .next (s.become
      { s.pwr with mainCv := cv, mainOk := false, qualified := false, mainWas := true, events := s.pwr.events ||| 1, toAux := satAdd 16 s.pwr.toAux 1, switchStage := 1 }
      s.sec ((((s.d.logEv 2 0x0040 0xFFFF (natLE 1 1) 0).health 64).abandonLoad.raise 11).setCtl fun c => { c with onAux := true }))) ∧
    (s.pwr.qualified = true → exec .forceAux s = .next (s.become
      { s.pwr with forced := true, events := s.pwr.events ||| 128, toAux := satAdd 16 s.pwr.toAux 1, switchStage := 1 }
      s.sec (((s.d.logEv 2 0x0040 0xFFFF (natLE 1 128) 0).abandonLoad.raise 11).setCtl fun c => { c with onAux := true })))

/-- HOLD_ENTRY, once the step's abort or commit has ended, empties the merge buffers and makes every port that is wider ask for x2; with
every port that is up at x2, it writes the dirty lines back and enters HOLD, remembering the state to return to. The return of MAIN and
force_return go back there: MAIN carries the module again, returns counts, and the ports ask for the widths they held (R465, R470,
R475). -/
def Obligations.HoldIsEnteredAndLeft : Prop :=
  (∀ (s b : State) (d : Dev), s.pwr.switchStage = 1 ∨ s.pwr.switchStage = 2 → s.d.switchSettled = true → holdable s.d.ctl.state = true →
    b = (if s.pwr.switchStage = 1 then { s with pwr := { s.pwr with switchStage := 2 }, d := s.d.abandonLoad.flushAll.allPorts fun _ => notePort } else s) →
    d = (b.d.allPorts fun _ => holdPort) →
    ((∃ p, p < 32 ∧ (d.port p).isUp = true ∧ ((d.port p).width ≠ 2 ∨ (d.port p).changing = true)) →
      exec .holdEntry s = .next (s.become b.pwr s.sec d)) ∧
    ((∀ p, p < 32 → (d.port p).isUp = true → (d.port p).width = 2 ∧ (d.port p).changing = false) → s.pwr.qualified = false ∨ s.pwr.forced = true →
      exec .holdEntry s = .next (s.become { s.pwr with switchStage := 0, holdReturn := d.leftState } s.sec
        (((d.writeBack.setCtl fun c => { c with loading := none }).setState 7).sendState)))) ∧
  (∀ s : State, s.d.ctl.state = 7 → s.pwr.mainOk = true → s.pwr.qualified = false → s.pwr.mainWas = true →
    exec .mainQualified s = .next (s.become
      { s.pwr with qualified := true, mainWas := false, events := s.pwr.events ||| 2, returns := satAdd 16 s.pwr.returns 1, forced := false, switchStage := 0 } s.sec
      ((((s.d.logEv 2 0x0040 0xFFFF (natLE 1 2) 0).setCtl fun c => { c with onAux := false }).allPorts fun _ => returnPort).leaveHold s.pwr.holdReturn).tryFinishAll)) ∧
  (∀ s : State, s.d.ctl.state = 7 → s.pwr.forced = true → s.pwr.qualified = true →
    exec .forceReturn s = .next (s.become { s.pwr with returns := satAdd 16 s.pwr.returns 1, forced := false, switchStage := 0 } s.sec
      (((s.d.setCtl fun c => { c with onAux := false }).allPorts fun _ => returnPort).leaveHold s.pwr.holdReturn).tryFinishAll))

/-! ### The periodic loops and the clocks (R31, R474, R481, R482, R487) -/

/-- CAP_LOOP_TICK on MAIN applies one comparison of the cap loop, THERMAL_TICK one of the thermal loop, SENSOR_SAMPLE stores the readings
and HEALTH_TICK folds the points since the last tick into the score and the health word. PLL_LOCK_LOSS marks the die, leaves event 0x0042 with it, and puts
the module into FAULT. -/
def Obligations.PeriodicLoopsStep : Prop :=
  ∀ s : State, s.d.ctl.state ≠ 0 →
    (∀ slow fast, s.drawMain.d.ctl.onAux = true → exec (.capLoopTick slow fast) s = .next (s.become { s.pwr with mainPower := slow } s.sec s.d)) ∧
    (∀ slow fast, s.drawMain.d.ctl.onAux = false → (fast ≤ 2400 ∨ s.pwr.capEnable = false) →
      exec (.capLoopTick slow fast) s = .next (s.become (capStep { s.pwr with mainPower := slow } slow fast) s.sec s.d)) ∧
    (∀ slow fast, s.drawMain.d.ctl.onAux = false → s.pwr.capEnable = true → 2400 < fast →
      exec (.capLoopTick slow fast) s = .next (s.become
        { capStep { s.pwr with mainPower := slow } slow fast with events := (capStep { s.pwr with mainPower := slow } slow fast).events ||| 32 } s.sec
        ((s.d.logEv 2 0x0040 0xFFFF (natLE 1 32) 0).health 16))) ∧
    (∀ ts, ∃ x d, exec (.thermalTick ts) s = .next (s.become x { s.sec with tcrit := ts.mapIdx fun i t => decide (criticalAt i ≤ t) } d) ∧
      x.nThermal = thermalStep s.pwr.nThermal ts ∧ x.nCap = s.pwr.nCap ∧ d.ctl = s.d.ctl ∧ d.mem = s.d.mem) ∧
    (∀ rs, rs.length = 36 → ∃ t, exec (.sensorSample rs) s = .next t ∧ t.sec.readings = rs.take 34 ++ [s.aclkN, s.sec.health] ∧
      t.pwr.mainCv = rs.getD 30 0 ∧ t.pwr.mainPower = rs.getD 31 0 ∧ t.pwr.auxCv = rs.getD 32 0 ∧ t.pwr.auxPower = rs.getD 33 0 ∧ t.pwr.nCap = s.pwr.nCap ∧ t.pwr.nThermal = s.pwr.nThermal) ∧
    exec .healthTick s = .next (s.become s.pwr
      { s.sec with score := (healthTick s.sec.score s.d.points s.floors).1, health := (healthTick s.sec.score s.d.points s.floors).2 }
      { s.d with points := 0 }) ∧
    (∀ die, s.pwr.deadDies.contains die = false →
      exec (.pllLockLoss die) s = .next (s.become { s.pwr with deadDies := s.pwr.deadDies ++ [die] } s.sec
        (s.d.logEv 0 0x0042 0xFFFF (natLE 1 die) 0).enterFault))

/-! ### Resets (R424 to R426) -/

/-- A conventional reset puts the control plane, the rings, the peers, the ports, configuration space and the settings of the power path at
their reset values, with what is known of the two inputs, and boots the management core anew: the stacks keep their contents, with merge
entries and dirty lines written back, and flash and OTP keep the module ID, the retirement list, both firmware copies, the key slots, the
key sequence and the final records (R424, R449, R461).
A function level reset keeps the power path but for the state that HOLD returns to, and the management plane. In BARE, LOADED, RUNNING,
MOULT and STRANDED it restores the control plane, rings, peers and configuration space and leaves the module in BARE; in HOLD it does the
same and the module stays in HOLD, to return to BARE; both keep the stacks, with merge entries and dirty lines written back once loads and
drains have ended. In BOOT, SWATCH and FAULT it restores registers alone, and the state and all of memory stand (R425, R426). -/
def Obligations.ResetsRestart : Prop :=
  (∀ s : State, s.d.ctl.state ≠ 0 → ∃ t, exec .conventionalReset s = .next t ∧ t.pending = s.pending ∧
    t.d.ctl = { Ctl.reset with state := if t.sec.recovery then 9 else if s.pwr.qualified then 2 else 1, moduleId := s.d.ctl.moduleId,
                               onAux := !s.pwr.qualified && s.pwr.auxThere } ∧
    t.d.rings = [] ∧ t.d.acts = [] ∧ t.d.peers = [] ∧ t.d.ports = [] ∧ t.d.host.linkUp = false ∧ t.d.host.cfg = HostConfig.reset ∧
    t.pwr = { Pwr.reset with mainCv := s.pwr.mainCv, auxCv := s.pwr.auxCv, mainOk := s.pwr.mainOk, auxOk := s.pwr.auxOk, mainOpen := s.pwr.mainOpen,
                             auxOpen := s.pwr.auxOpen, qualified := s.pwr.qualified, mainWas := s.pwr.mainWas, bootOrder := t.pwr.bootOrder, pwrgd := t.pwr.pwrgd } ∧
    (∀ b, b < 0x9000000000 → t.d.mem.sector b = s.d.flushAll.writeBack.mem.sector b) ∧ t.d.retired = s.d.retired ∧ t.sec = s.sec.cold.boot ∧ t.sec.copyA = s.sec.copyA ∧ t.sec.copyB = s.sec.copyB ∧
    t.sec.slots = s.sec.slots ∧ t.sec.keySeq = s.sec.keySeq ∧ t.sec.finals = s.sec.finals ∧ s.sec.otpVersion ≤ t.sec.otpVersion) ∧
  (∀ (s : State) (d : Dev), d = ((s.d.setHost fun h => { h with cfg := { h.cfg with msixOn := false } }).abandonLoad.drainsEnd.sendLeave 7) →
    s.d.ctl.state ∈ [3, 4, 5, 6, 7, 8] →
    ∃ t, exec .flr s = .next t ∧ t.pending = s.pending ∧ t.sec = s.sec ∧ t.pwr = { s.pwr with holdReturn := if s.d.ctl.state = 7 then 3 else s.pwr.holdReturn } ∧
      t.d.ctl = { Ctl.reset with state := if s.d.ctl.state = 7 then 7 else 3, moduleId := s.d.ctl.moduleId, onAux := s.d.ctl.onAux } ∧
      t.d.rings = [] ∧ t.d.acts = [] ∧ t.d.peers = [] ∧ t.d.host.cfg = HostConfig.reset ∧ t.d.host.busMaster = false ∧
      t.d.retired = s.d.retired ∧ ∀ b, b < 0x9000000000 → t.d.mem.sector b = d.flushAll.writeBack.mem.sector b) ∧
  (∀ s : State, s.d.ctl.state ∈ [1, 2, 9] →
    ∃ t, exec .flr s = .next t ∧ t.pending = s.pending ∧ t.sec = s.sec ∧ t.pwr = s.pwr ∧
      t.d.ctl = { Ctl.reset with state := s.d.ctl.state, moduleId := s.d.ctl.moduleId, onAux := s.d.ctl.onAux } ∧ t.d.rings = [] ∧ t.d.acts = [] ∧
      t.d.peers = [] ∧ t.d.host.cfg = HostConfig.reset ∧ t.d.mem = s.d.mem ∧ t.d.mdies = s.d.mdies ∧ t.d.ports = s.d.ports)

/-! ### The host link and configuration space (R413, R420 to R422) -/

/-- D3HOT_ENTRY, D0_RETURN, BUS_MASTER_ENABLE, HOST_LINK_DOWN, HOST_LINK_UP and DOE_DISCOVERY change the host port: what waited for the
host is released with bus mastering in D0 on a link that is up; a link that goes down logs its errors, ends the host drains and drops what
waited but for the rings' completion events, which are raised again when it returns with its speed and width. -/
def Obligations.HostLinkCommands : Prop :=
  ∀ s : State,
    exec .d3hotEntry s = .next (s.settled (s.d.setHost fun h => { h with d3hot := true })) ∧
    exec .d0Return s = .next (s.settled (s.d.setHost fun h => { h with d3hot := false }).release) ∧
    (∀ on c, exec (.busMasterEnable on c) s = .next (s.settled (s.d.setHost fun h => { h with busMaster := on, cfg := c }).release)) ∧
    (s.d.host.linkUp = true → s.d.ctl.drains = [] →
      exec (.hostLinkDown []) s = .next (s.settled (s.d.setHost fun h =>
        { h with linkUp := false, speed := 0, lanes := 0, waiting := [], held := []
                 lost := h.lost ++ (h.held.filter fun x => decide (x ≤ 10) && !h.lost.contains x) }))) ∧
    (∀ es, s.d.host.linkUp = true →
      exec (.hostLinkDown es) s = .next (s.settled ((es.foldl (fun d e => d.aer (linkErrorBit e) 0) s.d).setHost dropWaiting).hostDrainEnds)) ∧
    (∀ v w, s.d.host.linkUp = false → 4 ≤ s.pwr.bootOrder →
      exec (.hostLinkUp v w) s = .next (s.settled (s.d.host.lost.foldl Dev.irq (s.d.setHost fun h => { h with linkUp := true, speed := v, lanes := w, lost := [] })))) ∧
    (∀ i, i < 3 → s.d.host.linkUp = true →
      exec (.doeDiscovery i) s = .next (s.settled (s.d.setHost fun h =>
        { h with out := .doe (natLE 2 1 ++ natLE 1 0 ++ natLE 1 0 ++ natLE 4 3 ++ (natLE 2 1 ++ natLE 1 i ++ natLE 1 (if i < 2 then i + 1 else 0))) :: h.out })))

/-! ### Registers and rings (R389, R408, R409, R416, R427, R429, R436, R451, R452) -/

/-- BAR0_RS_READ answers the register's value and leaves the shadow latch of R436; REGISTER_WRITE has the register's effect, by the driver
or by the management core; of the driver's, a poisoned write is dropped and logged, a request of more than one DW, of an address that is
not aligned to 4 bytes or beyond BAR0 is an Unsupported Request, and a place of BAR4 that is no doorbell reads 0 and ignores writes;
IRQ_UNMASK clears one mask bit and delivers what is pending, with I/O die 0 powered and its clock locked. -/
def Obligations.RegisterCommands : Prop :=
  ∀ s : State,
    (∀ tag off, s.d.reached = true → bar0Refused off 1 = false →
      exec (.bar0RsRead tag off (.bar0 1 .good)) s =
        .next (s.settled ((s.latch false off).setHost fun h => { h with out := .value tag (s.readValue false off) :: h.out }))) ∧
    (∀ tag off, exec (.bar0RsRead tag off .core) s = .next (s.settled (s.latch true off))) ∧
    (∀ off val be, s.d.reached = true → bar0Refused off 1 = false →
      exec (.registerWrite off val be (.bar0 1 .good)) s = .next (s.went (s.regWrite off val (enabled be)))) ∧
    (∀ off val be, exec (.registerWrite off val be .core) s = .next (s.went (s.regWrite off val (enabled be)))) ∧
    (∀ off val be, s.d.reached = true → bar0Refused off 1 = false →
      exec (.registerWrite off val be (.bar0 1 .poisoned)) s = .next (s.settled (s.d.aer aerPoisoned off))) ∧
    (∀ tag off val be dws, s.d.reached = true → (dws ≠ 1 ∨ off % 4 ≠ 0 ∨ 0x4000000 ≤ off) →
      exec (.bar0RsRead tag off (.bar0 dws .good)) s = .next (s.settled (s.d.unsupported (some tag) off)) ∧
      exec (.registerWrite off val be (.bar0 dws .good)) s = .next (s.settled (s.d.unsupported none off))) ∧
    (∀ tag off val be, s.d.reached = true →
      exec (.bar0RsRead tag off (.bar4 .good)) s = .next (s.settled (s.d.setHost fun h => { h with out := .value tag 0 :: h.out })) ∧
      exec (.registerWrite off val be (.bar4 .good)) s = .next (s.settled s.d)) ∧
    (∀ src, s.d.reached = true → 4 ≤ s.pwr.bootOrder → s.pwr.deadDies.contains 12 = false →
      exec (.irqUnmask src) s = .next (s.settled (s.d.setMask (s.d.host.irqMask &&& ((2 ^ 32 - 1) ^^^ 2 ^ src)))))

/-- DOORBELL moves the tail of its ring, where all four byte enables are set; a poisoned one is dropped and logged; RING_ENABLE,
RING_DISABLE, RING_RESUME and RING_HEAD_WRITE change the ring's record and nothing else: with I/O die 0 powered and its clock locked. -/
def Obligations.RingControlCommands : Prop :=
  ∀ (s : State) (r val : Nat), r ≤ 10 → s.d.reached = true → 4 ≤ s.pwr.bootOrder → s.pwr.deadDies.contains 12 = false →
    exec (.doorbell r val 15 .good) s = .next (s.settled (s.d.setRing r fun x => { x with tail := val % 65536 % x.size })) ∧
    (∀ be, be ≠ 15 → exec (.doorbell r val be .good) s = .next (s.settled s.d)) ∧
    (∀ be, exec (.doorbell r val be .poisoned) s = .next (s.settled (s.d.aer aerPoisoned (0x1000 * r)))) ∧
    (val.testBit 0 = true → exec (.ringEnable r val) s = .next (s.settled (s.d.setRing r (ctrlWritten val)))) ∧
    (val.testBit 0 = false → exec (.ringDisable r val) s = .next (s.settled (s.d.setRing r (ctrlWritten val)))) ∧
    exec (.ringResume r) s = .next (s.settled (s.d.setRing r resumedRing)) ∧
    exec (.ringHeadWrite r val) s = .next (s.settled (s.d.setRing r (headWritten (val % 65536))))

/-- DESCRIPTOR_FETCH reads the slot at the fetch place: 64 bytes of device memory, or those of a host completion. -/
def Obligations.DescriptorFetchCompletes : Prop :=
  ∀ (s : State) (r : Nat) (bytes : List Byte),
    s.d.fetched r = true → (s.d.ring r).enable = true → (s.d.ring r).halted = false → (s.d.ring r).unfetched ≠ 0 →
      ((s.d.ring r).sRingDev = false → s.d.host.linkUp = true → s.d.hostReady = true →
        exec (.descriptorFetch r bytes 0) s = .next (s.settled (s.d.fetchedSlot r ⟨(s.d.ring r).fetchAt, sub bytes 0 64, 0⟩))) ∧
      (∀ a, a = (s.d.ring r).sBase + 64 * ((s.d.ring r).fetchAt % (s.d.ring r).sSize) → (s.d.ring r).sRingDev = true → s.d.mapped a 64 = true →
        (s.d.read a 64).1.any (·.2) = false →
        exec (.descriptorFetch r bytes 0) s =
          .next (s.settled ((s.d.read a 64).2.fetchedSlot r ⟨(s.d.ring r).fetchAt, (s.d.read a 64).1.map (·.1), 0⟩)))

/-- FILL and COPY at the head of a ring, with their fields in range, their bytes mapped and no earlier descriptor in the way, write their
bytes and complete with OK. -/
def Obligations.FillAndCopyComplete : Prop :=
  (∀ (s : State) (r : Nat) (x : Desc) (dst len : Nat), dst = addr40 x.bytes 16 → len = addr40 x.bytes 24 → s.d.ready r 0x08 false x = true →
    s.d.clash r [] [(dst, len)] = false → s.d.transferFieldsOk r x.bytes = true → s.d.allMapped [(dst, len)] = true →
    exec (.fill r) s = .next (s.settled
      ((((s.d.start r x [] [(dst, len)]).2.writeAs (.byStep (ringSource r)) (s.d.start r x [] [(dst, len)]).1.uid dst (clean (fillBytes (sub x.bytes 32 8) len))).countDma
        r (placeOf x.bytes) len).finish (s.d.start r x [] [(dst, len)]).1.uid 0))) ∧
  (∀ (s : State) (r : Nat) (x : Desc) (src dst len : Nat), src = addr40 x.bytes 16 → dst = addr40 x.bytes 24 → len = addr40 x.bytes 32 →
    s.d.ready r 0x09 false x = true → s.d.clash r [(src, len)] [(dst, len)] = false → s.d.transferFieldsOk r x.bytes = true →
    s.d.allMapped [(src, len), (dst, len)] = true → overlaps (src, len) (dst, len) = false →
    ∀ a d0 v, s.d.start r x [(src, len)] [(dst, len)] = (a, d0) → d0.read src len = v →
    exec (.copy r) s = .next (s.settled
      ((((v.2.recordInput a src len v.1).writeAs (.byStep (ringSource r)) a.uid dst v.1).countDma r (placeOf x.bytes) len).finish a.uid 0)))

/-- MARK sets the gauge phase of a colony or leaves an event; WAIT completes once its semaphore has reached its value; SIGNAL adds to its
semaphore, saturating, and a FENCE barrier completes, once no earlier descriptor of the ring is incomplete. -/
def Obligations.OrderingCommandsComplete : Prop :=
  ∀ (s : State) (r : Nat) (x : Desc), flagInput x.bytes = false →
    (s.d.ready r 0x0F false x = true → markPhase (byteAt x.bytes 16) = true → isColony r = true →
      exec (.mark r) s = .next (s.settled ((s.d.setCtl fun c => { c with phase := tset c.phase (r - 1) (byteAt x.bytes 16) }).refuseHead r 0))) ∧
    (s.d.ready r 0x0F false x = true → markPhase (byteAt x.bytes 16) = true → isColony r = false →
      exec (.mark r) s = .next (s.settled ((s.d.logEv 0 0x0050 r (natLE 8 (tagOf x.bytes)) 0).refuseHead r 0))) ∧
    (s.d.ready r 0x10 false x = true → byteAt x.bytes 16 < 64 → field x.bytes 20 4 ≤ tget 0 s.d.ctl.sems (byteAt x.bytes 16) →
      exec (.wait r) s = .next (s.settled (s.d.refuseHead r 0))) ∧
    (s.d.ready r 0x11 false x = true → byteAt x.bytes 16 < 64 → s.d.ringIdle r = true →
      exec (.signal r) s = .next (s.settled ((s.d.setCtl fun c =>
        { c with sems := tset c.sems (byteAt x.bytes 16) (satAdd 32 (tget 0 c.sems (byteAt x.bytes 16)) (field x.bytes 20 4)) }).refuseHead r 0))) ∧
    (s.d.ready r 0x0A false x = true → byteAt x.bytes 16 = 0 → s.d.ringIdle r = true →
      exec (.fenceBarrier r) s = .next (s.settled (s.d.refuseHead r 0)))

/-! ### Device memory (R42, R228 to R249, R417, R418) -/

/-- BAR2_READ returns the bytes of a range that BAR2 reaches, BAR2_WRITE writes them, MERGE_ENTRY_IDLE writes a merge entry back. -/
def Obligations.DirectAccessCompletes : Prop :=
  ∀ s : State,
    (∀ tag a n, s.d.reached = true → s.d.bar2Reach a n = true →
      exec (.bar2Read tag a n .good) s = .next (s.settled ((Dev.hostPoison (n / 64 + 2) (s.d.read a n).2 a (s.d.read a n).1).setHost fun h =>
        { h with out := (splitCompletions tag (n / 64 + 2) a (s.d.read a n).1 none).reverse ++ h.out }))) ∧
    (∀ a bytes, s.d.reached = true → s.d.bar2Reach a bytes.length = true →
      exec (.bar2Write a bytes .good) s = .next (s.settled (s.d.write 0 a (clean bytes)))) ∧
    (∀ a bytes, s.d.reached = true → s.d.bar2Reach a bytes.length = true →
      exec (.bar2Write a bytes .poisoned) s = .next (s.settled ((s.d.aer aerPoisoned a).write 0 a (bytes.map fun b => (b, true))))) ∧
    (∀ m k e, (s.d.mdie m).merge.find? (fun e => e.sector == k) = some e → exec (.mergeEntryIdle m k) s = .next (s.settled (s.d.flushEntry m e)))

/-- A confirmation read that agrees leaves its event and one health point; one that disagrees takes the row into the row fault flow. ROW_REPAIR
and GRANULE_RETIREMENT end in the M-die's list and the retirement list; SCRUB_READ moves the scrubber one place on. -/
def Obligations.RowFaultFlow : Prop :=
  ∀ s : State,
    (∀ m c rest, takeFirst (fun c : Confirm => c.mdie == m) s.d.confirms = (some c, rest) →
      exec (.confirmationRead m true) s = .next (s.settled ((({ s.d with confirms := rest } : Dev).logEv 1 0x0020 m (natLE 1 c.fails ++ natLE 1 2) c.addr).health 1)) ∧
      exec (.confirmationRead m false) s =
        .next (s.settled (((({ s.d with confirms := rest } : Dev).logEv 1 0x0020 m (natLE 1 c.fails ++ natLE 1 1) c.addr).health 8).rowFault c.key))) ∧
    (∀ m c rest, takeFirst (fun c : Row × Nat => c.1.mdie == m) s.d.repairs = (some c, rest) →
      ∃ d, exec (.rowRepair m) s = .next (s.settled d) ∧ (d.mdie m).repaired = (s.d.mdie m).repaired ++ [c.1] ∧ d.repairs = rest ∧ d.retired = s.d.retired) ∧
    (∀ c rest, s.d.retires = c :: rest → s.d.retired.length < 8192 →
      ∃ d, exec .granuleRetirement s = .next (s.settled d) ∧ d.retired = s.d.retired ++ [(c.2 / 65536, s.d.retired.length)] ∧ d.retires = rest ∧ d.repairs = s.d.repairs) ∧
    (∀ m up strike, (s.d.mdie m).scrubEnable = true → (s.d.mdie m).trained = true →
      ∃ d, exec (.scrubRead m up strike) s = .next (s.settled d) ∧ (d.mdie m).scrubPos = ((s.d.mdie m).scrubPos + 1) % stackSectors ∧
        (d.mdie m).scrubCount = ((s.d.mdie m).scrubCount + 1) % 256 ∧ d.retired = s.d.retired ∧ d.tiles = s.d.tiles)

/-! ### Ports (R275 to R280, R289) -/

/-- FRAME_RECEIVE: a frame that passes FEC and CRC has its effect; an uncorrectable one and one with a wrong CRC are counted, flagged and
asked for again.
NAK_REPEAT_TIMER sets nak again; REPLAY_TIMEOUT sends the replay buffer again and leaves one health point; WIDTH_REQUEST is answered
by an accept, WIDTH_ACCEPT starts the change, and a request without an answer takes the link down, one of the return from HOLD in its turn.
PORT_RETRAIN, TRAINING_RETRY_TIMER and LINK_UP: a port trains, starts again from order 1, and comes up with sequences at 0 and full
credits at the width and lane group of order 4. -/
def Obligations.PortCommands : Prop :=
  (∀ (s : State) (p : Nat) (bytes : List Byte), s.d.up p = true →
     exec (.frameReceive p bytes) s = .next (s.settled (match readFrame bytes with
       | .ok slot chunks n => (s.d.setPort p fun x => { x with fecCorr := (x.fecCorr + n) % 2 ^ 64 }).frameOk p slot chunks
       | .uncorrectable n => ((s.d.setPort p fun x => nakPort { x with fecCorr := (x.fecCorr + n) % 2 ^ 64, fecUncorr := satAdd 32 x.fecUncorr 1 }).portErr p 1).answerOn p
       | .badCrc n => ((s.d.setPort p fun x => nakPort { x with fecCorr := (x.fecCorr + n) % 2 ^ 64, crcErr := satAdd 32 x.crcErr 1 }).portErr p 2).answerOn p))) ∧
  ((∀ (s : State) (p : Nat), s.d.up p = true →
      ((s.d.port p).nakArmed = true → exec (.nakRepeatTimer p) s = .next (s.settled ((s.d.setPort p fun x => { x with nakNext := true }).answerOn p))) ∧
      ((s.d.port p).replay ≠ [] → (s.d.port p).replay.any (fun f => decide (16 ≤ f.replays)) = false →
        exec (.replayTimeout p) s = .next (s.settled ((s.d.setPort p replayPort).health 1))) ∧
      (∀ w g q, (s.d.port p).widthReq = none → (s.d.ctl.state = 7 → w = 2) →
        exec (.widthRequest p w g q) s = .next (s.settled (s.d.setPort p fun x => settleWidth { (controlFrame 3 w g q x) with link := 3, widthAcc := some (w, g, q) }))) ∧
      (∀ w g q, (s.d.port p).widthReq = some (w, g, q) →
        exec (.widthAccept p w g q) s = .next (s.settled ((s.d.setPort p fun x => settleWidth { x with link := 3, widthReq := none, widthPeer := some (w, g, q) }).pump p))) ∧
      (∀ w, (s.d.port p).widthReq = some w →
        ((s.d.port p).back ≠ 1 → exec (.widthRequestTimeout p) s = .next (s.settled (s.d.portDown p 6 6))) ∧
        ((s.d.port p).back = 1 → exec (.widthRequestTimeout p) s = .next (s.settled
          (s.d.setPort p fun x => { x with back := 2, link := 2, widthReq := none, widthAcc := none, widthPeer := none }).retrainNext))) ∧
      (∀ cause, exec (.portLinkDown p cause) s = .next (s.settled (s.d.portDown p cause cause)))) ∧
   (∀ (s : State) (p : Nat),
      (p < 32 → 4 ≤ s.pwr.bootOrder → s.pwr.deadDies.contains (12 + p / 16) = false →
        (s.d.port p).enable = true → (s.d.port p).held = false → 2 ≤ s.d.ctl.state →
        exec (.portRetrain p) s = .next (s.settled ((s.d.portDown p 0xFF Config.retrainCause).setPort p fun x =>
          { x with link := 1, locked := 0, partnerValid := false }))) ∧
      ((s.d.port p).link = 1 →
        exec (.trainingRetryTimer p none) s = .next (s.settled (s.d.setPort p fun x => { x with locked := 0, partnerValid := false })) ∧
        ∀ t, exec (.trainingRetryTimer p (some t)) s = .next (s.settled (s.d.setPort p (foundPort t)))) ∧
      (∀ (t : Trained) (w g : Nat), (s.d.port p).link = 1 → (s.d.port p).enable = true → (s.d.port p).held = false →
        (trainChoices (min (s.d.port p).maxWidth t.partnerMax) t.locked)[t.fails]? = some (w, g) →
        exec (.linkUp p t) s = .next (s.settled ((s.d.setPort p (upPort t w g (s.d.ctl.state == 7))).answerOn p).retrainNext))))

/-- A port that leaves the up state trains again where it is enabled, counts the loss, keeps no frame to replay and no chunk received, keeps
what it has not sent, leaves an event and 16 health points. -/
def Obligations.LinkDownEmptiesThePort : Prop :=
  ∀ (d : Dev) (p cause event : Nat), d.up p = true → d.joined = [] →
    d.portDown p cause event = ((d.setPort p (downPort cause)).logEv 0 0x0030 p (natLE 1 event) 0).health 16 ∧
    ((d.portDown p cause event).port p).link = (if (d.port p).enable then 1 else 4) ∧ ((d.portDown p cause event).port p).replay = [] ∧
    ((d.portDown p cause event).port p).rxBuf = List.replicate 8 [] ∧ ((d.portDown p cause event).port p).queues = (d.port p).queues ∧
    ((d.portDown p cause event).port p).linkDowns = satAdd 32 (d.port p).linkDowns 1 ∧ (d.portDown p cause event).up p = false ∧
    ∀ q, q ≠ p → (d.portDown p cause event).port q = d.port q

/-! ### Peers (R284, R286, R290 to R292) -/

/-- ACK drops what it acknowledges and goes on with what waited for it; ACK_SEND, PEER_SILENCE_TIMEOUT, PROBE_TIMEOUT and PROBE answer and
ask; ACK_TIMEOUT counts a missed acknowledgement and sends the class again on the next usable port. -/
def Obligations.AcknowledgementCommands : Prop :=
  (∀ (s : State) (m : Rx), s.d.arrived 0x01 m = true → (s.d.peer m.src).state = 3 →
    exec (.ack m) s = .next (s.settled (((s.d.takeMessage 0x01 m).setPeer m.src fun p =>
      { p with missed := 0, probing := false, resends := 0, unacked := p.unacked.filter fun x => !seqBefore x.seq (m.par (24 + 4 * x.cls) 4) }).ackEffects))) ∧
  (∀ (s : State) (m : Rx), s.d.arrived 0x02 m = true → (s.d.peer m.src).state = 3 →
    exec (.probe m) s = .next (s.settled (((s.d.takeMessage 0x02 m).setPeer m.src fun p => { p with missed := 0, ackDue := false }).sendRoute m.src 0x01
      (ackParams (s.d.peer m.src)) []))) ∧
  (∀ (s : State) (a : Nat), (s.d.peer a).ackDue = true →
    exec (.ackSend a) s = .next (s.settled ((s.d.setPeer a fun p => { p with ackDue := false }).sendRoute a 0x01 (ackParams (s.d.peer a)) []))) ∧
  (∀ (s : State) (a : Nat), (s.d.peer a).state = 3 →
    exec (.peerSilenceTimeout a) s = .next (s.settled ((s.d.setPeer a fun p => { p with probing := true }).sendRoute a 0x02 [] []))) ∧
  (∀ (s : State) (a : Nat), (s.d.peer a).state = 3 → (s.d.peer a).probing = true → (s.d.peer a).missed < 3 →
    exec (.probeTimeout a) s = .next (s.settled
      ((s.d.setPeer a fun p => { p with missed := p.missed + 1, missedTotal := satAdd 16 p.missedTotal 1 }).sendRoute a 0x02 [] []))) ∧
  (∀ (s : State) (a cls port : Nat) (d1 : Dev), (s.d.peer a).state = 3 → ((s.d.peer a).unacked.filter fun m => m.cls == cls) ≠ [] → (s.d.peer a).missed < 3 →
    d1 = s.d.setPeer a (fun p => { p with missed := p.missed + 1, missedTotal := satAdd 16 p.missedTotal 1 }) →
    nextUsable (s.d.route a) (s.d.usable a) ((s.d.peer a).lastPort.getD cls 0 - 1) = some port →
    exec (.ackTimeout a cls) s = .next (s.settled (((s.d.peer a).unacked.filter fun m => m.cls == cls).foldl (fun d m => d.queueOn port a m)
      (d1.setPeer a fun x => { x with lastPort := x.lastPort.set cls (port + 1), resends := x.resends + 1 }))))

/-- A missed acknowledgement is counted; the fourth in a row makes the peer depart (R291). -/
def Obligations.FourthMissDeparts : Prop :=
  ∀ (d : Dev) (a : Nat), (d.peer a).state = 3 →
    ((d.peer a).missed < 3 → (d.missed a).peer a = { d.peer a with missed := (d.peer a).missed + 1, missedTotal := satAdd 16 (d.peer a).missedTotal 1 }) ∧
    (3 ≤ (d.peer a).missed → ((d.missed a).peer a).state ≠ 3)

/-- HELLO_TIMER asks every member that is not joined; HELLO is answered by REFUSE, on its own port and with the first cause of the table
Scout causes, or by WELCOME on the peer's route, and a JOINED peer without a usable port departs; WELCOME joins; REFUSE records its cause,
with an event for each change of it; LEAVE departs with cause 3; STATE records the peer's fields. -/
def Obligations.ScoutCommands : Prop :=
  (∀ s : State, sendsHello s.d.ctl.state = true →
    exec .helloTimer s = .next (s.settled ((s.d.members'.filter fun a => a != s.d.ctl.address && [0, 2, 4, 5].contains (s.d.peer a).state && !(s.d.usable a).isEmpty).foldl
      (fun d a => (d.setPeer a fun p => { p with state := 2 }).sendRoute a 0x10 [] (d.scout 0)) s.d))) ∧
  (∀ (s : State) (m : Rx), s.d.arrived 0x10 m = true →
    (∀ c, s.d.helloCause m.src m.bytes = some c →
      exec (.hello m) s = .next (s.settled ((s.d.takeMessage 0x10 m).replyOn m 0x12 [] ((s.d.takeMessage 0x10 m).scout c)))) ∧
    (s.d.helloCause m.src m.bytes = none →
      exec (.hello m) s = .next (s.settled ((((s.d.takeMessage 0x10 m).joinPeer m.src m.bytes).sendRoute m.src 0x11 []
        ((s.d.takeMessage 0x10 m).scout 0)).departUnreachable m.src)))) ∧
  (∀ (s : State) (m : Rx), s.d.arrived 0x11 m = true → sendsHello s.d.ctl.state = true → s.d.members'.contains m.src = true → m.src ≠ s.d.ctl.address →
    (s.d.peer m.src).state ≠ 3 → exec (.welcome m) s = .next (s.settled ((s.d.takeMessage 0x11 m).joinPeer m.src m.bytes))) ∧
  (∀ (s : State) (m : Rx), s.d.arrived 0x12 m = true → s.d.members'.contains m.src = true → m.src ≠ s.d.ctl.address → (s.d.peer m.src).state ≠ 3 →
    ∀ c d, c = byteAt m.bytes 58 → d = ((s.d.takeMessage 0x12 m).setPeer m.src fun p => { p with state := 4, cause := c % 8, refused := c }) →
    ((s.d.peer m.src).refused ≠ c →
      exec (.refuse m) s = .next (s.settled (d.logEv 0 0x0031 m.src (natLE 8 (field m.bytes 0 8) ++ natLE 1 c) 0))) ∧
    ((s.d.peer m.src).refused = c → exec (.refuse m) s = .next (s.settled d))) ∧
  (∀ (s : State) (m : Rx), s.d.arrived 0x13 m = true → exec (.leave m) s = .next (s.settled ((s.d.takeMessage 0x13 m).depart m.src 3))) ∧
  (∀ (s : State) (m : Rx), s.d.inOrder 0x14 m = true → exec (.state m) s = .next (s.settled ((s.d.taken 0x14 m).setPeer m.src (recordScout m.bytes))))

/-! ### Reductions and updates (R260 to R271, R310 to R322, R337, R338) -/

/-- REDUCE whose checks let it start begins its bucket; RSUM of the run held joins this member's contribution and passes on; RESULT is taken
up; RERUN starts the run that it names; RERUN_REQ makes the leader issue one.
NME_GROUP_UPDATE updates the next group of its M-die. RETRACTION is recorded, noted against the buckets and the micro-batches that used data
of the sender, which are withdrawn, and answered once none is left; one of another step is answered at once. RETRACT_DONE ends the
retraction that it answers. -/
def Obligations.ReductionCommands : Prop :=
  ((∀ (s : State) (r : Nat) (x : Desc) (w : ReduceWork), s.d.ready r 0x07 false x = true → s.d.reducePlan r x = .goes w →
     exec (.reduce r) s = .next (s.settled (Dev.reduceGo r x w))) ∧
   (∀ (s : State) (m : Rx) (b : Bucket) (d : Dev), d = s.d.taken 0x40 m → s.d.inOrder 0x40 m = true → d.inStep m.step = .now →
     d.bucket (m.par 24 2) (m.par 26 2) = some b → m.par 28 4 = b.runId → m.poisoned = false →
     exec (.rsum m) s = .next (s.settled
       (d.visitSum b (m.par 32 1) (m.par 34 2) (m.par 36 4) (leNat (m.bytes.take 512)) (m.par 40 4) (pairsOf (m.body.drop 512))).settleEarly)) ∧
   (∀ (s : State) (m : Rx) (b : Bucket) (d : Dev), d = s.d.taken 0x41 m → s.d.inOrder 0x41 m = true → d.inStep m.step = .now →
     d.bucket (m.par 24 2) (m.par 26 2) = some b → m.par 28 4 = b.runId → (m.body.take 512).any (·.2) = false →
     exec (.result m) s = .next (s.settled
       (d.takeResult b (m.par 32 1) (m.par 34 2) (m.par 36 4) (leNat (m.bytes.take 512)) (m.par 40 4) (m.body.drop 512) ((m.body.drop 512).any (·.2))).settleEarly)) ∧
   (∀ (s : State) (m : Rx) (b : Bucket) (d : Dev), d = s.d.taken 0x43 m → s.d.inOrder 0x43 m = true → d.inStep m.step = .now →
     d.bucket (m.par 24 2) (m.par 26 2) = some b → m.poisoned = false →
     exec (.rerun m) s = .next (s.settled (d.acceptRun b.chain b.bucket (m.par 28 4) (leNat (m.bytes.take 512))).settleEarly)) ∧
   (∀ (s : State) (m : Rx) (b : Bucket) (d : Dev), d = s.d.taken 0x42 m → s.d.inOrder 0x42 m = true → d.inStep m.step = .now →
     d.bucket (m.par 24 2) (m.par 26 2) = some b → d.leader b.chain = some d.ctl.address →
     exec (.rerunReq m) s = .next (s.settled
       ((d.setBucket b.chain b.bucket fun y => { y with asked := y.asked ||| 2 ^ m.src }).issueRun b.chain b.bucket).settleEarly))) ∧
  ((∀ (s : State) (m : Nat) (b : Bucket) (g : Nat), s.d.stepOpen = true → s.d.nextGroup m = some (b, g) →
     exec (.nmeGroupUpdate m) s = .next (s.settled ((s.d.updateOne m b g).checkBucket b.chain b.bucket))) ∧
   (∀ (s : State) (m : Rx) (d : Dev), s.d.inOrder 0x20 m = true →
     d = (s.d.taken 0x20 m).logRetract 0x14 m.step m.src (m.par 32 1) (m.par 33 1) →
     (∀ uses mbs, uses = d.bucketUses m.src → mbs = d.usedFrom m.src → d.inStep m.step = .now →
       exec (.retraction m) s = .next (s.settled ((d.setTxn fun t =>
         { t with rrecv := t.rrecv ++ [⟨m.par 24 8, m.par 32 1, [m.src], m.par 33 1, !(uses.isEmpty && mbs.isEmpty), uses, mbs⟩]
                  retracted := t.retracted ++ [(m.src, m.par 33 1)], settledOnce := false }).withdrawUses.answerRetracts))) ∧
     (d.inStep m.step ≠ .now →
       exec (.retraction m) s = .next (s.settled (d.send m.src 5 0x83 m.step (natLE 8 (m.par 24 8) ++ natLE 1 (m.par 32 1) ++ natLE 1 0) [])))) ∧
   (∀ (s : State) (m : Rx), s.d.inOrder 0x83 m = true → (s.d.taken 0x83 m).inStep m.step = .now →
     exec (.retractDone m) s = .next (s.settled ((s.d.taken 0x83 m).setTxn fun t =>
       { t with rsent := t.rsent.filter fun r => !(r.peers == [m.src] && r.mb == m.par 32 1) }).answerRetracts)))

/-! ### Shards (R296 to R309, R323 to R327, R331) -/

/-- GATHER and SCATTER start where their checks let them and the tables that they read are clean; GATHER_REQ and GATHER_REPLY serve a
request that can be served; GATHER_DATA of the module's generation keeps what was asked for until the GATHER ends; SCATTER_DATA writes the
owner's shard, whose version rises with the last message; SHARD_REFUSE ends the SCATTER with BAD_SHARD. -/
def Obligations.ShardCommands : Prop :=
  (∀ (s : State) (r : Nat) (x : Desc) (e : List PB × Dev), s.d.ready r 0x04 false x = true → (s.d.runSectors x.bytes).all s.d.tableClean = true →
    s.d.gatherPlan r x = .goes e → exec (.gather r) s = .next (s.settled (Dev.gatherGo r x e))) ∧
  (∀ (s : State) (r : Nat) (x : Desc), s.d.ready r 0x05 false x = true → (s.d.runSectors x.bytes).all s.d.tableClean = true →
    s.d.scatterPlan r x = .goes () → exec (.scatter r) s = .next (s.settled (s.d.scatterGo r x))) ∧
  (∀ (s : State) (m : Rx) (d : Dev), d = s.d.taken 0x50 m → s.d.inOrder 0x50 m = true → s.d.permuting (m.par 26 2) = false →
    d.servable ⟨m.src, m.step, m.params⟩ = true → exec (.gatherReq m) s = .next (s.settled (d.serve ⟨m.src, m.step, m.params⟩))) ∧
  (∀ (s : State) (a : Nat) (h : HeldReq) (rest : List HeldReq), takeFirst (fun h : HeldReq => h.src == a && s.d.servable h) s.d.ctl.held = (some h, rest) →
    exec (.gatherReply a) s = .next (s.settled ((s.d.setCtl fun c => { c with held := rest }).serve h))) ∧
  (∀ (s : State) (m : Rx) (d : Dev) (a : Active) (w : List Nat), d = s.d.taken 0x51 m → s.d.inOrder 0x51 m = true →
    s.d.permuting (m.par 26 2) = false → d.gatherOf m.src (m.par 24 2) (m.par 32 8) = some (a, w) → m.par 26 2 = d.ctl.generation → m.par 48 1 = 0 →
    exec (.gatherData m) s = .next (s.settled
      ((((((d.keep a.uid (w.getD 4 0) m.body).noteUsed a.bytes m.src).setCtl fun c => { c with gatherBytes := (c.gatherBytes + m.body.length) % 2 ^ 64 }).setAct a.uid
        fun y => { y with wait := y.wait.erase w }).gatherVersion a.uid (m.par 24 2 - field a.bytes 16 2) (m.par 40 8)).gatherDone a.uid))) ∧
  (∀ (s : State) (m : Rx) (d : Dev), d = s.d.taken 0x52 m → s.d.inOrder 0x52 m = true → s.d.permuting (m.par 26 2) = false →
    m.par 26 2 = d.ctl.generation → (d.shard (m.par 24 2)).valid = true → (d.shard (m.par 24 2)).epoch = false →
    (d.shard (m.par 24 2)).owner = d.ctl.address → m.par 32 8 + m.body.length ≤ (d.shard (m.par 24 2)).len →
    ∀ a d1, a = (d.shard (m.par 24 2)).addr + m.par 32 8 → d1 = (d.write 4 a m.body).noteGot m.step m.src a m.body.length →
    exec (.scatterData m) s = .next (s.settled (if m.par 40 1 % 2 = 1 then d1.bump (m.par 24 2) else d1))) ∧
  (∀ (s : State) (m : Rx) (d : Dev) (a : Active), d = s.d.taken 0x53 m → s.d.inOrder 0x53 m = true → s.d.permuting (m.par 26 2) = false →
    (d.acts.find? fun a => kindOf a.bytes == 0x05 && a.wait.any fun w => w == [m.src, m.par 24 2]) = some a →
    exec (.shardRefuse m) s = .next (s.settled (d.finish a.uid 0x0C)))

/-- A routed SCATTER starts where its checks let it and the tables that it reads are clean; the owner places the rows once it holds every
count; ROUTE_COUNT, ROUTE_PLACE and ROUTE_DATA are taken up by the routed SCATTER that they belong to: rows for an entry here are written,
and rows that come back go to the places that they came from. -/
def Obligations.RoutedCommands : Prop :=
  (∀ (s : State) (r : Nat) (x : Desc) (w : RouteWork), s.d.ready r 0x05 false x = true → (s.d.routedSectors x.bytes).all s.d.tableClean = true →
    s.d.routedPlan r x = .goes w →
    exec (.routedScatter r) s = .next (s.settled (Dev.routedGo r x w))) ∧
  (∀ (s : State) (e : Nat) (r : Route) (a : Active),
    (s.d.ctl.routes.find? fun r => r.x == e && !r.placed && r.owners.contains s.d.ctl.address && (s.d.routeMembers r).all fun m => r.counts.any fun c => c.1 == m) = some r →
    s.d.act r.uid = some a → exec (.routePlacement e) s = .next (s.settled (s.d.placeRoute r a))) ∧
  (∀ (s : State) (m : Rx) (d : Dev) (r : Route), d = s.d.taken 0x70 m → s.d.inOrder 0x70 m = true → d.routeOf (m.par 24 2) (m.par 28 4) = some r →
    r.placed = false → r.counts.any (fun c => c.1 == m.src) = false → (d.act r.uid).isSome = true → m.poisoned = false →
    exec (.routeCount m) s = .next (s.settled (d.setRoute (m.par 24 2) (m.par 28 4) fun r =>
      { r with counts := (r.counts.filter fun c => c.1 != m.src) ++ [(m.src, (List.range (m.body.length / 4)).map fun i => field m.bytes (4 * i) 4)] }))) ∧
  (∀ (s : State) (m : Rx) (d : Dev) (r : Route), d = s.d.taken 0x71 m → s.d.inOrder 0x71 m = true → d.routeOf (m.par 24 2) (m.par 28 4) = some r → m.poisoned = false →
    r.answered.contains m.src = false →
    exec (.routePlace m) s = .next (s.settled (d.takePlacement r m.src ((List.range (m.body.length / 20)).map fun i =>
      ⟨field m.bytes (20 * i) 4, field m.bytes (20 * i + 4) 4, field m.bytes (20 * i + 8) 4, field m.bytes (20 * i + 12) 4, field m.bytes (20 * i + 16) 4⟩)))) ∧
  (∀ (s : State) (m : Rx) (d : Dev) (r : Route) (a : Active) (entry slot : Nat), d = s.d.taken 0x72 m → entry = m.par 24 2 → slot = m.par 32 4 →
    s.d.inOrder 0x72 m = true → m.par 36 1 = 0 →
    ((d.shard entry).owner ≠ d.ctl.address →
      (d.ctl.routes.find? fun r => r.took.any fun t => (t.drop 1).take 2 == [entry, 0]) = some r → r.back.bind d.act = some a →
      exec (.routeData m) s = .next (s.settled ((d.noteUsed a.bytes m.src).rowsBack r a entry slot false m.body))) ∧
    ((d.shard entry).owner = d.ctl.address →
      (d.ctl.routes.find? fun r => r.gave.any fun g => g.take 3 == [m.src, entry, 0]) = some r → d.act r.uid = some a →
      ∀ size d1, size = a.mem.getD 1 0 →
        d1 = ((d.writeRows 4 entry size slot false [] m.body).setRoute r.x r.e fun y => { y with expect := y.expect - m.body.length / size }).noteGot m.step m.src
          (d.shard entry).addr (d.shard entry).len →
        (∀ y, d1.routeOf r.x r.e = some y → y.expect = 0 → exec (.routeData m) s = .next (s.settled ((d1.bumpGiven y.gave).routeDone r.x r.e))) ∧
        (∀ y, d1.routeOf r.x r.e = some y → y.expect ≠ 0 → exec (.routeData m) s = .next (s.settled (d1.routeDone r.x r.e)))))

/-- PERMUTE in move mode starts with an image that the module takes, and its new bank becomes active once every byte is here and written
and every other member that the active bank does not map out has said so; in adopt mode it starts while STRANDED, and ends in LOADED with
the carried committed step. PERMUTE_DATA waits for the outgoing reads that it overlaps and is then written; it and PERMUTE_DONE count
towards the end. -/
def Obligations.PermuteCommands : Prop :=
  (∀ (s : State) (x : Desc) (w : List Byte × Dev), s.d.head 0 = some x → s.d.permutePlan false x = .goes w →
    exec .permuteMove s = .next (s.settled (w.2.permuteStart x w.1))) ∧
  (∀ (s : State) (p : Permute), s.d.ctl.permute = some p → p.adopt = false → p.sentDone = true → p.need = 0 → p.writes = [] →
    ((s.d.members'.filter fun a => !s.d.ctl.mapped.testBit a && (s.d.peer a).state == 3 && a != s.d.ctl.address).all p.dones.contains) = true →
    exec .permuteActivate s = .next (s.settled ((s.d.activate p).finish p.uid 0))) ∧
  (∀ (s : State) (x : Desc) (w : List Byte × Dev), s.d.ctl.permute = none → s.d.head 0 = some x → s.d.permutePlan true x = .goes w →
    exec .permuteAdopt s = .next (s.settled (w.2.permuteStart x w.1))) ∧
  (∀ (s : State) (p : Permute), s.d.ctl.permute = some p → p.adopt = true → p.mismatch = false → p.need = 0 →
    exec .permuteAdopt s = .next (s.settled
      (((((((s.d.copyForward.setCtl fun c => { c with storm := [] }).flip).setCtl fun c => { c with committed := p.carried.getD c.committed, txn := none }).activate p).setState
        4).sendState).finish p.uid 0))) ∧
  (∀ (s : State) (m : Rx) (d : Dev) (p : Permute), d = s.d.taken 0x60 m → s.d.inOrder 0x60 m = true → s.d.permuting (m.par 26 2) = true →
    s.d.ctl.permute = some p → (d.shardAt (1 - d.ctl.bank) (m.par 24 2)).valid = true → (d.shardAt (1 - d.ctl.bank) (m.par 24 2)).owner = d.ctl.address →
    m.par 32 8 + m.body.length ≤ (d.shardAt (1 - d.ctl.bank) (m.par 24 2)).len →
    exec (.permuteData m) s = .next (s.settled
      (d.setCtl fun c =>
        { c with permute := c.permute.map fun p =>
            { p with need := p.need - m.body.length, carried := some (m.par 40 8), writes := p.writes ++ [(m.par 24 2, m.par 32 8, m.body)]
                     mismatch := p.mismatch || (match p.carried with | some k => k != m.par 40 8 | none => false) } }).permuteWrites)) ∧
  (∀ (s : State) (m : Rx), s.d.inOrder 0x61 m = true → s.d.permuting (m.par 26 2) = true →
    exec (.permuteDone m) s = .next (s.settled ((s.d.taken 0x61 m).setCtl fun c =>
      { c with permute := c.permute.map fun p => { p with dones := if p.dones.contains m.src then p.dones else p.dones ++ [m.src] } })))

/-! ### The step (R50, R62, R335 to R346, R410) -/

/-- TXN_BEGIN opens the step where no retry is pending and the digests agree; TXN_END marks its colony; CLEAN_SEND withdraws the uses of
retracted data and pledges a settled module; COMMIT starts, and commits a settled step with its tokens; FENCE_PARK leaves LOADED. -/
def Obligations.StepCommands : Prop :=
  (∀ (s : State) (x : Desc), s.d.ready 0 0x0B false x = true → s.d.retryReady = true → s.d.digestsAgree = true → flagInput x.bytes = false →
    (field x.bytes 16 8 = 0 ∨ field x.bytes 16 8 = s.d.stepNo) →
    exec .txnBegin s = .next (s.settled ((s.d.refuseHead 0 0).setRing 0 fun r => { r with openAhead := true }).openStep)) ∧
  (∀ (s : State) (r : Nat) (x : Desc) (a : Active) (d : Dev), s.d.ready r 0x0C false x = true → flagInput x.bytes = false → s.d.start r x [] [] = (a, d) →
    exec (.txnEnd r) s = .next (s.settled (((d.setAct a.uid fun y => { y with hold := true }).setTxn fun t => { t with ends := t.ends ||| 2 ^ (r - 1) }).setRing r
      fun y => { y with ended := true }))) ∧
  (∀ (s : State) (d : Dev) (t : Txn) (dom : Nat), d = s.d.withdrawUses → d.ctl.txn = some t → d.settled = true → t.settledOnce = false → d.frogInputsOk t = true →
    dom = (match d.ctl.pattern with | some p => if p.anchor = d.ctl.address then d.ctl.domain else 0 | none => 0) →
    exec .cleanSend s = .next (s.settled ((d.fenceHere t).foldl
      (fun d a => d.send a 5 0x80 t.step (natLE 4 t.cleanGen ++ natLE 1 d.ctl.llOwn ++ natLE 1 dom) [])
      (d.setTxn fun y => { y with settledOnce := true, pledged := true, cleanGen := t.cleanGen + 1 })))) ∧
  (∀ (s : State) (x : Desc) (a : Active) (d : Dev), s.d.ready 0 0x0D false x = true → flagInput x.bytes = false → s.d.start 0 x [] [] = (a, d) →
    exec .commit s = .next (s.settled
      (((d.setAct a.uid fun y => { y with hold := true }).setRing 0 fun r => { r with openAhead := false }).tryCommit s.sec.health))) ∧
  (∀ (s : State) (t : Txn), s.d.head 0 = none → s.d.ctl.txn = some t → s.d.commitAct.isSome = true → s.d.settled = true → t.pledged = true →
    t.settledOnce = true → s.d.tokens t = true → s.d.ctl.drains = [] →
    exec .commit s = .next (s.settled (s.d.commitStep t s.sec.health))) ∧
  (∀ (s : State) (x : Desc), s.d.ready 0 0x0A false x = true → byteAt x.bytes 16 = 2 → flagInput x.bytes = false →
    exec .fencePark s = .next (s.settled ((if s.d.ctl.state = 5 then s.d.setState 4 else s.d).refuseHead 0 0)))

/-- CLEAN and COMMITTING are noted; STEP_ABORT_SEND tells the fence peers once the attempt's messages are acknowledged, then closes the
abort; STEP_ABORT aborts the open step with cause 10 unless the module is pledged and holds the sender's CLEAN; a fence peer that stays
away aborts it with cause 9 unless a COMMITTING lets the settled module commit; a STRANDED module that has
quorum and the same committed step goes back to LOADED. -/
def Obligations.StepMessages : Prop :=
  (∀ (s : State) (m : Rx), s.d.inOrder 0x80 m = true →
    exec (.clean m) s = .next (s.settled ((s.d.taken 0x80 m).setPeer m.src fun p =>
      if m.step = p.cleanStep ∧ m.par 24 4 ≤ p.cleanGen then p
      else { p with cleanStep := m.step, cleanGen := m.par 24 4, cleanOwn := m.par 28 1, cleanDom := m.par 29 1 }))) ∧
  (∀ (s : State) (m : Rx) (t : Txn), s.d.inOrder 0x81 m = true → s.d.ctl.txn = some t → t.aborted = false → m.step = t.step → t.fence.contains m.src = true →
    exec (.committing m) s = .next (s.settled ((s.d.taken 0x81 m).setTxn fun t => { t with gotCommitting := true, committingH := m.par 29 1 }))) ∧
  (∀ (s : State) (t : Txn), s.d.ctl.txn = some t → t.aborted = true → t.closed = false → t.abortSent = false → s.d.abortWaits t = false →
    exec .stepAbortSend s = .next (s.settled
      ((((s.d.fenceHere t).foldl (fun d a => d.send a 5 0x82 t.step (natLE 1 t.cause ++ natLE 1 t.origin) []) s.d).setTxn fun t => { t with abortSent := true }).closeAbort))) ∧
  (∀ (s : State) (m : Rx) (t : Txn) (d : Dev), d = s.d.taken 0x82 m → s.d.inOrder 0x82 m = true → s.d.ctl.txn = some t → t.step = m.step →
    s.d.ctl.committed < m.step → t.aborted = false → (t.pledged = false ∨ (s.d.peer m.src).cleanStep ≠ m.step) →
    exec (.stepAbortMsg m) s = .next (s.settled
      ((d.setPeer m.src fun p => { p with abortStep := m.step, cleanStep := if p.cleanStep = m.step then 0 else p.cleanStep }).raise 10 (originOf m)))) ∧
  (∀ (s : State) (t : Txn), s.d.ctl.txn = some t → t.aborted = false → t.lostWait = true → (t.gotCommitting && s.d.settled && s.d.quorum) = false →
    exec .fencePeerWaitExpiry s = .next (s.settled (s.d.raise 9))) ∧
  (∀ s : State, s.d.ctl.state = 8 → s.d.quorum = true → (s.d.reachable.all fun a => a == s.d.ctl.address || (s.d.peer a).committed == s.d.ctl.committed) = true →
    exec .strandedRejoin s = .next (s.settled (s.d.setState 4).sendState))

/-! ### Lifelines (R349 to R363, R420) -/

/-- LIFELINE_DRAIN_END ends the buddy drain once its messages are acknowledged, and the host drain with its header once its data no longer
wait. MIRROR_RECORD_COPY copies the oldest record that is not mirrored, or, without room, without a mirror or with the link down, skips and
counts it with its event and its interrupt. LIFELINE host drain and restore start at the head of the control ring: a restore asks the host
for its first bytes, or the JOINED buddy, and ends at once where the buddy is not there.
LL_BEGIN and LL_DATA of a ward are written into the image held for it, and its LL_END completes the image; those of the buddy gather the
image asked for, and the LL_END that matches it ends the restore. LL_FETCH is answered with the image held, whole or in part, or with
LL_NONE; LL_NONE ends the restore. A completion of the module's own reads with part of the bytes is kept, the last one of a read asks for
the next bytes or, with all of them, checks the image; a poisoned one, and a timeout, end the restore. -/
def Obligations.LifelineCommands : Prop :=
  ((∀ (s : State) (x : Drain), (s.d.ctl.drains.find? fun x => x.host == false) = some x → s.d.outstanding x.msgs = false →
     exec (.lifelineDrainEnd false) s = .next (s.settled (s.d.endDrain x true))) ∧
   (∀ (s : State) (x : Drain), (s.d.ctl.drains.find? fun x => x.host == true) = some x → s.d.hostReady = true → s.d.host.waiting = [] →
     exec (.lifelineDrainEnd true) s = .next (s.settled ((s.d.toHost (.write x.slotAddr (clean x.header) false)).endDrain x true))) ∧
   (∀ (s : State) (x : Nat × Nat) (rest : List (Nat × Nat)) (d : Dev) (v : List PB × Dev) (a : Nat), s.d.ctl.mirrorQueue = x :: rest →
     d = s.d.setCtl (fun c => { c with mirrorQueue := rest }) → v = d.read (d.rlogRing.1 + x.1) x.2 → a = placeRecord s.d.ctl.mirrorHead s.d.ctl.mirrorSize x.2 →
     (s.d.ctl.mirrorSize ≠ 0 → s.d.host.linkUp = true → mirrorRoom s.d.ctl.mirrorHead s.d.ctl.mirrorTail s.d.ctl.mirrorSize x.2 = true →
       exec .mirrorRecordCopy s = .next (s.settled (((v.2.toHost (.write (s.d.ctl.mirrorBase + a + 256) (v.1.drop 256) true)).toHost
         (.write (s.d.ctl.mirrorBase + a) (v.1.take 256) false)).setCtl fun c => { c with mirrorHead := headAfter (a + x.2) s.d.ctl.mirrorSize }))) ∧
     (s.d.ctl.mirrorSize = 0 ∨ s.d.host.linkUp = false ∨ mirrorRoom s.d.ctl.mirrorHead s.d.ctl.mirrorTail s.d.ctl.mirrorSize x.2 = false →
       exec .mirrorRecordCopy s = .next (s.settled (((d.setCtl fun c => { c with rlogSkipped := satAdd 32 c.rlogSkipped 1 }).logEv 0 0x0051 0xFFFF
         (((v.1.drop 8).take 8).map (·.1)) 0).irq 28)))) ∧
   (∀ (s : State) (x : Desc) (a : Active) (d : Dev), s.d.ready 0 0x0E false x = true → byteAt x.bytes 16 = 1 → (s.d.ctl.drains.any (·.host)) = false →
     flagInput x.bytes = false → byteAt x.bytes 17 ≤ 1 → byteAt x.bytes 18 ≤ 1 → s.d.start 0 x [] [] = (a, d) →
     exec .lifelineHostDrain s = .next (s.settled (d.hostDrain s.d.ctl.llHealth (some a.uid)))) ∧
   (∀ (s : State) (x : Desc) (a : Active) (d0 d : Dev), s.d.ready 0 0x0E false x = true → byteAt x.bytes 16 = 0 → s.d.ctl.drains = [] → flagInput x.bytes = false →
     byteAt x.bytes 17 ≤ 1 → byteAt x.bytes 18 ≤ 1 → s.d.start 0 x [] [] = (a, d0) → d = d0.setCtl (fun c => { c with restore := some (a.uid, [], false) }) →
     (byteAt x.bytes 17 = 1 → exec .lifelineRestore s = .next (s.settled (d.askHost a.uid (field x.bytes 32 8) 0 (imageLength s.d.regions)))) ∧
     (∀ y, byteAt x.bytes 17 = 0 → s.d.buddy = some y → (s.d.peer y).state = 3 →
       exec .lifelineRestore s = .next (s.settled (d.send y 4 0x93 (field x.bytes 24 8) (natLE 2 s.d.ctl.address ++ zeros 6 ++ natLE 8 0 ++ natLE 8 0) [] (some a.uid)))) ∧
     (byteAt x.bytes 17 = 0 → (∀ y, s.d.buddy = some y → (s.d.peer y).state ≠ 3) →
       exec .lifelineRestore s = .next (s.settled (d.restoreFails a.uid (field x.bytes 24 8)))))) ∧
  ((∀ (s : State) (m : Rx) (d : Dev), d = s.d.taken 0x90 m → s.d.inOrder 0x90 m = true →
     (∀ r, d.fetching m = some r → exec (.llBegin m) s = .next (s.settled (d.keepImage r.1 (m.body.take 256)))) ∧
     (d.fetching m = none → m.par 24 2 = m.src → exec (.llBegin m) s = .next (s.settled (d.wardBegin m)))) ∧
   (∀ (s : State) (m : Rx) (d : Dev), d = s.d.taken 0x91 m → s.d.inOrder 0x91 m = true →
     (∀ r, d.fetching m = some r → m.par 32 8 = r.2.length → exec (.llData m) s = .next (s.settled (d.keepImage r.1 (r.2 ++ m.body)))) ∧
     (d.fetching m = none → m.par 24 2 = m.src → exec (.llData m) s = .next (s.settled (d.wardData m)))) ∧
   (∀ (s : State) (m : Rx) (d : Dev), d = s.d.taken 0x92 m → s.d.inOrder 0x92 m = true →
     (∀ r, d.fetching m = some r → m.poisoned = false → m.par 32 8 = r.2.length → m.bytes = ((r.2.drop 72).take 32).map (·.1) →
       exec (.llEnd m) s = .next (s.settled (d.restoreDone r.1 r.2))) ∧
     (d.fetching m = none → m.par 24 2 = m.src → exec (.llEnd m) s = .next (s.settled (d.wardEnd m)))) ∧
   (∀ (s : State) (m : Rx) (d : Dev), d = s.d.taken 0x93 m → s.d.inOrder 0x93 m = true →
     (d.heldImage (m.par 24 2) m.step = none → exec (.llFetch m) s = .next (s.settled (d.send m.src 4 0x94 m.step (natLE 2 (m.par 24 2)) []))) ∧
     (∀ base h len v, d.heldImage (m.par 24 2) m.step = some (base, h) → len = field (h.map (·.1)) 64 8 → v = d.read base len →
       (m.par 40 8 = 0 → exec (.llFetch m) s = .next (s.settled
         (({ v.2 with nextUid := v.2.nextUid + 1 } : Dev).sendImage m.src (m.par 24 2) m.step v.2.nextUid h v.1 256 len len))) ∧
       (m.par 40 8 ≠ 0 → exec (.llFetch m) s = .next (s.settled
         (({ v.2 with nextUid := v.2.nextUid + 1 } : Dev).sendImage m.src (m.par 24 2) m.step v.2.nextUid h v.1 (min len (m.par 32 8))
           (min len (m.par 32 8 + m.par 40 8)) len))))) ∧
   (∀ (s : State) (m : Rx) (r : Nat × List PB), s.d.inOrder 0x94 m = true → (s.d.taken 0x94 m).fetching m = some r →
     exec (.llNone m) s = .next (s.settled ((s.d.taken 0x94 m).restoreFails r.1 m.step))) ∧
   (∀ (s : State) (tag : Nat) (bytes : List Byte) (r : HostRead) (d : Dev), s.d.host.linkUp = true → s.d.takeRead tag = (some r, d) →
     (∀ (x : Nat × List PB × Bool) (a : Active) (image : List PB), bytes ≠ [] → d.ctl.restore = some x → d.act r.uid = some a → image = x.2.1 ++ clean bytes →
       (bytes.length < r.len → exec (.moduleReadCompletion tag bytes .good) s = .next (s.settled ((d.keepImage r.uid image).setHost fun h =>
         { h with reads := { r with off := r.off + bytes.length, len := r.len - bytes.length } :: h.reads }))) ∧
       (bytes.length = r.len → image.length < imageLength d.regions →
         exec (.moduleReadCompletion tag bytes .good) s = .next (s.settled ((d.keepImage r.uid image).askHost r.uid (field a.bytes 32 8) image.length (imageLength d.regions)))) ∧
       (bytes.length = r.len → imageLength d.regions ≤ image.length →
         exec (.moduleReadCompletion tag bytes .good) s = .next (s.settled (d.restoreDone r.uid image)))) ∧
     exec (.moduleReadCompletion tag bytes .poisoned) s = .next (s.settled ((d.aer aerPoisoned 0).readLost r)) ∧
     (s.d.host.busMaster = true → s.d.host.d3hot = false → exec (.completionTimeout tag) s = .next (s.settled ((d.aer aerTimeout 0).readLost r)))))

/-! ### Tiles (R94, R129, R153, R168, R174, R186, R204 to R208, R412) -/

/-- GEMM, STREAM and CAST whose checks let them start (R517) begin on the tiles of their share.
SEGMENT_FILL, OUTPUT_TILE_POST and QUEUE_ENTRY_DRAIN carry an output tile on; LADDER_MOVE ends a unit that stands, repeats it at its next
rung, or reports it; the three computations of a check, which take a bank, form their digests, ask for the next computation or reach an
outcome, and the tile goes on. -/
def Obligations.TileCommands : Prop :=
  (∀ (s : State) (r : Nat) (x : Desc) (w : TileWork),
     (s.d.ready r 0x01 false x = true → (∀ l p, l ∈ (s.d.shareTiles (r - 1) x.bytes).getD [] → s.d.physOf l = some p → s.d.tableClean (tableKey 4 p) = true) →
       s.d.gemmPlan r x = .goes w → exec (.gemm r) s = .next (s.settled (Dev.gemmGo r x w))) ∧
     (s.d.ready r 0x02 false x = true → s.d.streamPlan r x = .goes w → exec (.stream r) s = .next (s.settled (Dev.streamGo r x w))) ∧
     (s.d.ready r 0x03 false x = true → s.d.castPlan r x = .goes w → exec (.cast r) s = .next (s.settled (Dev.castGo r x w)))) ∧
  ((∀ (s : State) (l : Nat) (ofB : Bool) (a : Active) (q : Part) (t : TileJob), s.d.segmentJob l ofB = some (a, q, t) →
     exec (.segmentFill l ofB) s = .next (s.settled (s.d.fillSegment l ofB a q t))) ∧
   (∀ (s : State) (l p b : Nat) (k : BankRec) (a : Active) (q : Part) (t : TileJob), s.d.physOf l = some p → s.d.postJob l p = some ((b, k), a, q, t) →
     exec (.outputTilePost l) s = .next (s.settled (s.d.postTile l p b k a q t))) ∧
   (∀ (s : State) (l p : Nat) (e : QEntry) (a : Active) (q : Part) (t : TileJob) (g : Graph), s.d.physOf l = some p → s.d.drainJob l p = some (e, a, q, t, g) →
     exec (.queueEntryDrain l) s = .next (s.settled (s.d.drainEntry l p e a q t g))) ∧
   (∀ (s : State) (l : Nat) (a : Active) (q : Part), s.d.unitEnded l = some (a, q) → s.d.tilesRun = true → q.reported = true →
     exec (.ladderMove l) s = .next (s.settled (((s.d.reportRecord a q).endPart a.uid l).streams l))) ∧
   (∀ (s : State) (l : Nat) (a : Active) (q : Part), s.d.unitEnded l = some (a, q) → s.d.tilesRun = true → q.reported = false →
     (∀ p, q.cur ≠ 0 → s.d.unitProfile a = some p →
       nextRung p (decide (1 ≤ (tget (0, 0) s.d.ctl.storm (layerOf a.bytes)).1)) q.rung q.cur = none →
       exec (.ladderMove l) s = .next (s.settled (((s.d.reportPart a.uid l).endPart a.uid l).streams l))) ∧
     (q.cur = 0 → exec (.ladderMove l) s = .next (s.settled (((s.d.unitStands a q).endPart a.uid l).streams l))) ∧
     (∀ p r, q.cur ≠ 0 → s.d.unitProfile a = some p →
       nextRung p (decide (1 ≤ (tget (0, 0) s.d.ctl.storm (layerOf a.bytes)).1)) q.rung q.cur = some r →
       exec (.ladderMove l) s = .next (s.settled (s.d.repeatUnit a l r)))) ∧
   (∀ (s : State) (p fault : Nat) (c : Check) (rest : List Check) (g : List Byte) (d : Dev), (s.d.tile p).checks = c :: rest → s.d.tilesRun = true →
     (s.d.tile p).banks.length < 2 → s.d.recompute p fault c = (g, d) →
     (c.stage = 0 → g = c.d1 → exec (.checkComputation p fault) s = .next (s.settled (((d.setTile p popCheck).settleCheck { c with dp := g } 1).goOn p))) ∧
     (∀ e o, c.stage = 0 → g ≠ c.d1 → e = (((d.setTile p popCheck).setLogical c.tile fun t => { t with dupMismatch := satAdd 32 t.dupMismatch 1 }).health 32) →
       e.physOf c.tile = some o → exec (.checkComputation p fault) s = .next (s.settled ((e.queueCheck o { c with dp := g, stage := 1 }).goOn p))) ∧
     (c.stage = 1 → g = c.dp → exec (.checkRepeat p fault) s = .next (s.settled (((d.setTile p popCheck).settleCheck { c with d2 := g } 2).goOn p))) ∧
     (c.stage = 1 → g ≠ c.dp → exec (.checkRepeat p fault) s = .next (s.settled (((d.setTile p popCheck).askThird { c with d2 := g }).goOn p))) ∧
     (c.stage = 2 → exec (.thirdComputation p fault) s =
       .next (s.settled (((d.setTile p popCheck).settleCheck c (voteOutcome c.d1 c.dp c.d2 g)).goOn p)))))

/-! ### Patterns (R378 to R384) -/

/-- PATTERN_LOAD in BARE or LOADED enters MOULT with the base and the address of CTL_, and runs once nothing is in flight; FENCE_MOULT at the
head of the control ring does the same with the base of its descriptor. -/
def Obligations.PatternCommands : Prop :=
  (∀ (s : State) (l : Loading) (d : Dev), s.readable 0x1007C = true → s.d.ctl.loading = none → (s.d.ctl.state = 3 ∨ s.d.ctl.state = 4) →
    l = ⟨true, 0, s.d.ctl.patBase, s.d.ctl.patAddr, s.d.ctl.state, false⟩ → d = s.d.beginLoad l → d.quiet l = true →
    exec .patternLoad s = .next (s.went (State.finishLoad { s with d := d } l))) ∧
  (∀ (s : State) (x : Desc) (a : Active) (d d1 : Dev) (l : Loading), s.d.ctl.loading = none → s.d.ready 0 0x0A false x = true → byteAt x.bytes 16 = 1 →
    flagInput x.bytes = false → s.d.moultReady = true → s.d.mapped (addr40 x.bytes 24) 256 = true → s.d.start 0 x [(addr40 x.bytes 24, 256)] [] = (a, d) →
    l = ⟨false, a.uid, addr40 x.bytes 24, 0, s.d.ctl.state, false⟩ → d1 = d.beginLoad l → d1.quiet l = true →
    exec .fenceMoult s = .next (s.went (State.finishMoult { s with d := d1 } l)))

/-! ### Management (R477 to R481, R488 to R500) -/

/-- MBX_SEND writes the mailbox control register with its send, MBX_ACK releases the fragment shown, MGMT_MCTP hands a peer's message to the core,
ENTDAA assigns the dynamic address. -/
def Obligations.MailboxAndTransports : Prop :=
  (∀ (s : State) (val : Nat), s.d.reached = true → exec (.mbxSend val) s = .next (s.went (s.mbxCtrl val (2 ^ 32 - 1)))) ∧
  (∀ s : State, s.d.reached = true → exec .mbxAck s = .next (s.went s.mbxAck)) ∧
  (∀ (s : State) (m : Rx), s.d.inOrder 0xA0 m = true →
    exec (.mgmtMctp m) s = .next (s.went (State.fromPeer { s with d := s.d.taken 0xA0 m } m.src (m.par 24 1) m.bytes))) ∧
  (∀ (s : State) (a : Nat), s.d.ctl.state ≠ 0 → exec (.entdaa a) s = .next (s.become s.pwr { s.sec with dynAddr := a } s.d))

/-- The MCTP control commands answer on a path that carries them with completion code 0 and their data, and SET_ENDPOINT_ID assigns an ID of 1
to 254. The field places of an answer are those of the DMTF standard (log entry 48).
The PLDM base commands answer with completion code 0 and their data, and SET_TID assigns a terminus ID of 1 to 254; the module has PLDM
types 0, 2 and 5 (log entry 48 for the field places). -/
def Obligations.ControlAndBaseAnswers : Prop :=
  (∀ (s : State) (p : Path), s.answers p .control = true →
     (∀ op eid, op < 2 → 1 ≤ eid → eid ≤ 254 → exec (.setEndpointId p op eid) s =
       .next (s.went (State.respond { s with sec := { s.sec with eids := tset s.sec.eids (pathIndex p) eid } } p 0
         (natLE 1 0 ++ natLE 1 1 ++ (zeros 2 ++ natLE 1 eid ++ zeros 1))))) ∧
     exec (.getEndpointId p) s = .next (s.went (s.respond p 0 (natLE 1 0 ++ natLE 1 2 ++ (zeros 1 ++ natLE 1 (tget 0 s.sec.eids (pathIndex p)) ++ zeros 2)))) ∧
     exec (.getEndpointUuid p) s = .next (s.went (s.respond p 0 (natLE 1 0 ++ natLE 1 3 ++ (zeros 1 ++ freeBytes 16 (Config.endpointUuid s.sec.otp))))) ∧
     (∀ typ, (typ = 0xFF ∨ typ = 0 ∨ typ ∈ messageTypes) → exec (.getMctpVersionSupport p typ) s =
       .next (s.went (s.respond p 0 (natLE 1 0 ++ natLE 1 4 ++ (zeros 1 ++ natLE 1 1 ++ freeBytes 4 (Config.mctpVersion typ)))))) ∧
     exec (.getMessageTypeSupport p) s = .next (s.went (s.respond p 0 (natLE 1 0 ++ natLE 1 5 ++ (zeros 1 ++ natLE 1 4 ++ [1, 5, 6, 0x7F]))))) ∧
  (∀ (s : State) (p : Path), s.answers p (.pldm 0) = true →
     (∀ tid, 1 ≤ tid → tid ≤ 254 → exec (.setTid p tid) s =
       .next (s.went (State.respond { s with sec := { s.sec with tid := tid } } p 1 (natLE 1 0 ++ natLE 1 0 ++ natLE 1 1 ++ zeros 1)))) ∧
     exec (.getTid p) s = .next (s.went (s.respond p 1 (natLE 1 0 ++ natLE 1 0 ++ natLE 1 2 ++ (zeros 1 ++ natLE 1 s.sec.tid)))) ∧
     (∀ typ, typ ∈ [0, 2, 5] → exec (.getPldmVersion p typ) s =
       .next (s.went (s.respond p 1 (natLE 1 0 ++ natLE 1 0 ++ natLE 1 3 ++ (zeros 5 ++ natLE 1 5 ++ freeBytes 8 (Config.pldmVersion typ)))))) ∧
     exec (.getPldmTypes p) s = .next (s.went (s.respond p 1 (natLE 1 0 ++ natLE 1 0 ++ natLE 1 4 ++ (zeros 1 ++ natLE 8 0x25)))) ∧
     (∀ typ, typ ∈ [0, 2, 5] → exec (.getPldmCommands p typ) s =
       .next (s.went (s.respond p 1 (natLE 1 0 ++ natLE 1 0 ++ natLE 1 5 ++ (zeros 1 ++ bitBytes 32 (pldmCommands typ)))))))

/-- The PLDM monitoring commands: the PDR repository, the newest sample of a sensor, a state sensor, the effecters with the settings that they
share with the PWR_ registers, and the receiver of event messages (R481; log entry 48 for the field places).
The settings of the effecters: power cap, ACLK limit, cap enable, qualification time, operator floor and ID LED (R481, R476). -/
def Obligations.PldmMonitoringAnswers : Prop :=
  (∀ (s : State) (p : Path), s.answers p (.pldm 2) = true →
     exec (.getPdrRepositoryInfo p) s = .next (s.went (s.respond p 1 (natLE 1 0 ++ natLE 1 2 ++ natLE 1 0x50 ++ (pdrInfoGet s).2))) ∧
     (∀ h, 1 ≤ h → h ≤ 47 → exec (.getPdr p h) s =
       .next (s.went (s.respond p 1 (natLE 1 0 ++ natLE 1 2 ++ natLE 1 0x51 ++
         (zeros 1 ++ natLE 4 (if h = 47 then 0 else h + 1) ++ zeros 4 ++ natLE 1 5 ++ natLE 2 (Config.pdr h).length ++ Config.pdr h))))) ∧
     (∀ n, 1 ≤ n → n ≤ 36 → exec (.getSensorReading p n) s =
       .next (s.went (State.respond { s with d := s.d.drawFree.2 } p 1 (natLE 1 0 ++ natLE 1 2 ++ natLE 1 0x11 ++ (sensorGet n s).2))) ∧
       (sensorGet n s).2.drop 7 = natLE 2 (s.sec.readings.getD (n - 1) 0)) ∧
     (∀ n v, s.stateSensor n = some v → exec (.getStateSensorReadings p n) s =
       .next (s.went (State.respond { s with d := s.d.drawFree.2 } p 1 (natLE 1 0 ++ natLE 1 2 ++ natLE 1 0x21 ++
         (zeros 1 ++ natLE 1 1 ++ zeros 1 ++ natLE 1 v ++ natLE 1 (Config.previousState n s.d.free) ++ natLE 1 v))))) ∧
     (∀ n v, v < effecterRange n → exec (.setNumericEffecterValue p n v) s =
       .next (s.went ((s.setEffecter n v).respond p 1 (natLE 1 0 ++ natLE 1 2 ++ natLE 1 0x31 ++ zeros 1)))) ∧
     (∀ n, 1 ≤ n → n ≤ 8 → exec (.getNumericEffecterValue p n) s =
       .next (s.went (s.respond p 1 (natLE 1 0 ++ natLE 1 2 ++ natLE 1 0x32 ++
         (zeros 1 ++ natLE 1 2 ++ natLE 1 1 ++ natLE 2 (s.getEffecter n) ++ natLE 2 (s.getEffecter n)))))) ∧
     (∀ eid, exec (.setEventReceiver p 1 eid) s =
       .next (s.went (State.respond { s with d := { s.d with receiver := some eid } } p 1 (natLE 1 0 ++ natLE 1 2 ++ natLE 1 0x04 ++ zeros 1))))) ∧
  (∀ (s : State) (v : Nat),
     s.setEffecter 1 v = { s with pwr := { s.pwr with cap := v } } ∧ s.setEffecter 2 v = { s with pwr := { s.pwr with maxN := v } } ∧
     s.setEffecter 3 1 = { s with pwr := { s.pwr with capEnable := true } } ∧
     s.setEffecter 3 0 = { s with pwr := { s.pwr with capEnable := false, nCap := 16, capUnmet := false } } ∧
     s.setEffecter 4 v = { s with pwr := { s.pwr with qualify := v } } ∧ s.setEffecter 5 1 = s.forceAux ∧ s.setEffecter 6 1 = s.forceReturn ∧
     s.setEffecter 7 v = { s with sec := { s.sec with operatorFloor := v } } ∧ s.setEffecter 8 1 = { s with sec := { s.sec with idLed := 1 } } ∧
     s.setEffecter 8 0 = { s with sec := { s.sec with idLed := 0 } })

/-- The commands of a firmware update that gather the image, from QUERY_DEVICE_IDENTIFIERS to UPDATE_COMPONENT, and GET_STATUS with the two
cancellations (R488, R491; log entries 48 and 49 for the field places). -/
def Obligations.FirmwareRequests : Prop :=
  ∀ (s : State) (p : Path), s.answers p (.pldm 5) = true →
    exec (.queryDeviceIdentifiers p) s = .next (s.went (s.respond p 1 (natLE 1 0 ++ natLE 1 5 ++ natLE 1 0x01 ++ (deviceIds s).2))) ∧
    exec (.getFirmwareParameters p) s = .next (s.went (s.respond p 1 (natLE 1 0 ++ natLE 1 5 ++ natLE 1 0x02 ++ (firmwareParams s).2))) ∧
    (∀ n, s.sec.upStage = 0 → 1 ≤ n → exec (.requestUpdate p n 1) s =
      .next (s.went ((State.stage { s.dropImage with sec := { s.dropImage.sec with upMax := n } } 1).respond p 1 (natLE 1 0 ++ natLE 1 5 ++ natLE 1 0x10 ++ zeros 4)))) ∧
    (∀ flag, s.sec.upStage = 1 → bitAt flag 2 = true → exec (.passComponentTable p 0 flag) s =
      .next (s.went ((s.stage 2).respond p 1 (natLE 1 0 ++ natLE 1 5 ++ natLE 1 0x13 ++ zeros 3)))) ∧
    exec (.getStatus p) s = .next (s.went (s.respond p 1 (natLE 1 0 ++ natLE 1 5 ++ natLE 1 0x1B ++ (updateStatus s).2))) ∧
    (3 ≤ s.sec.upStage → s.sec.upStage ≤ 5 → exec (.cancelUpdateComponent p) s =
      .next (s.went ((s.dropImage.stage 2).respond p 1 (natLE 1 0 ++ natLE 1 5 ++ natLE 1 0x1C ++ zeros 1)))) ∧
    (s.sec.upStage ≠ 0 → exec (.cancelUpdate p) s = .next (s.went ((s.dropImage.stage 0).respond p 1 (natLE 1 0 ++ natLE 1 5 ++ natLE 1 0x1D ++ zeros 10))))

/-- The transfer of a component: UPDATE_COMPONENT starts it, REQUEST_FIRMWARE_DATA takes the next bytes, TRANSFER_COMPLETE follows the last,
VERIFY_COMPLETE says whether the image meets R489, APPLY_COMPLETE writes the copy that is not running, and ACTIVATE_FIRMWARE makes it the
active one (R489, R491). -/
def Obligations.FirmwareTransfer : Prop :=
  ∀ (s : State) (p : Path), p = .i3c ∨ p = .vdm → s.answers p (.pldm 5) = true →
    (∀ size, s.sec.upStage = 2 → ∃ t, exec (.updateComponent p 0 size) s = .next t ∧ t.sec.upStage = 3 ∧ t.sec.upSize = size ∧ t.sec.upData = [] ∧ t.sec.upPrev = 2) ∧
    (∀ data, s.sec.upStage = 3 → ∃ t, exec (.requestFirmwareData p data) s = .next t ∧ t.sec.upStage = 3 ∧
      t.sec.upData = s.sec.upData ++ sub data 0 (min s.sec.upMax (s.sec.upSize - s.sec.upData.length))) ∧
    (s.sec.upStage = 3 → s.sec.upData.length = s.sec.upSize → ∃ t, exec (.transferComplete p) s = .next t ∧ t.sec.upStage = 4 ∧ t.sec.upData = s.sec.upData) ∧
    (s.sec.upStage = 4 → ∃ t, exec (.verifyComplete p) s = .next t ∧ t.sec.upStage = (if s.sec.imageOk s.sec.upData then 5 else 4) ∧ t.sec.upData = s.sec.upData) ∧
    (s.sec.upStage = 5 → ∃ t, exec (.applyComplete p) s = .next t ∧ t.sec.upStage = 2 ∧ t.sec.upOk = true ∧
      t.sec.copyA = (if s.sec.runningB then firmwareOf s.sec.upData else s.sec.copyA) ∧ t.sec.copyB = (if s.sec.runningB then s.sec.copyB else firmwareOf s.sec.upData)) ∧
    (s.sec.upStage = 2 → s.sec.upOk = true → s.sec.recovery = false → ∃ t, exec (.activateFirmware p false) s = .next t ∧ t.sec.upStage = 0 ∧
      t.sec.activeB = !s.sec.runningB ∧ t.sec.updatePending = true ∧ t.sec.copyA = s.sec.copyA ∧ t.sec.copyB = s.sec.copyB ∧ t.sec.runningB = s.sec.runningB)

/-- KEY_RECORD and DEBUG_TOKEN answer the status of their checks and apply where it is 0; DEBUG_CHALLENGE gives a fresh nonce; DEBUG_RELOCK
locks; PEER_ATTEST relays a GET_MEASUREMENTS to a JOINED peer; READ_FLASH_RECORDS answers the last 16 final records (R478, R480, R493, R499,
R500). -/
def Obligations.VendorCommands : Prop :=
  ∀ (s : State) (p : Path), s.answers p .vendor = true →
    (∀ b, exec (.keyRecord p b) s = .next (s.went (if s.keyStatus p b = 0 then
        State.respond { s with sec := { s.sec.keyEffect b with keySeq := field b 16 8 }, d := s.d.logEv 2 0x0060 0xFFFF (natLE 1 (byteAt b 4) ++ natLE 1 (byteAt b 5)) 0 } p 0x7F
          (natLE 4 96817 ++ natLE 1 1 ++ zeros 1)
      else s.respond p 0x7F (natLE 4 96817 ++ natLE 1 1 ++ natLE 1 (s.keyStatus p b))))) ∧
    exec (.debugChallenge p) s = .next (s.went
      (State.respond { s with sec := { (s.sec.draw 32).2 with nonce := some (s.sec.draw 32).1 } } p 0x7F (natLE 4 96817 ++ natLE 1 2 ++ (zeros 1 ++ (s.sec.draw 32).1)))) ∧
    (∀ b, exec (.debugToken p b) s = .next (s.went (if s.tokenStatus b = 0 then
        State.respond { s with
            sec := { s.sec with nonce := none, debugScope := tokenScope b, debugOn := true, debugIssuer := byteAt b 5, attest := s.sec.attest && decide (tokenScope b < 4) }
            d := s.d.logEv 2 0x0061 0xFFFF (natLE 1 (tokenScope b) ++ natLE 1 (byteAt b 5)) 0 } p 0x7F (natLE 4 96817 ++ natLE 1 3 ++ zeros 1)
      else
        State.respond { s with sec := { s.sec with nonce := none, debugAttempts := satAdd 16 s.sec.debugAttempts 1 } } p 0x7F
          (natLE 4 96817 ++ natLE 1 3 ++ natLE 1 (s.tokenStatus b))))) ∧
    exec (.debugRelock (some p)) s = .next (s.went (s.relock.respond p 0x7F (natLE 4 96817 ++ natLE 1 4 ++ zeros 1))) ∧
    (s.d.reached = true → exec (.debugRelock none) s = .next (s.went s.relock)) ∧
    (∀ body, byteAt body 3 = 0xE0 → (s.d.peer (field body 0 2)).state = 3 →
      exec (.peerAttest p body) s = .next (s.become s.pwr { s.sec with attestWait := s.sec.attestWait ++ [(field body 0 2, p)] }
        (s.d.send (field body 0 2) 6 0xA0 0 (natLE 1 5) (clean (body.drop 2))))) ∧
    exec (.readFlashRecords p) s = .next (s.went (s.respond p 0x7F (natLE 4 96817 ++ natLE 1 6 ++ (zeros 1 ++ (s.sec.finals.take 16).flatMap finalBytes))))

/-- The SPDM requests that open a connection and read what it attests: GET_VERSION, GET_CAPABILITIES, NEGOTIATE_ALGORITHMS, GET_DIGESTS,
GET_CERTIFICATE, CHALLENGE and GET_MEASUREMENTS, in their order, answer as a responder (R494, R495, R497; log entry 51 for the field places). -/
def Obligations.SpdmConnection : Prop :=
  ∀ (s : State) (p : Path), s.answers p .spdm = true →
    (∀ r, r = spdmVersion p s → exec (.spdmGetVersion p) s = .next (s.went (r.1.spdmSend p false (s.conn p) r.2)) ∧ r.2 = [0x10, 0x04, 0, 0, 0, 1, 0, 0x13]) ∧
    (∀ req r, r = spdmCapabilities p req s → (s.conn p).stage = 1 → 42 ≤ field req 12 4 →
      exec (.spdmGetCapabilities p req) s = .next (s.went (r.1.spdmSend p false (s.conn p) r.2)) ∧ byteAt r.2 1 = 0x61 ∧ field r.2 12 4 = 4096 ∧ field r.2 16 4 = 65536) ∧
    (∀ req r, r = spdmAlgorithms p req s → (s.conn p).stage = 2 → offers req 32 (byteAt req 28) 1 = true →
      exec (.spdmNegotiateAlgorithms p req) s = .next (s.went (r.1.spdmSend p false (s.conn p) r.2)) ∧ byteAt r.2 1 = 0x63 ∧ (r.1.conn p).stage = 3) ∧
    (∀ r, r = spdmDigests p s → (s.conn p).stage = 3 →
      exec (.spdmGetDigests p) s = .next (s.went (r.1.spdmSend p false (s.conn p) r.2)) ∧ r.2 = rsp 1 1 1 ++ shake256 s.chain 64) ∧
    (∀ off n r, r = spdmCertificate p 0 off n s → (s.conn p).stage = 3 →
      exec (.spdmGetCertificate p 0 off n) s = .next (s.went (r.1.spdmSend p false (s.conn p) r.2)) ∧
      (if off < s.chain.length then byteAt r.2 1 = 2 ∧ r.2.drop 8 = (s.chain.drop off).take (min n (s.chain.length - off))
       else r.2 = errInvalid)) ∧
    (∀ req r, r = spdmChallenge p req s → (s.conn p).stage = 3 → byteAt req 2 = 0 → byteAt req 3 = 0 → 44 ≤ req.length → s.sec.attest = true →
      exec (.spdmChallenge p req) s = .next (s.went (r.1.spdmSend p false (s.conn p) r.2)) ∧ byteAt r.2 1 = 3) ∧
    (∀ req r, r = spdmMeasurements p req s → (s.conn p).stage = 3 → byteAt req 2 = 0 → byteAt req 3 = 0xFF → 12 ≤ req.length →
      exec (.spdmGetMeasurements p req) s = .next (s.went (r.1.spdmSend p false (s.conn p) r.2)) ∧ byteAt r.2 1 = 0x60 ∧ byteAt r.2 4 = 8)

/-- The SPDM requests of a session: KEY_EXCHANGE opens one; FINISH ends its handshake where its verification data are the HMAC of the session,
and closes the session with DecryptError where they are not; HEARTBEAT, KEY_UPDATE and END_SESSION of a finished session, and an IDE_KM
object in VENDOR_DEFINED_REQUEST over DOE, are answered sealed under the session's keys (R413, R495, R496). CHUNK_SEND keeps the first chunk
of a large request, adds each next one in order, and with the last answers the whole request as if it had come in one; CHUNK_GET answers the
next part of a large response; RESPOND_IF_READY finds no deferred response (R495; log entry 51 for the field places). -/
def Obligations.SpdmSession : Prop :=
  (∀ (s : State) (p : Path), s.answers p .spdm = true →
     (∀ req r, r = spdmKeyExchange p req s → (s.conn p).stage = 3 → (s.conn p).keyExchange = true → (s.conn p).session = 0 → byteAt req 2 = 0 → byteAt req 3 = 0 →
       138 ≤ req.length → s.sec.attest = true →
       exec (.spdmKeyExchange p req) s = .next (s.went (r.1.spdmSend p false (s.conn p) r.2)) ∧ byteAt r.2 1 = 0x64 ∧ (r.1.conn p).session = 1) ∧
     (∀ req r, r = spdmFinish p req s → (s.conn p).session = 1 → bitAt (byteAt req 2) 0 = false →
       exec (.spdmFinish p req) s = .next (s.went (r.1.spdmSend p true (s.conn p) r.2)) ∧
       (if (req.drop 4).take 64 = verifyData (s.conn p).secret (s.conn p).peerKey false (exchangeHash (s.conn p).keys) (shake256 ((s.conn p).keys ++ req.take 4) 64)
        then r.2 = rsp 0x65 0 0 ∧ (r.1.conn p).session = 2 else r.2 = errDecrypt ∧ (r.1.conn p).session = 0)) ∧
     (∀ sid, (s.conn p).session = 2 → (s.conn p).sessionId = sid →
       exec (.spdmHeartbeat p sid) s = .next (s.went (s.spdmSend p true (s.conn p) (rsp 0x68 0 0))) ∧
       exec (.spdmKeyUpdate p sid 2 7) s = .next (s.went (State.spdmSend
         (s.setConn { s.conn p with keyReq := (s.conn p).keyReq + 1, keyRsp := (s.conn p).keyRsp + 1, seqRsp := 0 }) p true (s.conn p) (rsp 0x69 2 7))) ∧
       exec (.spdmEndSession p sid) s = .next (s.went (State.spdmSend (s.setConn { s.conn p with session := 0 }) p true (s.conn p) (rsp 0x6C 0 0))) ∧
       (∀ req r, p = .doe → field req 4 2 = 3 → byteAt req 6 = 2 → field req 7 2 = 1 → byteAt req 11 = 0 → r = ideObject (req.drop 12) s →
         exec (.spdmVendorDefinedRequest p sid req) s = .next (s.went (r.1.spdmSend p true (s.conn p) r.2))))) ∧
  (∀ (s : State) (p : Path), s.answers p .spdm = true →
     (∀ req r, r = spdmChunkSend p req s → field req 4 2 = 0 → bitAt (byteAt req 2) 0 = false → 1 ≤ field req 12 4 → field req 12 4 ≤ 65536 →
       ((req.drop 16).take (field req 8 4)).length ≤ field req 12 4 →
       exec (.spdmChunkSend p req) s = .next (s.went (r.1.spdmSend p false (s.conn p) r.2)) ∧ (r.1.conn p).chunkIn = (req.drop 16).take (field req 8 4)) ∧
     (∀ req r got, r = spdmChunkSend p req s → got = (s.conn p).chunkIn ++ (req.drop 12).take (field req 8 4) → 1 ≤ (s.conn p).chunkInSize →
       (s.conn p).chunkInSize ≤ 65536 → byteAt req 3 = (s.conn p).chunkInHandle → field req 4 2 = (s.conn p).chunkInSeq + 1 → got.length ≤ (s.conn p).chunkInSize →
       (bitAt (byteAt req 2) 0 = true → got.length = (s.conn p).chunkInSize) →
       exec (.spdmChunkSend p req) s = .next (s.went (r.1.spdmSend p false (s.conn p) r.2)) ∧
       (if bitAt (byteAt req 2) 0 = true then ∃ t w, t = spdmRequest p got (s.dropChunks p) ∧ w = t.1.fit p ((s.conn p).limit - 6) t.2 ∧
          r = (w.1, rsp 5 0 (byteAt req 3) ++ natLE 2 (field req 4 2) ++ w.2)
        else (r.1.conn p).chunkIn = got ∧ (r.1.conn p).chunkInSeq = field req 4 2 ∧ r.2 = rsp 5 0 (byteAt req 3) ++ natLE 2 (field req 4 2))) ∧
     (∀ h q r, r = spdmChunkGet p h q s → (s.conn p).chunkOut ≠ [] → h = (s.conn p).chunkOutHandle → q = (s.conn p).chunkOutSeq →
       exec (.spdmChunkGet p h q) s = .next (s.went (r.1.spdmSend p false (s.conn p) r.2)) ∧ byteAt r.2 1 = 6 ∧ (r.1.conn p).chunkOutSeq = q + 1) ∧
     (∀ code token, exec (.spdmRespondIfReady p code token) s = .next (s.went (s.spdmSend p false (s.conn p) errUnexpected)))
)


/-! ### What every step keeps -/

/-- Every step keeps the settings, counts and records of the power path and of the security root inside their fields. -/
def Obligations.StepKeepsRanges : Prop :=
  ∀ s t : State, s.ok = true → step s = .next t → t.ok = true

/-- Every step keeps memory in its canonical form: addresses strictly rising, and nothing listed that an unlisted address reads as. -/
def Obligations.StepKeepsMemoryCanonical : Prop :=
  ∀ s t : State, s.d.mem.canonical = true → step s = .next t → t.d.mem.canonical = true

/-- The module right after reset is in BOOT with nothing open, meets the ranges, and holds the settings that the manual gives: the cap at
2,400 W and enabled, qualification 10 × 10 ms, n at 16, the cause counts and the health word 0. -/
def Obligations.ResetMeetsRanges : Prop :=
  State.reset.ok = true ∧ State.reset.d.ctl.state = 1 ∧ State.reset.d.ctl.txn = none ∧ State.reset.d.ctl.committed = 0 ∧
    State.reset.pwr.cap = 2400 ∧ State.reset.pwr.capEnable = true ∧ State.reset.pwr.qualify = 10 ∧ State.reset.pwr.maxN = 16 ∧
    State.reset.pwr.events = 0 ∧ State.reset.sec.health = 0 ∧ State.reset.sec.debugOn = false ∧ State.reset.sec.keySeq = 0 ∧
    State.reset.d.mem.canonical = true ∧ State.reset.pending = []

/-- The security version of OTP and the stored key sequence never fall, and no final record leaves flash: a step adds at most one. -/
def Obligations.StoredVersionsNeverFall : Prop :=
  ∀ s t : State, step s = .next t → s.sec.otpVersion ≤ t.sec.otpVersion ∧ s.sec.keySeq ≤ t.sec.keySeq ∧
    ∃ fresh, t.sec.finals = fresh ++ s.sec.finals ∧ fresh.length ≤ 1

/-! ### The planes apart (R33, R493, R499, R500) -/

/-- Register reads and the requests that the management core answers alone change no memory, no tile, no ring, no started descriptor, no
retired granule and nothing of the control plane's record of the job. -/
def Obligations.ManagementLeavesThePlanes : Prop :=
  ∀ (c : Instr) (s t : State), managementOnly c = true → s.d.noHead = true → exec c s = .next t →
    t.d.mem = s.d.mem ∧ t.d.mdies = s.d.mdies ∧ t.d.tiles = s.d.tiles ∧ t.d.rings = s.d.rings ∧ t.d.acts = s.d.acts ∧
      t.d.retired = s.d.retired ∧ t.d.ctl = s.d.ctl

/-- Key slots and the stored sequence change, and debug unlocks, by key records and debug tokens only; a key record that changes anything
has a sequence above the stored one and sets it. -/
def Obligations.KeysChangeOnlyByRecords : Prop :=
  (∀ (c : Instr) (s t : State), bringsRecord c = false → exec c s = .next t →
    t.sec.slots = s.sec.slots ∧ t.sec.keySeq = s.sec.keySeq ∧ t.sec.slot0Disabled = s.sec.slot0Disabled ∧ (t.sec.debugOn = true → s.sec.debugOn = true)) ∧
  (∀ (p : Path) (b : List Byte) (s t : State), exec (.keyRecord p b) s = .next t →
    (t.sec.slots = s.sec.slots ∧ t.sec.keySeq = s.sec.keySeq ∧ t.sec.slot0Disabled = s.sec.slot0Disabled) ∨
    (s.sec.keySeq < t.sec.keySeq ∧ t.sec.keySeq = field b 16 8))

/-! ### Memory (R219, R227, R228, R237) -/

/-- A stack-memory address resolves to the place of the procedure stack_place; address and place determine each other over the whole
576 GiB; eight consecutive units of 256 bytes fall on the eight stacks, and 64 consecutive runs of eight on the 64 pseudo-channels. -/
def Obligations.StackPlaceIsOneToOne : Prop :=
  (∀ a u v w row, u = a / 256 → v = u / 8 → w = v / 64 → row = w / 256 →
    stackPlace a = ⟨u % 8 ^^^ v % 8 ^^^ v / 8 % 8, v % 64 ^^^ w % 64, w % 64 ^^^ row % 64, row, w / 64 % 4, a % 256 / 64, a % 64⟩) ∧
  (∀ a, a < 0x9000000000 → placeAddr (stackPlace a) = a ∧ (stackPlace a).m < 8 ∧ (stackPlace a).pc < 64 ∧ (stackPlace a).bank < 64 ∧
    (stackPlace a).row < 18432 ∧ (stackPlace a).col < 4 ∧ (stackPlace a).sector < 4 ∧ (stackPlace a).byte < 64) ∧
  (∀ p : Place, p.m < 8 → p.pc < 64 → p.bank < 64 → p.row < 18432 → p.col < 4 → p.sector < 4 → p.byte < 64 →
    stackPlace (placeAddr p) = p ∧ placeAddr p < 0x9000000000) ∧
  (∀ a b, a / 256 = b / 256 → (stackPlace a).m = (stackPlace b).m ∧ (stackPlace a).pc = (stackPlace b).pc) ∧
  (∀ v i j, i < 8 → j < 8 → i ≠ j → (stackPlace (256 * (8 * v + i))).m ≠ (stackPlace (256 * (8 * v + j))).m) ∧
  (∀ w i j k l, i < 64 → j < 64 → k < 8 → l < 8 → i ≠ j →
    (stackPlace (256 * (8 * (64 * w + i) + k))).pc ≠ (stackPlace (256 * (8 * (64 * w + j) + l))).pc)

/-- A BAR2 write of a whole sector outside every region: the sector reads back with its bytes, poisoned exactly when the write was, and
every other sector reads as before (memory in its canonical form, which StepKeepsMemoryCanonical keeps). -/
def Obligations.WholeSectorsReadBack : Prop :=
  ∀ (s : State) (a b : Nat) (bytes : List Byte) (tlp : Tlp), s.d.mem.canonical = true → s.d.reached = true → s.d.noHead = true →
    s.d.bar2Reach a 64 = true → a % 64 = 0 → bytes.length = 64 → s.d.regionOf a = none → s.d.key false a = some b → b < 0xB000000000 → tlp = .good ∨ tlp = .poisoned →
    ∃ t, exec (.bar2Write a bytes tlp) s = .next t ∧ (t.d.readKey a b).1 = (bytes, decide (tlp = .poisoned)) ∧
      ∀ a' b', b' % 64 = 0 → b' ≠ b → (t.d.readKey a' b').1 = (s.d.readKey a' b').1

/-! ### Registers (R432, R437, R441) -/

/-- An access at an aliased offset, of the management core or of the driver, has every effect of the same access at the register that it
reaches. -/
def Obligations.AliasesReachTheirRegister : Prop :=
  ∀ (s : State) (off : Nat), bar0Refused off 1 = false →
    canonical (canonical off) = canonical off ∧ bar0Refused (canonical off) 1 = false ∧
    ∀ req, (req = .core ∨ (req = .bar0 1 .good ∧ s.d.reached = true)) →
      (∀ tag, exec (.bar0RsRead tag off req) s = exec (.bar0RsRead tag (canonical off) req) s) ∧
      (∀ val be, exec (.registerWrite off val be req) s = exec (.registerWrite (canonical off) val be req) s)

/-- Each 64-bit register has its own shadow, and the driver's shadows are apart from those of the management core: a read of a low word
latches one shadow of one reader; a read of a high word answers that shadow and changes none. -/
def Obligations.ShadowsAreSeparate : Prop :=
  ∀ (s : State) (core : Bool) (off : Nat),
    (∀ v, s.regWord off = .low v →
      tget 0 ((s.latch core off).shadowsOf core) (canonical off) = v / 2 ^ 32 % 2 ^ 32 ∧ (s.latch core off).shadowsOf (!core) = s.d.shadowsOf (!core) ∧
      ∀ o, o ≠ canonical off → tget 0 ((s.latch core off).shadowsOf core) o = tget 0 (s.d.shadowsOf core) o) ∧
    (∀ l, s.regWord off = .high l → s.readValue core off = tget 0 (s.d.shadowsOf core) l ∧ s.latch core off = s.d)

/-- A block whose die is not powered, or whose PLL has lost lock, answers 0 to every read and drops every write, of the driver and of the
management core, and the commands that are writes of such a block have no effect; the tile and M-die blocks before order 5 of the table
Power-up are such blocks, the blocks of the I/O dies before order 4, and so is every block of a die that has lost lock. No such request
completes with UR. -/
def Obligations.UnpoweredBlocksReadZero : Prop :=
  (∀ (s : State) (off : Nat), s.readable (canonical off) = false →
    (∀ core, s.readValue core off = 0) ∧
    (∀ tag, exec (.bar0RsRead tag off .core) s = .next (s.settled s.d)) ∧
    (∀ val be, exec (.registerWrite off val be .core) s = .next (s.settled s.d)) ∧
    (s.d.reached = true → bar0Refused off 1 = false →
      (∀ tag, exec (.bar0RsRead tag off (.bar0 1 .good)) s = .next (s.settled (s.d.setHost fun h => { h with out := .value tag 0 :: h.out }))) ∧
      (∀ val be, exec (.registerWrite off val be (.bar0 1 .good)) s = .next (s.settled s.d)))) ∧
  (∀ (s : State) (r val src : Nat), r ≤ 10 → s.d.reached = true → (s.pwr.bootOrder < 4 ∨ s.pwr.deadDies.contains 12 = true) →
    ∀ c ∈ [Instr.doorbell r val 15 .good, .ringEnable r val, .ringDisable r val, .ringResume r, .ringHeadWrite r val, .irqUnmask src, .patternLoad],
      exec c s = .next (s.settled s.d)) ∧
  (∀ (s : State) (p : Nat), p < 32 → (s.pwr.bootOrder < 4 ∨ s.pwr.deadDies.contains (12 + p / 16) = true) → exec (.portRetrain p) s = .next (s.settled s.d)) ∧
  (∀ (s : State) (p o : Nat), p < 104 → o < 0x4000 → (s.pwr.bootOrder < 5 ∨ s.pwr.deadDies.contains (p / 26) = true) →
    s.readable (canonical (0x100000 + 0x4000 * p + o)) = false) ∧
  (∀ (s : State) (m o : Nat), m < 8 → o < 0x10000 → (s.pwr.bootOrder < 5 ∨ s.pwr.deadDies.contains (4 + m) = true) →
    s.readable (canonical (0x300000 + 0x10000 * m + o)) = false) ∧
  (∀ (s : State) (p o : Nat), p < 32 → o < 0x4000 → (s.pwr.bootOrder < 4 ∨ s.pwr.deadDies.contains (12 + p / 16) = true) →
    s.readable (canonical (0x400000 + 0x4000 * p + o)) = false) ∧
  (∀ (s : State) (off : Nat), (off < 0x100000 ∨ (0x480000 ≤ off ∧ off < 0x1000000)) → (s.pwr.bootOrder < 4 ∨ s.pwr.deadDies.contains 12 = true) →
    s.readable (canonical off) = false)

/-! ### Number formats (R66, R69, R75 to R77, R81, R84 to R90) -/

/-- Every code of every format but its NaNs is the code of its own value: no two codes share one, and the sign of a zero is kept. -/
def Obligations.CodesAreTheCodesOfTheirValues : Prop :=
  ∀ (f : Fmt) (c : Nat), c < 2 ^ (fracBits f + expBits f + if f = .s8 then 0 else 1) → decodeF f c ≠ .nan → encodeF f (decodeF f c) = c

/-- A value whose magnitude does not exceed the largest finite value of a format never overflows: under either mode, to nearest or
stochastic, it rounds to a finite value in range, and counts no saturation. -/
def Obligations.RoundingStaysInRange : Prop :=
  (∀ (f : Fmt) (r : Rnd) (ov : Ovf) (neg : Bool), roundF f r ov (.zero neg) = ⟨.zero neg, false⟩) ∧
  ∀ (f : Fmt) (r : Rnd) (ov : Ovf) (q : Rat), q ≠ 0 → rabs q ≤ maxFinite f →
    (roundF f r ov (.fin q)).sat = false ∧ (roundF f r ov (.fin q)).val.finite = true ∧ rabs (roundF f r ov (.fin q)).val.rat ≤ maxFinite f

/-! ### Rings (R406 to R409) -/

/-- A descriptor that the module's state does not allow has no effect beyond its completion record and the halt of its ring: no operation
index, no record of the replay log. -/
def Obligations.IllegalStateHasNoEffect : Prop :=
  ∀ (s : State) (r k : Nat) (c : Instr) (x : Desc), (k, c) ∈ startingCommands r → s.d.head r = some x → kindOf x.bytes = k → x.fetch = 0 →
    (isColony r && (s.d.ring r).ended) = false → s.d.judge r x.bytes false = .illegal →
    exec c s = .next (s.settled (s.d.refuseHead r 1)) ∧ (s.d.refuseHead r 1).ctl.nextIota = s.d.ctl.nextIota ∧
      (s.d.refuseHead r 1).ctl.rlog = s.d.ctl.rlog ∧ (s.d.refuseHead r 1).acts = s.d.acts ∧ ((s.d.refuseHead r 1).ring r).halted = true

/-- A descriptor that completes with a code that halts leaves its ring halted with its slot and its code, and no other ring; a halted ring
fetches nothing and starts nothing until RING_RESUME, which a ring that is not halted ignores, as it ignores a write of its head. -/
def Obligations.HaltedRingsWait : Prop :=
  (∀ (d : Dev) (r status detail : Nat) (x : Desc) (rest : List Desc), (d.ring r).queue = x :: rest → halts status = true → (d.ring r).sCplDev = false →
    ((d.refuseHead r status detail).ring r).halted = true ∧ ((d.refuseHead r status detail).ring r).haltCode = status ∧
      ((d.refuseHead r status detail).ring r).haltAt = x.place ∧ ((d.refuseHead r status detail).ring r).queue = [] ∧
      ∀ q, q ≠ r → (d.refuseHead r status detail).ring q = d.ring q) ∧
  (∀ (s : State) (r : Nat), (s.d.ring r).halted = true →
    (∀ bytes st, exec (.descriptorFetch r bytes st) s = .next (s.settled s.d)) ∧
    (∀ k c, (k, c) ∈ startingCommands r → exec c s = .next (s.settled s.d))) ∧
  (∀ x : Ring, x.halted = false → resumedRing x = x ∧ ∀ slot, headWritten slot x = x) ∧
  (∀ x : Ring, x.halted = true → (resumedRing x).halted = false ∧ (resumedRing x).fetchAt = x.head ∧ (resumedRing x).head = x.head)

/-! ### Peers (R284, R328) -/

/-- A sequenced message of a JOINED peer acts only when its number is the next one expected: one that was accepted before is acknowledged
again and discarded, and one ahead is discarded. -/
def Obligations.SequencedMessagesActOnce : Prop :=
  ∀ (s : State) (typ : Nat) (c : Rx → Instr) (m : Rx), (typ, c) ∈ sequencedCommands → s.d.arrived typ m = true → m.sequenced = true →
    (s.d.peer m.src).state = 3 → (peerSectors m.src).all s.d.tableClean = true → m.seq ≠ (s.d.peer m.src).rx.getD m.cls 0 →
    (((s.d.peer m.src).rx.getD m.cls 0 + 2 ^ 32 - m.seq) % 2 ^ 32 < 2 ^ 31 →
      exec (c m) s = .next (s.settled ((s.d.takeMessage typ m).setPeer m.src fun p => { p with ackDue := true }))) ∧
    (2 ^ 31 ≤ ((s.d.peer m.src).rx.getD m.cls 0 + 2 ^ 32 - m.seq) % 2 ^ 32 → exec (c m) s = .next (s.settled (s.d.takeMessage typ m)))

/-- The reachable set is the module and every JOINED member that is not stranded. A module has quorum with more than half of the member
list, or with half and the anchor, so of two modules of one pattern that reach no member in common at most one has it. Without it a
commit aborts the step as a partition and leaves the module STRANDED. -/
def Obligations.QuorumIsExclusive : Prop :=
  (∀ (d : Dev) (a : Nat), a ∈ d.reachable ↔ a ∈ d.members' ∧ (a = d.ctl.address ∨ ((d.peer a).state = 3 ∧ (d.peer a).stranded = false))) ∧
  (∀ (d : Dev) (p : Pattern), d.ctl.pattern = some p →
    (d.quorum = true ↔ p.members.length < 2 * d.reachable.length ∨ (2 * d.reachable.length = p.members.length ∧ p.anchor ∈ d.reachable))) ∧
  (∀ (d e : Dev) (p : Pattern), d.ctl.pattern = some p → e.ctl.pattern = some p → (∀ a, a ∈ d.reachable → a ∉ e.reachable) →
    ¬(d.quorum = true ∧ e.quorum = true)) ∧
  (∀ (d : Dev) (t : Txn) (own : Nat), d.quorum = false →
    d.commitStep t own = ((d.abortStep 8 0).setState 8).sendState ∧ (d.commitStep t own).ctl.state = 8 ∧ (d.commitStep t own).ctl.abortCause = 8 ∧
      (d.commitStep t own).ctl.committed = d.ctl.committed)

/-! ### Splits, loops and aborts (R299, R344, R474, R482, R487) -/

/-- A split of `u` units among `p` positions gives every unit to exactly one position: each begins where the one before it ends, the last
ends at `u`, and no two lengths differ by more than one. -/
def Obligations.SplitIsEven : Prop :=
  ∀ u p, 0 < p → (splitShare u p 0).1 = 0 ∧ ((List.range p).map fun i => (splitShare u p i).2).sum = u ∧
    (∀ i, i + 1 < p → (splitShare u p (i + 1)).1 = (splitShare u p i).1 + (splitShare u p i).2) ∧
    (∀ x, x < u → ∃ i, i < p ∧ (splitShare u p i).1 ≤ x ∧ x < (splitShare u p i).1 + (splitShare u p i).2) ∧
    (∀ i j, (splitShare u p i).2 ≤ (splitShare u p j).2 + 1)

/-- One comparison of the cap loop and of the thermal loop moves n by at most one step but for the falls to 2, and the clock runs between
2/16 and 16/16, at 2/16 on AUX; a quiet interval lowers a score that is not 0, and a score stays below its limit. -/
def Obligations.LoopsStayInRange : Prop :=
  (∀ (p : Pwr) (slow fast : Nat), 2 ≤ p.nCap → p.nCap ≤ 16 →
    2 ≤ (capStep p slow fast).nCap ∧ (capStep p slow fast).nCap ≤ 16 ∧
    (p.capEnable = false → (capStep p slow fast).nCap = 16) ∧
    (p.capEnable = true → 2400 < fast → (capStep p slow fast).nCap = 2) ∧
    (p.capEnable = true → fast ≤ 2400 → capOf p < slow → (capStep p slow fast).nCap = max 2 (p.nCap - 1) ∧ ((capStep p slow fast).capUnmet = true ↔ p.nCap = 2)) ∧
    (p.capEnable = true → fast ≤ 2400 → slow + 50 < capOf p → (capStep p slow fast).nCap = min 16 (p.nCap + 1)) ∧
    (p.capEnable = true → fast ≤ 2400 → slow ≤ capOf p → capOf p ≤ slow + 50 → (capStep p slow fast).nCap = p.nCap)) ∧
  (∀ (n : Nat) (ts : List Nat), 2 ≤ n → n ≤ 16 → 2 ≤ thermalStep n ts ∧ thermalStep n ts ≤ 16 ∧ thermalStep n ts ≤ n + 1) ∧
  (∀ s : State, s.ok = true → 2 ≤ s.aclkN ∧ s.aclkN ≤ 16 ∧ (s.drawMain.d.ctl.onAux = true → s.aclkN = 2)) ∧
  (∀ a points floors, a ≤ 255 * 65536 → (healthTick a points floors).1 ≤ 255 * 65536 ∧ (healthTick a points floors).2 ≤ 255 ∧
    (0 < a → (healthTick a 0 floors).1 < a) ∧ min floors 255 ≤ (healthTick a points floors).2)

/-- An abort records its cause and origin, counts once, and leaves the committed step, the visible copy and the pattern: the first cause
stands, and after it the step is no longer open. -/
def Obligations.AbortsKeepTheCommittedView : Prop :=
  ∀ (d : Dev) (t : Txn) (cause origin : Nat), d.ctl.txn = some t →
    (t.aborted = true → d.raise cause origin = d) ∧
    (t.aborted = false → (t.pledged = false ∨ pledgedCause cause = true) →
      (d.raise cause origin).ctl.committed = d.ctl.committed ∧ (d.raise cause origin).ctl.visible = d.ctl.visible ∧
      (d.raise cause origin).ctl.pattern = d.ctl.pattern ∧ (d.raise cause origin).ctl.abortCause = cause ∧ (d.raise cause origin).ctl.abortOrigin = origin ∧
      (d.raise cause origin).ctl.abortCount = satAdd 16 d.ctl.abortCount 1 ∧ (d.raise cause origin).ctl.abortStep = d.stepNo ∧
      (d.raise cause origin).stepOpen = false) ∧
    (t.aborted = false → t.pledged = true → pledgedCause cause = false →
      d.raise cause origin = d.setCtl fun c => { c with deferred := some (cause, origin) })
end

