-- ==== Sys2Proof/Laws/State.lean ====
section
/-! SUPPORT. Laws/State.lean: what each update of the state leaves in each field, one lemma per field, and the queue of commands. -/
namespace Sys2Proof.Machine
open Sys2Proof

variable (d : Dev) (s : State)

/-! ### setCtl -/

@[simp] theorem Dev.setCtl_ctl (f : Ctl → Ctl) : (d.setCtl f).ctl = f d.ctl := rfl
@[simp] theorem Dev.setCtl_mem (f : Ctl → Ctl) : (d.setCtl f).mem = d.mem := rfl
@[simp] theorem Dev.setCtl_mdies (f : Ctl → Ctl) : (d.setCtl f).mdies = d.mdies := rfl
@[simp] theorem Dev.setCtl_retired (f : Ctl → Ctl) : (d.setCtl f).retired = d.retired := rfl
@[simp] theorem Dev.setCtl_tableBad (f : Ctl → Ctl) : (d.setCtl f).tableBad = d.tableBad := rfl
@[simp] theorem Dev.setCtl_tableReads (f : Ctl → Ctl) : (d.setCtl f).tableReads = d.tableReads := rfl
@[simp] theorem Dev.setCtl_gauges (f : Ctl → Ctl) : (d.setCtl f).gauges = d.gauges := rfl
@[simp] theorem Dev.setCtl_confirms (f : Ctl → Ctl) : (d.setCtl f).confirms = d.confirms := rfl
@[simp] theorem Dev.setCtl_repairs (f : Ctl → Ctl) : (d.setCtl f).repairs = d.repairs := rfl
@[simp] theorem Dev.setCtl_retires (f : Ctl → Ctl) : (d.setCtl f).retires = d.retires := rfl
@[simp] theorem Dev.setCtl_tiles (f : Ctl → Ctl) : (d.setCtl f).tiles = d.tiles := rfl
@[simp] theorem Dev.setCtl_rings (f : Ctl → Ctl) : (d.setCtl f).rings = d.rings := rfl
@[simp] theorem Dev.setCtl_acts (f : Ctl → Ctl) : (d.setCtl f).acts = d.acts := rfl
@[simp] theorem Dev.setCtl_nextUid (f : Ctl → Ctl) : (d.setCtl f).nextUid = d.nextUid := rfl
@[simp] theorem Dev.setCtl_peers (f : Ctl → Ctl) : (d.setCtl f).peers = d.peers := rfl
@[simp] theorem Dev.setCtl_ports (f : Ctl → Ctl) : (d.setCtl f).ports = d.ports := rfl
@[simp] theorem Dev.setCtl_host (f : Ctl → Ctl) : (d.setCtl f).host = d.host := rfl
@[simp] theorem Dev.setCtl_log (f : Ctl → Ctl) : (d.setCtl f).log = d.log := rfl
@[simp] theorem Dev.setCtl_logSeq (f : Ctl → Ctl) : (d.setCtl f).logSeq = d.logSeq := rfl
@[simp] theorem Dev.setCtl_inbox (f : Ctl → Ctl) : (d.setCtl f).inbox = d.inbox := rfl
@[simp] theorem Dev.setCtl_shadows (f : Ctl → Ctl) : (d.setCtl f).shadows = d.shadows := rfl
@[simp] theorem Dev.setCtl_coreShadows (f : Ctl → Ctl) : (d.setCtl f).coreShadows = d.coreShadows := rfl
@[simp] theorem Dev.setCtl_free (f : Ctl → Ctl) : (d.setCtl f).free = d.free := rfl
@[simp] theorem Dev.setCtl_points (f : Ctl → Ctl) : (d.setCtl f).points = d.points := rfl
@[simp] theorem Dev.setCtl_receiver (f : Ctl → Ctl) : (d.setCtl f).receiver = d.receiver := rfl
@[simp] theorem Dev.setCtl_alerts (f : Ctl → Ctl) : (d.setCtl f).alerts = d.alerts := rfl

/-! ### setHost -/

@[simp] theorem Dev.setHost_ctl (f : HostPort → HostPort) : (d.setHost f).ctl = d.ctl := rfl
@[simp] theorem Dev.setHost_mem (f : HostPort → HostPort) : (d.setHost f).mem = d.mem := rfl
@[simp] theorem Dev.setHost_mdies (f : HostPort → HostPort) : (d.setHost f).mdies = d.mdies := rfl
@[simp] theorem Dev.setHost_retired (f : HostPort → HostPort) : (d.setHost f).retired = d.retired := rfl
@[simp] theorem Dev.setHost_tableBad (f : HostPort → HostPort) : (d.setHost f).tableBad = d.tableBad := rfl
@[simp] theorem Dev.setHost_tableReads (f : HostPort → HostPort) : (d.setHost f).tableReads = d.tableReads := rfl
@[simp] theorem Dev.setHost_gauges (f : HostPort → HostPort) : (d.setHost f).gauges = d.gauges := rfl
@[simp] theorem Dev.setHost_confirms (f : HostPort → HostPort) : (d.setHost f).confirms = d.confirms := rfl
@[simp] theorem Dev.setHost_repairs (f : HostPort → HostPort) : (d.setHost f).repairs = d.repairs := rfl
@[simp] theorem Dev.setHost_retires (f : HostPort → HostPort) : (d.setHost f).retires = d.retires := rfl
@[simp] theorem Dev.setHost_tiles (f : HostPort → HostPort) : (d.setHost f).tiles = d.tiles := rfl
@[simp] theorem Dev.setHost_rings (f : HostPort → HostPort) : (d.setHost f).rings = d.rings := rfl
@[simp] theorem Dev.setHost_acts (f : HostPort → HostPort) : (d.setHost f).acts = d.acts := rfl
@[simp] theorem Dev.setHost_nextUid (f : HostPort → HostPort) : (d.setHost f).nextUid = d.nextUid := rfl
@[simp] theorem Dev.setHost_peers (f : HostPort → HostPort) : (d.setHost f).peers = d.peers := rfl
@[simp] theorem Dev.setHost_ports (f : HostPort → HostPort) : (d.setHost f).ports = d.ports := rfl
@[simp] theorem Dev.setHost_host (f : HostPort → HostPort) : (d.setHost f).host = f d.host := rfl
@[simp] theorem Dev.setHost_log (f : HostPort → HostPort) : (d.setHost f).log = d.log := rfl
@[simp] theorem Dev.setHost_logSeq (f : HostPort → HostPort) : (d.setHost f).logSeq = d.logSeq := rfl
@[simp] theorem Dev.setHost_inbox (f : HostPort → HostPort) : (d.setHost f).inbox = d.inbox := rfl
@[simp] theorem Dev.setHost_shadows (f : HostPort → HostPort) : (d.setHost f).shadows = d.shadows := rfl
@[simp] theorem Dev.setHost_coreShadows (f : HostPort → HostPort) : (d.setHost f).coreShadows = d.coreShadows := rfl
@[simp] theorem Dev.setHost_free (f : HostPort → HostPort) : (d.setHost f).free = d.free := rfl
@[simp] theorem Dev.setHost_points (f : HostPort → HostPort) : (d.setHost f).points = d.points := rfl
@[simp] theorem Dev.setHost_receiver (f : HostPort → HostPort) : (d.setHost f).receiver = d.receiver := rfl
@[simp] theorem Dev.setHost_alerts (f : HostPort → HostPort) : (d.setHost f).alerts = d.alerts := rfl

/-! ### setMdie -/

@[simp] theorem Dev.setMdie_ctl (m : Nat) (f : MDie → MDie) : (d.setMdie m f).ctl = d.ctl := rfl
@[simp] theorem Dev.setMdie_mem (m : Nat) (f : MDie → MDie) : (d.setMdie m f).mem = d.mem := rfl
@[simp] theorem Dev.setMdie_mdies (m : Nat) (f : MDie → MDie) : (d.setMdie m f).mdies = tmod mdie0 d.mdies m f := rfl
@[simp] theorem Dev.setMdie_retired (m : Nat) (f : MDie → MDie) : (d.setMdie m f).retired = d.retired := rfl
@[simp] theorem Dev.setMdie_tableBad (m : Nat) (f : MDie → MDie) : (d.setMdie m f).tableBad = d.tableBad := rfl
@[simp] theorem Dev.setMdie_tableReads (m : Nat) (f : MDie → MDie) : (d.setMdie m f).tableReads = d.tableReads := rfl
@[simp] theorem Dev.setMdie_gauges (m : Nat) (f : MDie → MDie) : (d.setMdie m f).gauges = d.gauges := rfl
@[simp] theorem Dev.setMdie_confirms (m : Nat) (f : MDie → MDie) : (d.setMdie m f).confirms = d.confirms := rfl
@[simp] theorem Dev.setMdie_repairs (m : Nat) (f : MDie → MDie) : (d.setMdie m f).repairs = d.repairs := rfl
@[simp] theorem Dev.setMdie_retires (m : Nat) (f : MDie → MDie) : (d.setMdie m f).retires = d.retires := rfl
@[simp] theorem Dev.setMdie_tiles (m : Nat) (f : MDie → MDie) : (d.setMdie m f).tiles = d.tiles := rfl
@[simp] theorem Dev.setMdie_rings (m : Nat) (f : MDie → MDie) : (d.setMdie m f).rings = d.rings := rfl
@[simp] theorem Dev.setMdie_acts (m : Nat) (f : MDie → MDie) : (d.setMdie m f).acts = d.acts := rfl
@[simp] theorem Dev.setMdie_nextUid (m : Nat) (f : MDie → MDie) : (d.setMdie m f).nextUid = d.nextUid := rfl
@[simp] theorem Dev.setMdie_peers (m : Nat) (f : MDie → MDie) : (d.setMdie m f).peers = d.peers := rfl
@[simp] theorem Dev.setMdie_ports (m : Nat) (f : MDie → MDie) : (d.setMdie m f).ports = d.ports := rfl
@[simp] theorem Dev.setMdie_host (m : Nat) (f : MDie → MDie) : (d.setMdie m f).host = d.host := rfl
@[simp] theorem Dev.setMdie_log (m : Nat) (f : MDie → MDie) : (d.setMdie m f).log = d.log := rfl
@[simp] theorem Dev.setMdie_logSeq (m : Nat) (f : MDie → MDie) : (d.setMdie m f).logSeq = d.logSeq := rfl
@[simp] theorem Dev.setMdie_inbox (m : Nat) (f : MDie → MDie) : (d.setMdie m f).inbox = d.inbox := rfl
@[simp] theorem Dev.setMdie_shadows (m : Nat) (f : MDie → MDie) : (d.setMdie m f).shadows = d.shadows := rfl
@[simp] theorem Dev.setMdie_coreShadows (m : Nat) (f : MDie → MDie) : (d.setMdie m f).coreShadows = d.coreShadows := rfl
@[simp] theorem Dev.setMdie_free (m : Nat) (f : MDie → MDie) : (d.setMdie m f).free = d.free := rfl
@[simp] theorem Dev.setMdie_points (m : Nat) (f : MDie → MDie) : (d.setMdie m f).points = d.points := rfl
@[simp] theorem Dev.setMdie_receiver (m : Nat) (f : MDie → MDie) : (d.setMdie m f).receiver = d.receiver := rfl
@[simp] theorem Dev.setMdie_alerts (m : Nat) (f : MDie → MDie) : (d.setMdie m f).alerts = d.alerts := rfl

/-! ### setTile -/

@[simp] theorem Dev.setTile_ctl (p : Nat) (f : Tile → Tile) : (d.setTile p f).ctl = d.ctl := rfl
@[simp] theorem Dev.setTile_mem (p : Nat) (f : Tile → Tile) : (d.setTile p f).mem = d.mem := rfl
@[simp] theorem Dev.setTile_mdies (p : Nat) (f : Tile → Tile) : (d.setTile p f).mdies = d.mdies := rfl
@[simp] theorem Dev.setTile_retired (p : Nat) (f : Tile → Tile) : (d.setTile p f).retired = d.retired := rfl
@[simp] theorem Dev.setTile_tableBad (p : Nat) (f : Tile → Tile) : (d.setTile p f).tableBad = d.tableBad := rfl
@[simp] theorem Dev.setTile_tableReads (p : Nat) (f : Tile → Tile) : (d.setTile p f).tableReads = d.tableReads := rfl
@[simp] theorem Dev.setTile_gauges (p : Nat) (f : Tile → Tile) : (d.setTile p f).gauges = d.gauges := rfl
@[simp] theorem Dev.setTile_confirms (p : Nat) (f : Tile → Tile) : (d.setTile p f).confirms = d.confirms := rfl
@[simp] theorem Dev.setTile_repairs (p : Nat) (f : Tile → Tile) : (d.setTile p f).repairs = d.repairs := rfl
@[simp] theorem Dev.setTile_retires (p : Nat) (f : Tile → Tile) : (d.setTile p f).retires = d.retires := rfl
@[simp] theorem Dev.setTile_tiles (p : Nat) (f : Tile → Tile) : (d.setTile p f).tiles = tmod tile0 d.tiles p f := rfl
@[simp] theorem Dev.setTile_rings (p : Nat) (f : Tile → Tile) : (d.setTile p f).rings = d.rings := rfl
@[simp] theorem Dev.setTile_acts (p : Nat) (f : Tile → Tile) : (d.setTile p f).acts = d.acts := rfl
@[simp] theorem Dev.setTile_nextUid (p : Nat) (f : Tile → Tile) : (d.setTile p f).nextUid = d.nextUid := rfl
@[simp] theorem Dev.setTile_peers (p : Nat) (f : Tile → Tile) : (d.setTile p f).peers = d.peers := rfl
@[simp] theorem Dev.setTile_ports (p : Nat) (f : Tile → Tile) : (d.setTile p f).ports = d.ports := rfl
@[simp] theorem Dev.setTile_host (p : Nat) (f : Tile → Tile) : (d.setTile p f).host = d.host := rfl
@[simp] theorem Dev.setTile_log (p : Nat) (f : Tile → Tile) : (d.setTile p f).log = d.log := rfl
@[simp] theorem Dev.setTile_logSeq (p : Nat) (f : Tile → Tile) : (d.setTile p f).logSeq = d.logSeq := rfl
@[simp] theorem Dev.setTile_inbox (p : Nat) (f : Tile → Tile) : (d.setTile p f).inbox = d.inbox := rfl
@[simp] theorem Dev.setTile_shadows (p : Nat) (f : Tile → Tile) : (d.setTile p f).shadows = d.shadows := rfl
@[simp] theorem Dev.setTile_coreShadows (p : Nat) (f : Tile → Tile) : (d.setTile p f).coreShadows = d.coreShadows := rfl
@[simp] theorem Dev.setTile_free (p : Nat) (f : Tile → Tile) : (d.setTile p f).free = d.free := rfl
@[simp] theorem Dev.setTile_points (p : Nat) (f : Tile → Tile) : (d.setTile p f).points = d.points := rfl
@[simp] theorem Dev.setTile_receiver (p : Nat) (f : Tile → Tile) : (d.setTile p f).receiver = d.receiver := rfl
@[simp] theorem Dev.setTile_alerts (p : Nat) (f : Tile → Tile) : (d.setTile p f).alerts = d.alerts := rfl

/-! ### setRing -/

@[simp] theorem Dev.setRing_ctl (r : Nat) (f : Ring → Ring) : (d.setRing r f).ctl = d.ctl := rfl
@[simp] theorem Dev.setRing_mem (r : Nat) (f : Ring → Ring) : (d.setRing r f).mem = d.mem := rfl
@[simp] theorem Dev.setRing_mdies (r : Nat) (f : Ring → Ring) : (d.setRing r f).mdies = d.mdies := rfl
@[simp] theorem Dev.setRing_retired (r : Nat) (f : Ring → Ring) : (d.setRing r f).retired = d.retired := rfl
@[simp] theorem Dev.setRing_tableBad (r : Nat) (f : Ring → Ring) : (d.setRing r f).tableBad = d.tableBad := rfl
@[simp] theorem Dev.setRing_tableReads (r : Nat) (f : Ring → Ring) : (d.setRing r f).tableReads = d.tableReads := rfl
@[simp] theorem Dev.setRing_gauges (r : Nat) (f : Ring → Ring) : (d.setRing r f).gauges = d.gauges := rfl
@[simp] theorem Dev.setRing_confirms (r : Nat) (f : Ring → Ring) : (d.setRing r f).confirms = d.confirms := rfl
@[simp] theorem Dev.setRing_repairs (r : Nat) (f : Ring → Ring) : (d.setRing r f).repairs = d.repairs := rfl
@[simp] theorem Dev.setRing_retires (r : Nat) (f : Ring → Ring) : (d.setRing r f).retires = d.retires := rfl
@[simp] theorem Dev.setRing_tiles (r : Nat) (f : Ring → Ring) : (d.setRing r f).tiles = d.tiles := rfl
@[simp] theorem Dev.setRing_rings (r : Nat) (f : Ring → Ring) : (d.setRing r f).rings = tmod ring0 d.rings r f := rfl
@[simp] theorem Dev.setRing_acts (r : Nat) (f : Ring → Ring) : (d.setRing r f).acts = d.acts := rfl
@[simp] theorem Dev.setRing_nextUid (r : Nat) (f : Ring → Ring) : (d.setRing r f).nextUid = d.nextUid := rfl
@[simp] theorem Dev.setRing_peers (r : Nat) (f : Ring → Ring) : (d.setRing r f).peers = d.peers := rfl
@[simp] theorem Dev.setRing_ports (r : Nat) (f : Ring → Ring) : (d.setRing r f).ports = d.ports := rfl
@[simp] theorem Dev.setRing_host (r : Nat) (f : Ring → Ring) : (d.setRing r f).host = d.host := rfl
@[simp] theorem Dev.setRing_log (r : Nat) (f : Ring → Ring) : (d.setRing r f).log = d.log := rfl
@[simp] theorem Dev.setRing_logSeq (r : Nat) (f : Ring → Ring) : (d.setRing r f).logSeq = d.logSeq := rfl
@[simp] theorem Dev.setRing_inbox (r : Nat) (f : Ring → Ring) : (d.setRing r f).inbox = d.inbox := rfl
@[simp] theorem Dev.setRing_shadows (r : Nat) (f : Ring → Ring) : (d.setRing r f).shadows = d.shadows := rfl
@[simp] theorem Dev.setRing_coreShadows (r : Nat) (f : Ring → Ring) : (d.setRing r f).coreShadows = d.coreShadows := rfl
@[simp] theorem Dev.setRing_free (r : Nat) (f : Ring → Ring) : (d.setRing r f).free = d.free := rfl
@[simp] theorem Dev.setRing_points (r : Nat) (f : Ring → Ring) : (d.setRing r f).points = d.points := rfl
@[simp] theorem Dev.setRing_receiver (r : Nat) (f : Ring → Ring) : (d.setRing r f).receiver = d.receiver := rfl
@[simp] theorem Dev.setRing_alerts (r : Nat) (f : Ring → Ring) : (d.setRing r f).alerts = d.alerts := rfl

/-! ### setPeer -/

@[simp] theorem Dev.setPeer_ctl (a : Nat) (f : Peer → Peer) : (d.setPeer a f).ctl = d.ctl := rfl
@[simp] theorem Dev.setPeer_mem (a : Nat) (f : Peer → Peer) : (d.setPeer a f).mem = d.mem := rfl
@[simp] theorem Dev.setPeer_mdies (a : Nat) (f : Peer → Peer) : (d.setPeer a f).mdies = d.mdies := rfl
@[simp] theorem Dev.setPeer_retired (a : Nat) (f : Peer → Peer) : (d.setPeer a f).retired = d.retired := rfl
@[simp] theorem Dev.setPeer_tableBad (a : Nat) (f : Peer → Peer) : (d.setPeer a f).tableBad = d.tableBad := rfl
@[simp] theorem Dev.setPeer_tableReads (a : Nat) (f : Peer → Peer) : (d.setPeer a f).tableReads = d.tableReads := rfl
@[simp] theorem Dev.setPeer_gauges (a : Nat) (f : Peer → Peer) : (d.setPeer a f).gauges = d.gauges := rfl
@[simp] theorem Dev.setPeer_confirms (a : Nat) (f : Peer → Peer) : (d.setPeer a f).confirms = d.confirms := rfl
@[simp] theorem Dev.setPeer_repairs (a : Nat) (f : Peer → Peer) : (d.setPeer a f).repairs = d.repairs := rfl
@[simp] theorem Dev.setPeer_retires (a : Nat) (f : Peer → Peer) : (d.setPeer a f).retires = d.retires := rfl
@[simp] theorem Dev.setPeer_tiles (a : Nat) (f : Peer → Peer) : (d.setPeer a f).tiles = d.tiles := rfl
@[simp] theorem Dev.setPeer_rings (a : Nat) (f : Peer → Peer) : (d.setPeer a f).rings = d.rings := rfl
@[simp] theorem Dev.setPeer_acts (a : Nat) (f : Peer → Peer) : (d.setPeer a f).acts = d.acts := rfl
@[simp] theorem Dev.setPeer_nextUid (a : Nat) (f : Peer → Peer) : (d.setPeer a f).nextUid = d.nextUid := rfl
@[simp] theorem Dev.setPeer_peers (a : Nat) (f : Peer → Peer) : (d.setPeer a f).peers = tmod peer0 d.peers a f := rfl
@[simp] theorem Dev.setPeer_ports (a : Nat) (f : Peer → Peer) : (d.setPeer a f).ports = d.ports := rfl
@[simp] theorem Dev.setPeer_host (a : Nat) (f : Peer → Peer) : (d.setPeer a f).host = d.host := rfl
@[simp] theorem Dev.setPeer_log (a : Nat) (f : Peer → Peer) : (d.setPeer a f).log = d.log := rfl
@[simp] theorem Dev.setPeer_logSeq (a : Nat) (f : Peer → Peer) : (d.setPeer a f).logSeq = d.logSeq := rfl
@[simp] theorem Dev.setPeer_inbox (a : Nat) (f : Peer → Peer) : (d.setPeer a f).inbox = d.inbox := rfl
@[simp] theorem Dev.setPeer_shadows (a : Nat) (f : Peer → Peer) : (d.setPeer a f).shadows = d.shadows := rfl
@[simp] theorem Dev.setPeer_coreShadows (a : Nat) (f : Peer → Peer) : (d.setPeer a f).coreShadows = d.coreShadows := rfl
@[simp] theorem Dev.setPeer_free (a : Nat) (f : Peer → Peer) : (d.setPeer a f).free = d.free := rfl
@[simp] theorem Dev.setPeer_points (a : Nat) (f : Peer → Peer) : (d.setPeer a f).points = d.points := rfl
@[simp] theorem Dev.setPeer_receiver (a : Nat) (f : Peer → Peer) : (d.setPeer a f).receiver = d.receiver := rfl
@[simp] theorem Dev.setPeer_alerts (a : Nat) (f : Peer → Peer) : (d.setPeer a f).alerts = d.alerts := rfl

/-! ### setPort -/

@[simp] theorem Dev.setPort_ctl (p : Nat) (f : Port → Port) : (d.setPort p f).ctl = d.ctl := rfl
@[simp] theorem Dev.setPort_mem (p : Nat) (f : Port → Port) : (d.setPort p f).mem = d.mem := rfl
@[simp] theorem Dev.setPort_mdies (p : Nat) (f : Port → Port) : (d.setPort p f).mdies = d.mdies := rfl
@[simp] theorem Dev.setPort_retired (p : Nat) (f : Port → Port) : (d.setPort p f).retired = d.retired := rfl
@[simp] theorem Dev.setPort_tableBad (p : Nat) (f : Port → Port) : (d.setPort p f).tableBad = d.tableBad := rfl
@[simp] theorem Dev.setPort_tableReads (p : Nat) (f : Port → Port) : (d.setPort p f).tableReads = d.tableReads := rfl
@[simp] theorem Dev.setPort_gauges (p : Nat) (f : Port → Port) : (d.setPort p f).gauges = d.gauges := rfl
@[simp] theorem Dev.setPort_confirms (p : Nat) (f : Port → Port) : (d.setPort p f).confirms = d.confirms := rfl
@[simp] theorem Dev.setPort_repairs (p : Nat) (f : Port → Port) : (d.setPort p f).repairs = d.repairs := rfl
@[simp] theorem Dev.setPort_retires (p : Nat) (f : Port → Port) : (d.setPort p f).retires = d.retires := rfl
@[simp] theorem Dev.setPort_tiles (p : Nat) (f : Port → Port) : (d.setPort p f).tiles = d.tiles := rfl
@[simp] theorem Dev.setPort_rings (p : Nat) (f : Port → Port) : (d.setPort p f).rings = d.rings := rfl
@[simp] theorem Dev.setPort_acts (p : Nat) (f : Port → Port) : (d.setPort p f).acts = d.acts := rfl
@[simp] theorem Dev.setPort_nextUid (p : Nat) (f : Port → Port) : (d.setPort p f).nextUid = d.nextUid := rfl
@[simp] theorem Dev.setPort_peers (p : Nat) (f : Port → Port) : (d.setPort p f).peers = d.peers := rfl
@[simp] theorem Dev.setPort_ports (p : Nat) (f : Port → Port) : (d.setPort p f).ports = tmod port0 d.ports p f := rfl
@[simp] theorem Dev.setPort_host (p : Nat) (f : Port → Port) : (d.setPort p f).host = d.host := rfl
@[simp] theorem Dev.setPort_log (p : Nat) (f : Port → Port) : (d.setPort p f).log = d.log := rfl
@[simp] theorem Dev.setPort_logSeq (p : Nat) (f : Port → Port) : (d.setPort p f).logSeq = d.logSeq := rfl
@[simp] theorem Dev.setPort_inbox (p : Nat) (f : Port → Port) : (d.setPort p f).inbox = d.inbox := rfl
@[simp] theorem Dev.setPort_shadows (p : Nat) (f : Port → Port) : (d.setPort p f).shadows = d.shadows := rfl
@[simp] theorem Dev.setPort_coreShadows (p : Nat) (f : Port → Port) : (d.setPort p f).coreShadows = d.coreShadows := rfl
@[simp] theorem Dev.setPort_free (p : Nat) (f : Port → Port) : (d.setPort p f).free = d.free := rfl
@[simp] theorem Dev.setPort_points (p : Nat) (f : Port → Port) : (d.setPort p f).points = d.points := rfl
@[simp] theorem Dev.setPort_receiver (p : Nat) (f : Port → Port) : (d.setPort p f).receiver = d.receiver := rfl
@[simp] theorem Dev.setPort_alerts (p : Nat) (f : Port → Port) : (d.setPort p f).alerts = d.alerts := rfl

/-! ### setTxn -/

@[simp] theorem Dev.setTxn_ctl (f : Txn → Txn) : (d.setTxn f).ctl = { d.ctl with txn := d.ctl.txn.map f } := rfl
@[simp] theorem Dev.setTxn_mem (f : Txn → Txn) : (d.setTxn f).mem = d.mem := rfl
@[simp] theorem Dev.setTxn_mdies (f : Txn → Txn) : (d.setTxn f).mdies = d.mdies := rfl
@[simp] theorem Dev.setTxn_retired (f : Txn → Txn) : (d.setTxn f).retired = d.retired := rfl
@[simp] theorem Dev.setTxn_tableBad (f : Txn → Txn) : (d.setTxn f).tableBad = d.tableBad := rfl
@[simp] theorem Dev.setTxn_tableReads (f : Txn → Txn) : (d.setTxn f).tableReads = d.tableReads := rfl
@[simp] theorem Dev.setTxn_gauges (f : Txn → Txn) : (d.setTxn f).gauges = d.gauges := rfl
@[simp] theorem Dev.setTxn_confirms (f : Txn → Txn) : (d.setTxn f).confirms = d.confirms := rfl
@[simp] theorem Dev.setTxn_repairs (f : Txn → Txn) : (d.setTxn f).repairs = d.repairs := rfl
@[simp] theorem Dev.setTxn_retires (f : Txn → Txn) : (d.setTxn f).retires = d.retires := rfl
@[simp] theorem Dev.setTxn_tiles (f : Txn → Txn) : (d.setTxn f).tiles = d.tiles := rfl
@[simp] theorem Dev.setTxn_rings (f : Txn → Txn) : (d.setTxn f).rings = d.rings := rfl
@[simp] theorem Dev.setTxn_acts (f : Txn → Txn) : (d.setTxn f).acts = d.acts := rfl
@[simp] theorem Dev.setTxn_nextUid (f : Txn → Txn) : (d.setTxn f).nextUid = d.nextUid := rfl
@[simp] theorem Dev.setTxn_peers (f : Txn → Txn) : (d.setTxn f).peers = d.peers := rfl
@[simp] theorem Dev.setTxn_ports (f : Txn → Txn) : (d.setTxn f).ports = d.ports := rfl
@[simp] theorem Dev.setTxn_host (f : Txn → Txn) : (d.setTxn f).host = d.host := rfl
@[simp] theorem Dev.setTxn_log (f : Txn → Txn) : (d.setTxn f).log = d.log := rfl
@[simp] theorem Dev.setTxn_logSeq (f : Txn → Txn) : (d.setTxn f).logSeq = d.logSeq := rfl
@[simp] theorem Dev.setTxn_inbox (f : Txn → Txn) : (d.setTxn f).inbox = d.inbox := rfl
@[simp] theorem Dev.setTxn_shadows (f : Txn → Txn) : (d.setTxn f).shadows = d.shadows := rfl
@[simp] theorem Dev.setTxn_coreShadows (f : Txn → Txn) : (d.setTxn f).coreShadows = d.coreShadows := rfl
@[simp] theorem Dev.setTxn_free (f : Txn → Txn) : (d.setTxn f).free = d.free := rfl
@[simp] theorem Dev.setTxn_points (f : Txn → Txn) : (d.setTxn f).points = d.points := rfl
@[simp] theorem Dev.setTxn_receiver (f : Txn → Txn) : (d.setTxn f).receiver = d.receiver := rfl
@[simp] theorem Dev.setTxn_alerts (f : Txn → Txn) : (d.setTxn f).alerts = d.alerts := rfl

/-! ### setAct -/

@[simp] theorem Dev.setAct_ctl (u : Nat) (f : Active → Active) : (d.setAct u f).ctl = d.ctl := rfl
@[simp] theorem Dev.setAct_mem (u : Nat) (f : Active → Active) : (d.setAct u f).mem = d.mem := rfl
@[simp] theorem Dev.setAct_mdies (u : Nat) (f : Active → Active) : (d.setAct u f).mdies = d.mdies := rfl
@[simp] theorem Dev.setAct_retired (u : Nat) (f : Active → Active) : (d.setAct u f).retired = d.retired := rfl
@[simp] theorem Dev.setAct_tableBad (u : Nat) (f : Active → Active) : (d.setAct u f).tableBad = d.tableBad := rfl
@[simp] theorem Dev.setAct_tableReads (u : Nat) (f : Active → Active) : (d.setAct u f).tableReads = d.tableReads := rfl
@[simp] theorem Dev.setAct_gauges (u : Nat) (f : Active → Active) : (d.setAct u f).gauges = d.gauges := rfl
@[simp] theorem Dev.setAct_confirms (u : Nat) (f : Active → Active) : (d.setAct u f).confirms = d.confirms := rfl
@[simp] theorem Dev.setAct_repairs (u : Nat) (f : Active → Active) : (d.setAct u f).repairs = d.repairs := rfl
@[simp] theorem Dev.setAct_retires (u : Nat) (f : Active → Active) : (d.setAct u f).retires = d.retires := rfl
@[simp] theorem Dev.setAct_tiles (u : Nat) (f : Active → Active) : (d.setAct u f).tiles = d.tiles := rfl
@[simp] theorem Dev.setAct_rings (u : Nat) (f : Active → Active) : (d.setAct u f).rings = d.rings := rfl
@[simp] theorem Dev.setAct_acts (u : Nat) (f : Active → Active) : (d.setAct u f).acts = d.acts.map fun a => if a.uid = u then f a else a := rfl
@[simp] theorem Dev.setAct_nextUid (u : Nat) (f : Active → Active) : (d.setAct u f).nextUid = d.nextUid := rfl
@[simp] theorem Dev.setAct_peers (u : Nat) (f : Active → Active) : (d.setAct u f).peers = d.peers := rfl
@[simp] theorem Dev.setAct_ports (u : Nat) (f : Active → Active) : (d.setAct u f).ports = d.ports := rfl
@[simp] theorem Dev.setAct_host (u : Nat) (f : Active → Active) : (d.setAct u f).host = d.host := rfl
@[simp] theorem Dev.setAct_log (u : Nat) (f : Active → Active) : (d.setAct u f).log = d.log := rfl
@[simp] theorem Dev.setAct_logSeq (u : Nat) (f : Active → Active) : (d.setAct u f).logSeq = d.logSeq := rfl
@[simp] theorem Dev.setAct_inbox (u : Nat) (f : Active → Active) : (d.setAct u f).inbox = d.inbox := rfl
@[simp] theorem Dev.setAct_shadows (u : Nat) (f : Active → Active) : (d.setAct u f).shadows = d.shadows := rfl
@[simp] theorem Dev.setAct_coreShadows (u : Nat) (f : Active → Active) : (d.setAct u f).coreShadows = d.coreShadows := rfl
@[simp] theorem Dev.setAct_free (u : Nat) (f : Active → Active) : (d.setAct u f).free = d.free := rfl
@[simp] theorem Dev.setAct_points (u : Nat) (f : Active → Active) : (d.setAct u f).points = d.points := rfl
@[simp] theorem Dev.setAct_receiver (u : Nat) (f : Active → Active) : (d.setAct u f).receiver = d.receiver := rfl
@[simp] theorem Dev.setAct_alerts (u : Nat) (f : Active → Active) : (d.setAct u f).alerts = d.alerts := rfl

/-! ### health -/

@[simp] theorem Dev.health_ctl (n : Nat) : (d.health n).ctl = d.ctl := rfl
@[simp] theorem Dev.health_mem (n : Nat) : (d.health n).mem = d.mem := rfl
@[simp] theorem Dev.health_mdies (n : Nat) : (d.health n).mdies = d.mdies := rfl
@[simp] theorem Dev.health_retired (n : Nat) : (d.health n).retired = d.retired := rfl
@[simp] theorem Dev.health_tableBad (n : Nat) : (d.health n).tableBad = d.tableBad := rfl
@[simp] theorem Dev.health_tableReads (n : Nat) : (d.health n).tableReads = d.tableReads := rfl
@[simp] theorem Dev.health_gauges (n : Nat) : (d.health n).gauges = d.gauges := rfl
@[simp] theorem Dev.health_confirms (n : Nat) : (d.health n).confirms = d.confirms := rfl
@[simp] theorem Dev.health_repairs (n : Nat) : (d.health n).repairs = d.repairs := rfl
@[simp] theorem Dev.health_retires (n : Nat) : (d.health n).retires = d.retires := rfl
@[simp] theorem Dev.health_tiles (n : Nat) : (d.health n).tiles = d.tiles := rfl
@[simp] theorem Dev.health_rings (n : Nat) : (d.health n).rings = d.rings := rfl
@[simp] theorem Dev.health_acts (n : Nat) : (d.health n).acts = d.acts := rfl
@[simp] theorem Dev.health_nextUid (n : Nat) : (d.health n).nextUid = d.nextUid := rfl
@[simp] theorem Dev.health_peers (n : Nat) : (d.health n).peers = d.peers := rfl
@[simp] theorem Dev.health_ports (n : Nat) : (d.health n).ports = d.ports := rfl
@[simp] theorem Dev.health_host (n : Nat) : (d.health n).host = d.host := rfl
@[simp] theorem Dev.health_log (n : Nat) : (d.health n).log = d.log := rfl
@[simp] theorem Dev.health_logSeq (n : Nat) : (d.health n).logSeq = d.logSeq := rfl
@[simp] theorem Dev.health_inbox (n : Nat) : (d.health n).inbox = d.inbox := rfl
@[simp] theorem Dev.health_shadows (n : Nat) : (d.health n).shadows = d.shadows := rfl
@[simp] theorem Dev.health_coreShadows (n : Nat) : (d.health n).coreShadows = d.coreShadows := rfl
@[simp] theorem Dev.health_free (n : Nat) : (d.health n).free = d.free := rfl
@[simp] theorem Dev.health_points (n : Nat) : (d.health n).points = d.points + n := rfl
@[simp] theorem Dev.health_receiver (n : Nat) : (d.health n).receiver = d.receiver := rfl
@[simp] theorem Dev.health_alerts (n : Nat) : (d.health n).alerts = d.alerts := rfl

/-! ### aer -/

@[simp] theorem Dev.aer_ctl (e a : Nat) : (d.aer e a).ctl = d.ctl := rfl
@[simp] theorem Dev.aer_mem (e a : Nat) : (d.aer e a).mem = d.mem := rfl
@[simp] theorem Dev.aer_mdies (e a : Nat) : (d.aer e a).mdies = d.mdies := rfl
@[simp] theorem Dev.aer_retired (e a : Nat) : (d.aer e a).retired = d.retired := rfl
@[simp] theorem Dev.aer_tableBad (e a : Nat) : (d.aer e a).tableBad = d.tableBad := rfl
@[simp] theorem Dev.aer_tableReads (e a : Nat) : (d.aer e a).tableReads = d.tableReads := rfl
@[simp] theorem Dev.aer_gauges (e a : Nat) : (d.aer e a).gauges = d.gauges := rfl
@[simp] theorem Dev.aer_confirms (e a : Nat) : (d.aer e a).confirms = d.confirms := rfl
@[simp] theorem Dev.aer_repairs (e a : Nat) : (d.aer e a).repairs = d.repairs := rfl
@[simp] theorem Dev.aer_retires (e a : Nat) : (d.aer e a).retires = d.retires := rfl
@[simp] theorem Dev.aer_tiles (e a : Nat) : (d.aer e a).tiles = d.tiles := rfl
@[simp] theorem Dev.aer_rings (e a : Nat) : (d.aer e a).rings = d.rings := rfl
@[simp] theorem Dev.aer_acts (e a : Nat) : (d.aer e a).acts = d.acts := rfl
@[simp] theorem Dev.aer_nextUid (e a : Nat) : (d.aer e a).nextUid = d.nextUid := rfl
@[simp] theorem Dev.aer_peers (e a : Nat) : (d.aer e a).peers = d.peers := rfl
@[simp] theorem Dev.aer_ports (e a : Nat) : (d.aer e a).ports = d.ports := rfl
@[simp] theorem Dev.aer_host (e a : Nat) : (d.aer e a).host =
    { d.host with aer := ⟨e, decide (e < 32) && bitAt d.host.cfg.severity e, a⟩ :: d.host.aer }.logHeader e a := rfl
@[simp] theorem Dev.aer_log (e a : Nat) : (d.aer e a).log = d.log := rfl
@[simp] theorem Dev.aer_logSeq (e a : Nat) : (d.aer e a).logSeq = d.logSeq := rfl
@[simp] theorem Dev.aer_inbox (e a : Nat) : (d.aer e a).inbox = d.inbox := rfl
@[simp] theorem Dev.aer_shadows (e a : Nat) : (d.aer e a).shadows = d.shadows := rfl
@[simp] theorem Dev.aer_coreShadows (e a : Nat) : (d.aer e a).coreShadows = d.coreShadows := rfl
@[simp] theorem Dev.aer_free (e a : Nat) : (d.aer e a).free = d.free := rfl
@[simp] theorem Dev.aer_points (e a : Nat) : (d.aer e a).points = d.points := rfl
@[simp] theorem Dev.aer_receiver (e a : Nat) : (d.aer e a).receiver = d.receiver := rfl
@[simp] theorem Dev.aer_alerts (e a : Nat) : (d.aer e a).alerts = d.alerts := rfl

/-! ### takeMessage -/

@[simp] theorem Dev.takeMessage_ctl (typ : Nat) (m : Rx) : (d.takeMessage typ m).ctl = d.ctl := rfl
@[simp] theorem Dev.takeMessage_mem (typ : Nat) (m : Rx) : (d.takeMessage typ m).mem = d.mem := rfl
@[simp] theorem Dev.takeMessage_mdies (typ : Nat) (m : Rx) : (d.takeMessage typ m).mdies = d.mdies := rfl
@[simp] theorem Dev.takeMessage_retired (typ : Nat) (m : Rx) : (d.takeMessage typ m).retired = d.retired := rfl
@[simp] theorem Dev.takeMessage_tableBad (typ : Nat) (m : Rx) : (d.takeMessage typ m).tableBad = d.tableBad := rfl
@[simp] theorem Dev.takeMessage_tableReads (typ : Nat) (m : Rx) : (d.takeMessage typ m).tableReads = d.tableReads := rfl
@[simp] theorem Dev.takeMessage_gauges (typ : Nat) (m : Rx) : (d.takeMessage typ m).gauges = d.gauges := rfl
@[simp] theorem Dev.takeMessage_confirms (typ : Nat) (m : Rx) : (d.takeMessage typ m).confirms = d.confirms := rfl
@[simp] theorem Dev.takeMessage_repairs (typ : Nat) (m : Rx) : (d.takeMessage typ m).repairs = d.repairs := rfl
@[simp] theorem Dev.takeMessage_retires (typ : Nat) (m : Rx) : (d.takeMessage typ m).retires = d.retires := rfl
@[simp] theorem Dev.takeMessage_tiles (typ : Nat) (m : Rx) : (d.takeMessage typ m).tiles = d.tiles := rfl
@[simp] theorem Dev.takeMessage_rings (typ : Nat) (m : Rx) : (d.takeMessage typ m).rings = d.rings := rfl
@[simp] theorem Dev.takeMessage_acts (typ : Nat) (m : Rx) : (d.takeMessage typ m).acts = d.acts := rfl
@[simp] theorem Dev.takeMessage_nextUid (typ : Nat) (m : Rx) : (d.takeMessage typ m).nextUid = d.nextUid := rfl
@[simp] theorem Dev.takeMessage_peers (typ : Nat) (m : Rx) : (d.takeMessage typ m).peers = d.peers := rfl
@[simp] theorem Dev.takeMessage_ports (typ : Nat) (m : Rx) : (d.takeMessage typ m).ports = d.ports := rfl
@[simp] theorem Dev.takeMessage_host (typ : Nat) (m : Rx) : (d.takeMessage typ m).host = d.host := rfl
@[simp] theorem Dev.takeMessage_log (typ : Nat) (m : Rx) : (d.takeMessage typ m).log = d.log := rfl
@[simp] theorem Dev.takeMessage_logSeq (typ : Nat) (m : Rx) : (d.takeMessage typ m).logSeq = d.logSeq := rfl
@[simp] theorem Dev.takeMessage_inbox (typ : Nat) (m : Rx) : (d.takeMessage typ m).inbox = d.inbox.erase (typ, m) := rfl
@[simp] theorem Dev.takeMessage_shadows (typ : Nat) (m : Rx) : (d.takeMessage typ m).shadows = d.shadows := rfl
@[simp] theorem Dev.takeMessage_coreShadows (typ : Nat) (m : Rx) : (d.takeMessage typ m).coreShadows = d.coreShadows := rfl
@[simp] theorem Dev.takeMessage_free (typ : Nat) (m : Rx) : (d.takeMessage typ m).free = d.free := rfl
@[simp] theorem Dev.takeMessage_points (typ : Nat) (m : Rx) : (d.takeMessage typ m).points = d.points := rfl
@[simp] theorem Dev.takeMessage_receiver (typ : Nat) (m : Rx) : (d.takeMessage typ m).receiver = d.receiver := rfl
@[simp] theorem Dev.takeMessage_alerts (typ : Nat) (m : Rx) : (d.takeMessage typ m).alerts = d.alerts := rfl

/-! ### popHead -/

@[simp] theorem Dev.popHead_ctl (r : Nat) : (d.popHead r).ctl = d.ctl := rfl
@[simp] theorem Dev.popHead_mem (r : Nat) : (d.popHead r).mem = d.mem := rfl
@[simp] theorem Dev.popHead_mdies (r : Nat) : (d.popHead r).mdies = d.mdies := rfl
@[simp] theorem Dev.popHead_retired (r : Nat) : (d.popHead r).retired = d.retired := rfl
@[simp] theorem Dev.popHead_tableBad (r : Nat) : (d.popHead r).tableBad = d.tableBad := rfl
@[simp] theorem Dev.popHead_tableReads (r : Nat) : (d.popHead r).tableReads = d.tableReads := rfl
@[simp] theorem Dev.popHead_gauges (r : Nat) : (d.popHead r).gauges = d.gauges := rfl
@[simp] theorem Dev.popHead_confirms (r : Nat) : (d.popHead r).confirms = d.confirms := rfl
@[simp] theorem Dev.popHead_repairs (r : Nat) : (d.popHead r).repairs = d.repairs := rfl
@[simp] theorem Dev.popHead_retires (r : Nat) : (d.popHead r).retires = d.retires := rfl
@[simp] theorem Dev.popHead_tiles (r : Nat) : (d.popHead r).tiles = d.tiles := rfl
@[simp] theorem Dev.popHead_rings (r : Nat) : (d.popHead r).rings = tmod ring0 d.rings r fun x => { x with head := x.head + 1, queue := x.queue.drop 1 } := rfl
@[simp] theorem Dev.popHead_acts (r : Nat) : (d.popHead r).acts = d.acts := rfl
@[simp] theorem Dev.popHead_nextUid (r : Nat) : (d.popHead r).nextUid = d.nextUid := rfl
@[simp] theorem Dev.popHead_peers (r : Nat) : (d.popHead r).peers = d.peers := rfl
@[simp] theorem Dev.popHead_ports (r : Nat) : (d.popHead r).ports = d.ports := rfl
@[simp] theorem Dev.popHead_host (r : Nat) : (d.popHead r).host = d.host := rfl
@[simp] theorem Dev.popHead_log (r : Nat) : (d.popHead r).log = d.log := rfl
@[simp] theorem Dev.popHead_logSeq (r : Nat) : (d.popHead r).logSeq = d.logSeq := rfl
@[simp] theorem Dev.popHead_inbox (r : Nat) : (d.popHead r).inbox = d.inbox := rfl
@[simp] theorem Dev.popHead_shadows (r : Nat) : (d.popHead r).shadows = d.shadows := rfl
@[simp] theorem Dev.popHead_coreShadows (r : Nat) : (d.popHead r).coreShadows = d.coreShadows := rfl
@[simp] theorem Dev.popHead_free (r : Nat) : (d.popHead r).free = d.free := rfl
@[simp] theorem Dev.popHead_points (r : Nat) : (d.popHead r).points = d.points := rfl
@[simp] theorem Dev.popHead_receiver (r : Nat) : (d.popHead r).receiver = d.receiver := rfl
@[simp] theorem Dev.popHead_alerts (r : Nat) : (d.popHead r).alerts = d.alerts := rfl

/-! ### fetchedSlot -/

@[simp] theorem Dev.fetchedSlot_ctl (r : Nat) (x : Desc) : (d.fetchedSlot r x).ctl = d.ctl := rfl
@[simp] theorem Dev.fetchedSlot_mem (r : Nat) (x : Desc) : (d.fetchedSlot r x).mem = d.mem := rfl
@[simp] theorem Dev.fetchedSlot_mdies (r : Nat) (x : Desc) : (d.fetchedSlot r x).mdies = d.mdies := rfl
@[simp] theorem Dev.fetchedSlot_retired (r : Nat) (x : Desc) : (d.fetchedSlot r x).retired = d.retired := rfl
@[simp] theorem Dev.fetchedSlot_tableBad (r : Nat) (x : Desc) : (d.fetchedSlot r x).tableBad = d.tableBad := rfl
@[simp] theorem Dev.fetchedSlot_tableReads (r : Nat) (x : Desc) : (d.fetchedSlot r x).tableReads = d.tableReads := rfl
@[simp] theorem Dev.fetchedSlot_gauges (r : Nat) (x : Desc) : (d.fetchedSlot r x).gauges = d.gauges := rfl
@[simp] theorem Dev.fetchedSlot_confirms (r : Nat) (x : Desc) : (d.fetchedSlot r x).confirms = d.confirms := rfl
@[simp] theorem Dev.fetchedSlot_repairs (r : Nat) (x : Desc) : (d.fetchedSlot r x).repairs = d.repairs := rfl
@[simp] theorem Dev.fetchedSlot_retires (r : Nat) (x : Desc) : (d.fetchedSlot r x).retires = d.retires := rfl
@[simp] theorem Dev.fetchedSlot_tiles (r : Nat) (x : Desc) : (d.fetchedSlot r x).tiles = d.tiles := rfl
@[simp] theorem Dev.fetchedSlot_rings (r : Nat) (x : Desc) : (d.fetchedSlot r x).rings = tmod ring0 d.rings r fun y => { y with queue := y.queue ++ [x], fetchAt := y.fetchAt + 1 } := rfl
@[simp] theorem Dev.fetchedSlot_acts (r : Nat) (x : Desc) : (d.fetchedSlot r x).acts = d.acts := rfl
@[simp] theorem Dev.fetchedSlot_nextUid (r : Nat) (x : Desc) : (d.fetchedSlot r x).nextUid = d.nextUid := rfl
@[simp] theorem Dev.fetchedSlot_peers (r : Nat) (x : Desc) : (d.fetchedSlot r x).peers = d.peers := rfl
@[simp] theorem Dev.fetchedSlot_ports (r : Nat) (x : Desc) : (d.fetchedSlot r x).ports = d.ports := rfl
@[simp] theorem Dev.fetchedSlot_host (r : Nat) (x : Desc) : (d.fetchedSlot r x).host = d.host := rfl
@[simp] theorem Dev.fetchedSlot_log (r : Nat) (x : Desc) : (d.fetchedSlot r x).log = d.log := rfl
@[simp] theorem Dev.fetchedSlot_logSeq (r : Nat) (x : Desc) : (d.fetchedSlot r x).logSeq = d.logSeq := rfl
@[simp] theorem Dev.fetchedSlot_inbox (r : Nat) (x : Desc) : (d.fetchedSlot r x).inbox = d.inbox := rfl
@[simp] theorem Dev.fetchedSlot_shadows (r : Nat) (x : Desc) : (d.fetchedSlot r x).shadows = d.shadows := rfl
@[simp] theorem Dev.fetchedSlot_coreShadows (r : Nat) (x : Desc) : (d.fetchedSlot r x).coreShadows = d.coreShadows := rfl
@[simp] theorem Dev.fetchedSlot_free (r : Nat) (x : Desc) : (d.fetchedSlot r x).free = d.free := rfl
@[simp] theorem Dev.fetchedSlot_points (r : Nat) (x : Desc) : (d.fetchedSlot r x).points = d.points := rfl
@[simp] theorem Dev.fetchedSlot_receiver (r : Nat) (x : Desc) : (d.fetchedSlot r x).receiver = d.receiver := rfl
@[simp] theorem Dev.fetchedSlot_alerts (r : Nat) (x : Desc) : (d.fetchedSlot r x).alerts = d.alerts := rfl

/-! ### Next states -/

@[simp] theorem State.settled_pending : (s.settled d).pending = s.pending := by simp only [State.settled]
@[simp] theorem State.settled_pwr : (s.settled d).pwr = s.pwr := by simp only [State.settled]
@[simp] theorem State.settled_sec : (s.settled d).sec = s.sec := by simp only [State.settled]
@[simp] theorem State.settled_d : (s.settled d).d = d.settle := by simp only [State.settled]
@[simp] theorem State.become_pending (p : Pwr) (x : Sec) : (s.become p x d).pending = s.pending := by simp only [State.become]
@[simp] theorem State.become_pwr (p : Pwr) (x : Sec) : (s.become p x d).pwr = p := by simp only [State.become]
@[simp] theorem State.become_sec (p : Pwr) (x : Sec) : (s.become p x d).sec = x := by simp only [State.become]
@[simp] theorem State.become_d (p : Pwr) (x : Sec) : (s.become p x d).d = d.settle := by simp only [State.become]
@[simp] theorem nextD_eq (f : Dev → Dev) : nextD s f = .next (s.settled (f s.d)) := by simp only [nextD, State.settled]
@[simp] theorem nextS_eq (f : State → State) : nextS s f = .next (s.become (f s).pwr (f s).sec (f s).d) := by simp only [nextS, State.become]

end Sys2Proof.Machine
end

