-- ==== Sys2Proof/Laws/Ops.lean ====
section
/-! SUPPORT. Laws/Ops.lean: what the shared operations leave unchanged, and what a head or a message that meets its conditions does. -/
namespace Sys2Proof.Machine
open Sys2Proof

variable (d : Dev)

/-! ### An MSI-X message changes the host port alone (R427) -/

@[simp] theorem Dev.deliver_ctl (src : Nat) : (d.deliver src).ctl = d.ctl := by
  unfold Dev.deliver; simp only; split; · rfl
  split; · rfl
  split <;> rfl
@[simp] theorem Dev.deliver_mem (src : Nat) : (d.deliver src).mem = d.mem := by
  unfold Dev.deliver; simp only; split; · rfl
  split; · rfl
  split <;> rfl
@[simp] theorem Dev.deliver_mdies (src : Nat) : (d.deliver src).mdies = d.mdies := by
  unfold Dev.deliver; simp only; split; · rfl
  split; · rfl
  split <;> rfl
@[simp] theorem Dev.deliver_retired (src : Nat) : (d.deliver src).retired = d.retired := by
  unfold Dev.deliver; simp only; split; · rfl
  split; · rfl
  split <;> rfl
@[simp] theorem Dev.deliver_tableBad (src : Nat) : (d.deliver src).tableBad = d.tableBad := by
  unfold Dev.deliver; simp only; split; · rfl
  split; · rfl
  split <;> rfl
@[simp] theorem Dev.deliver_tableReads (src : Nat) : (d.deliver src).tableReads = d.tableReads := by
  unfold Dev.deliver; simp only; split; · rfl
  split; · rfl
  split <;> rfl
@[simp] theorem Dev.deliver_gauges (src : Nat) : (d.deliver src).gauges = d.gauges := by
  unfold Dev.deliver; simp only; split; · rfl
  split; · rfl
  split <;> rfl
@[simp] theorem Dev.deliver_confirms (src : Nat) : (d.deliver src).confirms = d.confirms := by
  unfold Dev.deliver; simp only; split; · rfl
  split; · rfl
  split <;> rfl
@[simp] theorem Dev.deliver_repairs (src : Nat) : (d.deliver src).repairs = d.repairs := by
  unfold Dev.deliver; simp only; split; · rfl
  split; · rfl
  split <;> rfl
@[simp] theorem Dev.deliver_retires (src : Nat) : (d.deliver src).retires = d.retires := by
  unfold Dev.deliver; simp only; split; · rfl
  split; · rfl
  split <;> rfl
@[simp] theorem Dev.deliver_tiles (src : Nat) : (d.deliver src).tiles = d.tiles := by
  unfold Dev.deliver; simp only; split; · rfl
  split; · rfl
  split <;> rfl
@[simp] theorem Dev.deliver_rings (src : Nat) : (d.deliver src).rings = d.rings := by
  unfold Dev.deliver; simp only; split; · rfl
  split; · rfl
  split <;> rfl
@[simp] theorem Dev.deliver_acts (src : Nat) : (d.deliver src).acts = d.acts := by
  unfold Dev.deliver; simp only; split; · rfl
  split; · rfl
  split <;> rfl
@[simp] theorem Dev.deliver_nextUid (src : Nat) : (d.deliver src).nextUid = d.nextUid := by
  unfold Dev.deliver; simp only; split; · rfl
  split; · rfl
  split <;> rfl
@[simp] theorem Dev.deliver_peers (src : Nat) : (d.deliver src).peers = d.peers := by
  unfold Dev.deliver; simp only; split; · rfl
  split; · rfl
  split <;> rfl
@[simp] theorem Dev.deliver_ports (src : Nat) : (d.deliver src).ports = d.ports := by
  unfold Dev.deliver; simp only; split; · rfl
  split; · rfl
  split <;> rfl
@[simp] theorem Dev.deliver_log (src : Nat) : (d.deliver src).log = d.log := by
  unfold Dev.deliver; simp only; split; · rfl
  split; · rfl
  split <;> rfl
@[simp] theorem Dev.deliver_logSeq (src : Nat) : (d.deliver src).logSeq = d.logSeq := by
  unfold Dev.deliver; simp only; split; · rfl
  split; · rfl
  split <;> rfl
@[simp] theorem Dev.deliver_inbox (src : Nat) : (d.deliver src).inbox = d.inbox := by
  unfold Dev.deliver; simp only; split; · rfl
  split; · rfl
  split <;> rfl
@[simp] theorem Dev.deliver_shadows (src : Nat) : (d.deliver src).shadows = d.shadows := by
  unfold Dev.deliver; simp only; split; · rfl
  split; · rfl
  split <;> rfl
@[simp] theorem Dev.deliver_coreShadows (src : Nat) : (d.deliver src).coreShadows = d.coreShadows := by
  unfold Dev.deliver; simp only; split; · rfl
  split; · rfl
  split <;> rfl
@[simp] theorem Dev.deliver_free (src : Nat) : (d.deliver src).free = d.free := by
  unfold Dev.deliver; simp only; split; · rfl
  split; · rfl
  split <;> rfl
@[simp] theorem Dev.deliver_points (src : Nat) : (d.deliver src).points = d.points := by
  unfold Dev.deliver; simp only; split; · rfl
  split; · rfl
  split <;> rfl
@[simp] theorem Dev.deliver_receiver (src : Nat) : (d.deliver src).receiver = d.receiver := by
  unfold Dev.deliver; simp only; split; · rfl
  split; · rfl
  split <;> rfl
@[simp] theorem Dev.deliver_alerts (src : Nat) : (d.deliver src).alerts = d.alerts := by
  unfold Dev.deliver; simp only; split; · rfl
  split; · rfl
  split <;> rfl

/-! ### An interrupt changes the host port alone (R427) -/

@[simp] theorem Dev.irq_ctl (src : Nat) : (d.irq src).ctl = d.ctl := by
  unfold Dev.irq; split <;> simp
@[simp] theorem Dev.irq_mem (src : Nat) : (d.irq src).mem = d.mem := by
  unfold Dev.irq; split <;> simp
@[simp] theorem Dev.irq_mdies (src : Nat) : (d.irq src).mdies = d.mdies := by
  unfold Dev.irq; split <;> simp
@[simp] theorem Dev.irq_retired (src : Nat) : (d.irq src).retired = d.retired := by
  unfold Dev.irq; split <;> simp
@[simp] theorem Dev.irq_tableBad (src : Nat) : (d.irq src).tableBad = d.tableBad := by
  unfold Dev.irq; split <;> simp
@[simp] theorem Dev.irq_tableReads (src : Nat) : (d.irq src).tableReads = d.tableReads := by
  unfold Dev.irq; split <;> simp
@[simp] theorem Dev.irq_gauges (src : Nat) : (d.irq src).gauges = d.gauges := by
  unfold Dev.irq; split <;> simp
@[simp] theorem Dev.irq_confirms (src : Nat) : (d.irq src).confirms = d.confirms := by
  unfold Dev.irq; split <;> simp
@[simp] theorem Dev.irq_repairs (src : Nat) : (d.irq src).repairs = d.repairs := by
  unfold Dev.irq; split <;> simp
@[simp] theorem Dev.irq_retires (src : Nat) : (d.irq src).retires = d.retires := by
  unfold Dev.irq; split <;> simp
@[simp] theorem Dev.irq_tiles (src : Nat) : (d.irq src).tiles = d.tiles := by
  unfold Dev.irq; split <;> simp
@[simp] theorem Dev.irq_rings (src : Nat) : (d.irq src).rings = d.rings := by
  unfold Dev.irq; split <;> simp
@[simp] theorem Dev.irq_acts (src : Nat) : (d.irq src).acts = d.acts := by
  unfold Dev.irq; split <;> simp
@[simp] theorem Dev.irq_nextUid (src : Nat) : (d.irq src).nextUid = d.nextUid := by
  unfold Dev.irq; split <;> simp
@[simp] theorem Dev.irq_peers (src : Nat) : (d.irq src).peers = d.peers := by
  unfold Dev.irq; split <;> simp
@[simp] theorem Dev.irq_ports (src : Nat) : (d.irq src).ports = d.ports := by
  unfold Dev.irq; split <;> simp
@[simp] theorem Dev.irq_log (src : Nat) : (d.irq src).log = d.log := by
  unfold Dev.irq; split <;> simp
@[simp] theorem Dev.irq_logSeq (src : Nat) : (d.irq src).logSeq = d.logSeq := by
  unfold Dev.irq; split <;> simp
@[simp] theorem Dev.irq_inbox (src : Nat) : (d.irq src).inbox = d.inbox := by
  unfold Dev.irq; split <;> simp
@[simp] theorem Dev.irq_shadows (src : Nat) : (d.irq src).shadows = d.shadows := by
  unfold Dev.irq; split <;> simp
@[simp] theorem Dev.irq_coreShadows (src : Nat) : (d.irq src).coreShadows = d.coreShadows := by
  unfold Dev.irq; split <;> simp
@[simp] theorem Dev.irq_free (src : Nat) : (d.irq src).free = d.free := by
  unfold Dev.irq; split <;> simp
@[simp] theorem Dev.irq_points (src : Nat) : (d.irq src).points = d.points := by
  unfold Dev.irq; split <;> simp
@[simp] theorem Dev.irq_receiver (src : Nat) : (d.irq src).receiver = d.receiver := by
  unfold Dev.irq; split <;> simp
@[simp] theorem Dev.irq_alerts (src : Nat) : (d.irq src).alerts = d.alerts := by
  unfold Dev.irq; split <;> simp

/-! ### A request to the host changes the host port alone (R420) -/

@[simp] theorem Dev.toHost_ctl (x : HostOut) : (d.toHost x).ctl = d.ctl := by
  unfold Dev.toHost; split; · rfl
  split <;> rfl
@[simp] theorem Dev.toHost_mem (x : HostOut) : (d.toHost x).mem = d.mem := by
  unfold Dev.toHost; split; · rfl
  split <;> rfl
@[simp] theorem Dev.toHost_mdies (x : HostOut) : (d.toHost x).mdies = d.mdies := by
  unfold Dev.toHost; split; · rfl
  split <;> rfl
@[simp] theorem Dev.toHost_retired (x : HostOut) : (d.toHost x).retired = d.retired := by
  unfold Dev.toHost; split; · rfl
  split <;> rfl
@[simp] theorem Dev.toHost_tableBad (x : HostOut) : (d.toHost x).tableBad = d.tableBad := by
  unfold Dev.toHost; split; · rfl
  split <;> rfl
@[simp] theorem Dev.toHost_tableReads (x : HostOut) : (d.toHost x).tableReads = d.tableReads := by
  unfold Dev.toHost; split; · rfl
  split <;> rfl
@[simp] theorem Dev.toHost_gauges (x : HostOut) : (d.toHost x).gauges = d.gauges := by
  unfold Dev.toHost; split; · rfl
  split <;> rfl
@[simp] theorem Dev.toHost_confirms (x : HostOut) : (d.toHost x).confirms = d.confirms := by
  unfold Dev.toHost; split; · rfl
  split <;> rfl
@[simp] theorem Dev.toHost_repairs (x : HostOut) : (d.toHost x).repairs = d.repairs := by
  unfold Dev.toHost; split; · rfl
  split <;> rfl
@[simp] theorem Dev.toHost_retires (x : HostOut) : (d.toHost x).retires = d.retires := by
  unfold Dev.toHost; split; · rfl
  split <;> rfl
@[simp] theorem Dev.toHost_tiles (x : HostOut) : (d.toHost x).tiles = d.tiles := by
  unfold Dev.toHost; split; · rfl
  split <;> rfl
@[simp] theorem Dev.toHost_rings (x : HostOut) : (d.toHost x).rings = d.rings := by
  unfold Dev.toHost; split; · rfl
  split <;> rfl
@[simp] theorem Dev.toHost_acts (x : HostOut) : (d.toHost x).acts = d.acts := by
  unfold Dev.toHost; split; · rfl
  split <;> rfl
@[simp] theorem Dev.toHost_nextUid (x : HostOut) : (d.toHost x).nextUid = d.nextUid := by
  unfold Dev.toHost; split; · rfl
  split <;> rfl
@[simp] theorem Dev.toHost_peers (x : HostOut) : (d.toHost x).peers = d.peers := by
  unfold Dev.toHost; split; · rfl
  split <;> rfl
@[simp] theorem Dev.toHost_ports (x : HostOut) : (d.toHost x).ports = d.ports := by
  unfold Dev.toHost; split; · rfl
  split <;> rfl
@[simp] theorem Dev.toHost_log (x : HostOut) : (d.toHost x).log = d.log := by
  unfold Dev.toHost; split; · rfl
  split <;> rfl
@[simp] theorem Dev.toHost_logSeq (x : HostOut) : (d.toHost x).logSeq = d.logSeq := by
  unfold Dev.toHost; split; · rfl
  split <;> rfl
@[simp] theorem Dev.toHost_inbox (x : HostOut) : (d.toHost x).inbox = d.inbox := by
  unfold Dev.toHost; split; · rfl
  split <;> rfl
@[simp] theorem Dev.toHost_shadows (x : HostOut) : (d.toHost x).shadows = d.shadows := by
  unfold Dev.toHost; split; · rfl
  split <;> rfl
@[simp] theorem Dev.toHost_coreShadows (x : HostOut) : (d.toHost x).coreShadows = d.coreShadows := by
  unfold Dev.toHost; split; · rfl
  split <;> rfl
@[simp] theorem Dev.toHost_free (x : HostOut) : (d.toHost x).free = d.free := by
  unfold Dev.toHost; split; · rfl
  split <;> rfl
@[simp] theorem Dev.toHost_points (x : HostOut) : (d.toHost x).points = d.points := by
  unfold Dev.toHost; split; · rfl
  split <;> rfl
@[simp] theorem Dev.toHost_receiver (x : HostOut) : (d.toHost x).receiver = d.receiver := by
  unfold Dev.toHost; split; · rfl
  split <;> rfl
@[simp] theorem Dev.toHost_alerts (x : HostOut) : (d.toHost x).alerts = d.alerts := by
  unfold Dev.toHost; split; · rfl
  split <;> rfl

/-! ### An event changes the log, the alerts and the host port alone (R483) -/

@[simp] theorem Dev.logEv_ctl (pl co un : Nat) (pay : List Byte) (a : Nat) : (d.logEv pl co un pay a).ctl = d.ctl := by
  unfold Dev.logEv; simp only [Dev.irq_ctl]; split <;> (try split) <;> rfl
@[simp] theorem Dev.logEv_mem (pl co un : Nat) (pay : List Byte) (a : Nat) : (d.logEv pl co un pay a).mem = d.mem := by
  unfold Dev.logEv; simp only [Dev.irq_mem]; split <;> (try split) <;> rfl
@[simp] theorem Dev.logEv_mdies (pl co un : Nat) (pay : List Byte) (a : Nat) : (d.logEv pl co un pay a).mdies = d.mdies := by
  unfold Dev.logEv; simp only [Dev.irq_mdies]; split <;> (try split) <;> rfl
@[simp] theorem Dev.logEv_retired (pl co un : Nat) (pay : List Byte) (a : Nat) : (d.logEv pl co un pay a).retired = d.retired := by
  unfold Dev.logEv; simp only [Dev.irq_retired]; split <;> (try split) <;> rfl
@[simp] theorem Dev.logEv_tableBad (pl co un : Nat) (pay : List Byte) (a : Nat) : (d.logEv pl co un pay a).tableBad = d.tableBad := by
  unfold Dev.logEv; simp only [Dev.irq_tableBad]; split <;> (try split) <;> rfl
@[simp] theorem Dev.logEv_tableReads (pl co un : Nat) (pay : List Byte) (a : Nat) : (d.logEv pl co un pay a).tableReads = d.tableReads := by
  unfold Dev.logEv; simp only [Dev.irq_tableReads]; split <;> (try split) <;> rfl
@[simp] theorem Dev.logEv_gauges (pl co un : Nat) (pay : List Byte) (a : Nat) : (d.logEv pl co un pay a).gauges = d.gauges := by
  unfold Dev.logEv; simp only [Dev.irq_gauges]; split <;> (try split) <;> rfl
@[simp] theorem Dev.logEv_confirms (pl co un : Nat) (pay : List Byte) (a : Nat) : (d.logEv pl co un pay a).confirms = d.confirms := by
  unfold Dev.logEv; simp only [Dev.irq_confirms]; split <;> (try split) <;> rfl
@[simp] theorem Dev.logEv_repairs (pl co un : Nat) (pay : List Byte) (a : Nat) : (d.logEv pl co un pay a).repairs = d.repairs := by
  unfold Dev.logEv; simp only [Dev.irq_repairs]; split <;> (try split) <;> rfl
@[simp] theorem Dev.logEv_retires (pl co un : Nat) (pay : List Byte) (a : Nat) : (d.logEv pl co un pay a).retires = d.retires := by
  unfold Dev.logEv; simp only [Dev.irq_retires]; split <;> (try split) <;> rfl
@[simp] theorem Dev.logEv_tiles (pl co un : Nat) (pay : List Byte) (a : Nat) : (d.logEv pl co un pay a).tiles = d.tiles := by
  unfold Dev.logEv; simp only [Dev.irq_tiles]; split <;> (try split) <;> rfl
@[simp] theorem Dev.logEv_rings (pl co un : Nat) (pay : List Byte) (a : Nat) : (d.logEv pl co un pay a).rings = d.rings := by
  unfold Dev.logEv; simp only [Dev.irq_rings]; split <;> (try split) <;> rfl
@[simp] theorem Dev.logEv_acts (pl co un : Nat) (pay : List Byte) (a : Nat) : (d.logEv pl co un pay a).acts = d.acts := by
  unfold Dev.logEv; simp only [Dev.irq_acts]; split <;> (try split) <;> rfl
@[simp] theorem Dev.logEv_nextUid (pl co un : Nat) (pay : List Byte) (a : Nat) : (d.logEv pl co un pay a).nextUid = d.nextUid := by
  unfold Dev.logEv; simp only [Dev.irq_nextUid]; split <;> (try split) <;> rfl
@[simp] theorem Dev.logEv_peers (pl co un : Nat) (pay : List Byte) (a : Nat) : (d.logEv pl co un pay a).peers = d.peers := by
  unfold Dev.logEv; simp only [Dev.irq_peers]; split <;> (try split) <;> rfl
@[simp] theorem Dev.logEv_ports (pl co un : Nat) (pay : List Byte) (a : Nat) : (d.logEv pl co un pay a).ports = d.ports := by
  unfold Dev.logEv; simp only [Dev.irq_ports]; split <;> (try split) <;> rfl
@[simp] theorem Dev.logEv_inbox (pl co un : Nat) (pay : List Byte) (a : Nat) : (d.logEv pl co un pay a).inbox = d.inbox := by
  unfold Dev.logEv; simp only [Dev.irq_inbox]; split <;> (try split) <;> rfl
@[simp] theorem Dev.logEv_shadows (pl co un : Nat) (pay : List Byte) (a : Nat) : (d.logEv pl co un pay a).shadows = d.shadows := by
  unfold Dev.logEv; simp only [Dev.irq_shadows]; split <;> (try split) <;> rfl
@[simp] theorem Dev.logEv_coreShadows (pl co un : Nat) (pay : List Byte) (a : Nat) : (d.logEv pl co un pay a).coreShadows = d.coreShadows := by
  unfold Dev.logEv; simp only [Dev.irq_coreShadows]; split <;> (try split) <;> rfl
@[simp] theorem Dev.logEv_free (pl co un : Nat) (pay : List Byte) (a : Nat) : (d.logEv pl co un pay a).free = d.free := by
  unfold Dev.logEv; simp only [Dev.irq_free]; split <;> (try split) <;> rfl
@[simp] theorem Dev.logEv_points (pl co un : Nat) (pay : List Byte) (a : Nat) : (d.logEv pl co un pay a).points = d.points := by
  unfold Dev.logEv; simp only [Dev.irq_points]; split <;> (try split) <;> rfl
@[simp] theorem Dev.logEv_receiver (pl co un : Nat) (pay : List Byte) (a : Nat) : (d.logEv pl co un pay a).receiver = d.receiver := by
  unfold Dev.logEv; simp only [Dev.irq_receiver]; split <;> (try split) <;> rfl

/-! ### A change of the module's state (R405) -/

/-- The module is in the state that it was put into. -/
@[simp] theorem Dev.setState_state (st : Nat) : (d.setState st).ctl.state = st := by
  unfold Dev.setState; split
  · assumption
  · simp only [Dev.irq_ctl, Dev.setCtl_ctl]; split <;> rfl
/-- It keeps the number of its last committed step. -/
@[simp] theorem Dev.setState_committed (st : Nat) : (d.setState st).ctl.committed = d.ctl.committed := by
  unfold Dev.setState; split
  · rfl
  · simp only [Dev.irq_ctl, Dev.setCtl_ctl]; split <;> simp
/-- It keeps its pattern. -/
@[simp] theorem Dev.setState_pattern (st : Nat) : (d.setState st).ctl.pattern = d.ctl.pattern := by
  unfold Dev.setState; split
  · rfl
  · simp only [Dev.irq_ctl, Dev.setCtl_ctl]; split <;> simp
/-- It stays on its input. -/
@[simp] theorem Dev.setState_onAux (st : Nat) : (d.setState st).ctl.onAux = d.ctl.onAux := by
  unfold Dev.setState; split
  · rfl
  · simp only [Dev.irq_ctl, Dev.setCtl_ctl]; split <;> simp
/-- It keeps its identity. -/
@[simp] theorem Dev.setState_moduleId (st : Nat) : (d.setState st).ctl.moduleId = d.ctl.moduleId := by
  unfold Dev.setState; split
  · rfl
  · simp only [Dev.irq_ctl, Dev.setCtl_ctl]; split <;> simp
@[simp] theorem Dev.setState_mem (st : Nat) : (d.setState st).mem = d.mem := by
  unfold Dev.setState; split <;> simp
@[simp] theorem Dev.setState_mdies (st : Nat) : (d.setState st).mdies = d.mdies := by
  unfold Dev.setState; split <;> simp
@[simp] theorem Dev.setState_retired (st : Nat) : (d.setState st).retired = d.retired := by
  unfold Dev.setState; split <;> simp
@[simp] theorem Dev.setState_tableBad (st : Nat) : (d.setState st).tableBad = d.tableBad := by
  unfold Dev.setState; split <;> simp
@[simp] theorem Dev.setState_tableReads (st : Nat) : (d.setState st).tableReads = d.tableReads := by
  unfold Dev.setState; split <;> simp
@[simp] theorem Dev.setState_gauges (st : Nat) : (d.setState st).gauges = d.gauges := by
  unfold Dev.setState; split <;> simp
@[simp] theorem Dev.setState_confirms (st : Nat) : (d.setState st).confirms = d.confirms := by
  unfold Dev.setState; split <;> simp
@[simp] theorem Dev.setState_repairs (st : Nat) : (d.setState st).repairs = d.repairs := by
  unfold Dev.setState; split <;> simp
@[simp] theorem Dev.setState_retires (st : Nat) : (d.setState st).retires = d.retires := by
  unfold Dev.setState; split <;> simp
@[simp] theorem Dev.setState_tiles (st : Nat) : (d.setState st).tiles = d.tiles := by
  unfold Dev.setState; split <;> simp
@[simp] theorem Dev.setState_rings (st : Nat) : (d.setState st).rings = d.rings := by
  unfold Dev.setState; split <;> simp
@[simp] theorem Dev.setState_acts (st : Nat) : (d.setState st).acts = d.acts := by
  unfold Dev.setState; split <;> simp
@[simp] theorem Dev.setState_nextUid (st : Nat) : (d.setState st).nextUid = d.nextUid := by
  unfold Dev.setState; split <;> simp
@[simp] theorem Dev.setState_peers (st : Nat) : (d.setState st).peers = d.peers := by
  unfold Dev.setState; split <;> simp
@[simp] theorem Dev.setState_ports (st : Nat) : (d.setState st).ports = d.ports := by
  unfold Dev.setState; split <;> simp
@[simp] theorem Dev.setState_inbox (st : Nat) : (d.setState st).inbox = d.inbox := by
  unfold Dev.setState; split <;> simp
@[simp] theorem Dev.setState_shadows (st : Nat) : (d.setState st).shadows = d.shadows := by
  unfold Dev.setState; split <;> simp
@[simp] theorem Dev.setState_coreShadows (st : Nat) : (d.setState st).coreShadows = d.coreShadows := by
  unfold Dev.setState; split <;> simp
@[simp] theorem Dev.setState_free (st : Nat) : (d.setState st).free = d.free := by
  unfold Dev.setState; split <;> simp
@[simp] theorem Dev.setState_points (st : Nat) : (d.setState st).points = d.points := by
  unfold Dev.setState; split <;> simp
@[simp] theorem Dev.setState_receiver (st : Nat) : (d.setState st).receiver = d.receiver := by
  unfold Dev.setState; split <;> simp

/-! ### Folds -/

/-- What every round of a fold keeps, the fold keeps. -/
theorem foldl_keeps {α β : Type} (g : Dev → β) (f : Dev → α → Dev) (h : ∀ d x, g (f d x) = g d) (l : List α) (d : Dev) : g (l.foldl f d) = g d := by
  induction l generalizing d with
  | nil => rfl
  | cons x l ih => rw [List.foldl_cons, ih, h]

/-! ### Heads and messages that meet their conditions -/

/-- A head that is ready starts under the rules of its kind (R406). -/
theorem Dev.issue_ready {d : Dev} {r k : Nat} {adopt : Bool} {x : Desc} (h : d.ready r k adopt x = true) (f : Desc → Dev) :
    d.issue r k adopt f = f x := by
  simp only [Dev.ready, Bool.and_eq_true, beq_iff_eq, Bool.not_eq_true', Bool.and_eq_false_imp] at h
  obtain ⟨⟨⟨⟨⟨⟨h1, h2⟩, h3⟩, h4⟩, h5⟩, h6⟩, h7⟩ := h
  unfold Dev.issue
  simp only [h1, h2, h3, h5]
  rw [if_neg (by simp)]
  have h4' : ¬ (isColony r && (d.ring r).ended) = true := by
    simp only [Bool.and_eq_true, not_and, Bool.not_eq_true]; exact h4
  rw [if_neg h4', if_neg (by rintro ⟨a, b⟩; simp [h6 a] at b), if_neg (by simpa using h7)]

/-- A well-formed message is taken out of the inbox (R285). -/
theorem Dev.received_arrived {d : Dev} {typ : Nat} {m : Rx} (h : d.arrived typ m = true) : d.received typ m = (d.takeMessage typ m, true) := by
  simp only [Dev.arrived, Bool.and_eq_true, Bool.not_eq_true'] at h
  have hm : (d.takeMessage typ m).malformed typ m = false := h.2
  unfold Dev.received
  rw [if_neg (by simp only [h.1]; simp)]
  simp [hm]

/-- A well-formed unsequenced message has its effect (R285). -/
theorem Dev.receive_arrived {d : Dev} {typ : Nat} {m : Rx} (h : d.arrived typ m = true) (f : Dev → Dev) :
    d.receive typ m f = f (d.takeMessage typ m) := by
  simp [Dev.receive, Dev.received_arrived h]

/-- A sequenced message that is in order is taken up (R284). -/
theorem Dev.accepted_inOrder {d : Dev} {typ : Nat} {m : Rx} (h : d.inOrder typ m = true) : d.accepted typ m true = (d.taken typ m, true) := by
  simp only [Dev.inOrder, Bool.and_eq_true, beq_iff_eq, Bool.not_eq_true'] at h
  obtain ⟨⟨⟨⟨⟨⟨h1, h2⟩, h3⟩, h4⟩, h5⟩, h6⟩, -⟩ := h
  have hb : (d.takeMessage typ m).showsBehind m = false := h5
  have hp : (d.takeMessage typ m).peer m.src = d.peer m.src := rfl
  have ht : (d.takeMessage typ m).ctl = d.ctl := rfl
  unfold Dev.accepted
  simp only [Dev.received_arrived h1, hp, ht, h2, h3, h4, hb]
  cases hx : d.ctl.txn with
  | none => simp [Dev.taken]
  | some t =>
    rw [hx] at h6
    simp only [Bool.not_eq_true'] at h6
    simp [h6, Dev.taken]

/-- Where sectors of tables read without poison, what they are read for goes on (R233). -/
theorem Dev.withTables_clean {d : Dev} {ks : List Nat} (h : ks.all d.tableClean = true) (f : Dev → Dev) : d.withTables ks f = f d := by
  have : ks.find? (fun k => !d.tableClean k) = none := by
    rw [List.find?_eq_none]
    intro k hk
    simp [List.all_eq_true.1 h k hk]
  simp [Dev.withTables, this]

/-- A sequenced message that is in order has its effect (R284). -/
theorem Dev.accept_inOrder {d : Dev} {typ : Nat} {m : Rx} (h : d.inOrder typ m = true) (f : Dev → Dev) :
    d.accept typ m true f = f (d.taken typ m) := by
  have hc : (peerSectors m.src).all d.tableClean = true := by
    simp only [Dev.inOrder, Bool.and_eq_true] at h; exact h.2
  simp [Dev.accept, Dev.withTables_clean hc, Dev.accepted_inOrder h]

/-- A ring without a fetched descriptor has no head to complete. -/
theorem Dev.settleRing_of_empty {d : Dev} {r : Nat} (h : (d.ring r).queue = []) (k : Nat) : Dev.settleRing k r d = d := by
  cases k with
  | zero => rfl
  | succ k => simp [Dev.settleRing, h]

/-- A write of the driver that reaches the registers has its effect (R421, R422). -/
theorem State.barWrite_reached {s : State} (h : s.d.reached = true) (off : Nat) (f : State → State) :
    s.barWrite off .good false f = f s := by
  simp only [Dev.reached, Bool.and_eq_true] at h
  simp [State.barWrite, dropError, h.1, h.2]

/-- A write of the driver to a register whose block has power and its clock sets it (R421, R422, R432). -/
theorem State.regSet_reached {s : State} {off : Nat} (h : s.d.reached = true) (hr : s.readable off = true) (f : Dev → Dev) :
    s.regSet off f = { s with d := f s.d } := by
  simp [State.regSet, State.barWrite_reached h, hr]

/-! ### Heads and messages that do not meet them -/

/-- Where no head can start, nothing does (R408). -/
theorem Dev.issue_none {d : Dev} {r k : Nat} {adopt : Bool} (h : d.head r = none) (f : Desc → Dev) : d.issue r k adopt f = d := by
  simp [Dev.issue, h]

/-- A halted ring has no head to start (R408). -/
theorem Dev.head_halted {d : Dev} {r : Nat} (h : (d.ring r).halted = true) : d.head r = none := by
  simp [Dev.head, h]

/-- A head that the module's state does not allow completes with ILLEGAL_STATE (R406, R407). -/
theorem Dev.issue_illegal {d : Dev} {r k : Nat} {adopt : Bool} {x : Desc} (h : d.head r = some x) (hk : kindOf x.bytes = k) (hf : x.fetch = 0)
    (he : (isColony r && (d.ring r).ended) = false) (hj : d.judge r x.bytes adopt = .illegal) (f : Desc → Dev) :
    d.issue r k adopt f = d.refuseHead r 1 := by
  simp only [Dev.issue, h, hk, hf, he, hj, ne_eq, not_true_eq_false, or_self, if_false, Bool.false_eq_true]

/-- A sequenced message that is out of order is not accepted: a duplicate makes the acknowledgement due, one ahead is dropped (R284). -/
theorem Dev.accepted_outOfOrder {d : Dev} {typ : Nat} {m : Rx} (ready : Bool) (h : d.arrived typ m = true) (hs : m.sequenced = true)
    (h3 : (d.peer m.src).state = 3) (hne : m.seq ≠ (d.peer m.src).rx.getD m.cls 0) :
    d.accepted typ m ready =
      (if ((d.peer m.src).rx.getD m.cls 0 + 2 ^ 32 - m.seq) % 2 ^ 32 < 2 ^ 31 then
        (d.takeMessage typ m).setPeer m.src fun x => { x with ackDue := true } else d.takeMessage typ m, false) := by
  have hp : (d.takeMessage typ m).peer m.src = d.peer m.src := rfl
  unfold Dev.accepted
  simp only [Dev.received_arrived h, hp, h3, hs, hne, ne_eq, not_true_eq_false, not_false_eq_true, if_true, or_self, if_false, Bool.not_true,
    Bool.false_eq_true, Bool.true_eq_false]

/-! ### Rings at rest -/

/-- With no descriptor fetched there is no head to complete: the planes stand as a command leaves them. -/
theorem Dev.settle_of_noHead {d : Dev} (h : d.noHead = true) : d.settle = d := by
  unfold Dev.settle
  have key : ∀ l : List Nat, (∀ r ∈ l, (d.ring r).queue = []) → l.foldl (fun d r => Dev.settleRing ((d.ring r).queue.length + 1) r d) d = d := by
    intro l
    induction l with
    | nil => intro _; rfl
    | cons r l ih =>
      intro h
      rw [List.foldl_cons, Dev.settleRing_of_empty (h r (by simp))]
      exact ih fun x hx => h x (by simp [hx])
  apply key
  intro r hr
  simp only [Dev.noHead, List.all_eq_true] at h
  simpa using h r hr

/-- Rings at their reset records hold no descriptor. -/
theorem Dev.noHead_of_rings {d : Dev} (h : d.rings = []) : d.noHead = true := by
  simp [Dev.noHead, Dev.ring, h, tget, ring0]

/-- Planes with the same rings hold the same descriptors. -/
theorem Dev.noHead_congr {d e : Dev} (h : d.rings = e.rings) : d.noHead = e.noHead := by
  simp [Dev.noHead, Dev.ring, h]

/-! ### Messages to peers change peers and ports alone (R284) -/

@[simp] theorem Dev.pump_ctl (p : Nat) : (d.pump p).ctl = d.ctl := rfl
@[simp] theorem Dev.pump_mem (p : Nat) : (d.pump p).mem = d.mem := rfl
@[simp] theorem Dev.pump_rings (p : Nat) : (d.pump p).rings = d.rings := rfl
@[simp] theorem Dev.pump_tiles (p : Nat) : (d.pump p).tiles = d.tiles := rfl
@[simp] theorem Dev.pump_acts (p : Nat) : (d.pump p).acts = d.acts := rfl
@[simp] theorem Dev.pump_mdies (p : Nat) : (d.pump p).mdies = d.mdies := rfl
@[simp] theorem Dev.pump_retired (p : Nat) : (d.pump p).retired = d.retired := rfl
@[simp] theorem Dev.pump_tableBad (p : Nat) : (d.pump p).tableBad = d.tableBad := rfl
@[simp] theorem Dev.pump_tableReads (p : Nat) : (d.pump p).tableReads = d.tableReads := rfl
@[simp] theorem Dev.pump_gauges (p : Nat) : (d.pump p).gauges = d.gauges := rfl
@[simp] theorem Dev.queueOn_ctl (p a : Nat) (m : Sent) : (d.queueOn p a m).ctl = d.ctl := rfl
@[simp] theorem Dev.queueOn_mem (p a : Nat) (m : Sent) : (d.queueOn p a m).mem = d.mem := rfl
@[simp] theorem Dev.queueOn_rings (p a : Nat) (m : Sent) : (d.queueOn p a m).rings = d.rings := rfl
@[simp] theorem Dev.queueOn_tiles (p a : Nat) (m : Sent) : (d.queueOn p a m).tiles = d.tiles := rfl
@[simp] theorem Dev.queueOn_acts (p a : Nat) (m : Sent) : (d.queueOn p a m).acts = d.acts := rfl
@[simp] theorem Dev.queueOn_mdies (p a : Nat) (m : Sent) : (d.queueOn p a m).mdies = d.mdies := rfl
@[simp] theorem Dev.queueOn_retired (p a : Nat) (m : Sent) : (d.queueOn p a m).retired = d.retired := rfl
@[simp] theorem Dev.queueOn_tableBad (p a : Nat) (m : Sent) : (d.queueOn p a m).tableBad = d.tableBad := rfl
@[simp] theorem Dev.queueOn_tableReads (p a : Nat) (m : Sent) : (d.queueOn p a m).tableReads = d.tableReads := rfl
@[simp] theorem Dev.queueOn_gauges (p a : Nat) (m : Sent) : (d.queueOn p a m).gauges = d.gauges := rfl

/-- What the sending of a message leaves: `g` is any part of the planes that peers and ports do not hold. -/
theorem Dev.send_keeps {β : Type} (g : Dev → β) (hp : ∀ d a f, g (Dev.setPeer d a f) = g d) (hq : ∀ d p a m, g (Dev.queueOn d p a m) = g d)
    (a cls typ step : Nat) (params : List Byte) (body : List PB) (uid : Option Nat) : g (d.send a cls typ step params body uid) = g d := by
  unfold Dev.send
  split
  · rfl
  · dsimp only
    split
    · rw [hq, hp]
    · rw [hp]

@[simp] theorem Dev.send_ctl (a cls typ step : Nat) (params : List Byte) (body : List PB) (uid : Option Nat) :
    (d.send a cls typ step params body uid).ctl = d.ctl := Dev.send_keeps d (·.ctl) (by simp) (by simp) a cls typ step params body uid
@[simp] theorem Dev.send_mem (a cls typ step : Nat) (params : List Byte) (body : List PB) (uid : Option Nat) :
    (d.send a cls typ step params body uid).mem = d.mem := Dev.send_keeps d (·.mem) (by simp) (by simp) a cls typ step params body uid
@[simp] theorem Dev.send_rings (a cls typ step : Nat) (params : List Byte) (body : List PB) (uid : Option Nat) :
    (d.send a cls typ step params body uid).rings = d.rings := Dev.send_keeps d (·.rings) (by simp) (by simp) a cls typ step params body uid
@[simp] theorem Dev.send_tiles (a cls typ step : Nat) (params : List Byte) (body : List PB) (uid : Option Nat) :
    (d.send a cls typ step params body uid).tiles = d.tiles := Dev.send_keeps d (·.tiles) (by simp) (by simp) a cls typ step params body uid
@[simp] theorem Dev.send_acts (a cls typ step : Nat) (params : List Byte) (body : List PB) (uid : Option Nat) :
    (d.send a cls typ step params body uid).acts = d.acts := Dev.send_keeps d (·.acts) (by simp) (by simp) a cls typ step params body uid
@[simp] theorem Dev.send_mdies (a cls typ step : Nat) (params : List Byte) (body : List PB) (uid : Option Nat) :
    (d.send a cls typ step params body uid).mdies = d.mdies := Dev.send_keeps d (·.mdies) (by simp) (by simp) a cls typ step params body uid
@[simp] theorem Dev.send_retired (a cls typ step : Nat) (params : List Byte) (body : List PB) (uid : Option Nat) :
    (d.send a cls typ step params body uid).retired = d.retired := Dev.send_keeps d (·.retired) (by simp) (by simp) a cls typ step params body uid
@[simp] theorem Dev.send_tableBad (a cls typ step : Nat) (params : List Byte) (body : List PB) (uid : Option Nat) :
    (d.send a cls typ step params body uid).tableBad = d.tableBad := Dev.send_keeps d (·.tableBad) (by simp) (by simp) a cls typ step params body uid
@[simp] theorem Dev.send_tableReads (a cls typ step : Nat) (params : List Byte) (body : List PB) (uid : Option Nat) :
    (d.send a cls typ step params body uid).tableReads = d.tableReads := Dev.send_keeps d (·.tableReads) (by simp) (by simp) a cls typ step params body uid
@[simp] theorem Dev.send_gauges (a cls typ step : Nat) (params : List Byte) (body : List PB) (uid : Option Nat) :
    (d.send a cls typ step params body uid).gauges = d.gauges := Dev.send_keeps d (·.gauges) (by simp) (by simp) a cls typ step params body uid

/-- STATE messages leave the control plane's record of the job. -/
@[simp] theorem Dev.sendState_ctl : d.sendState.ctl = d.ctl := foldl_keeps (·.ctl) _ (by simp) _ _

end Sys2Proof.Machine
end

