-- ==== Sys2Proof/Laws/Tab.lean ====
section
/-! SUPPORT. Laws/Tab.lean: reading a table after a change of it, and the rising order of its indexes. -/
namespace Sys2Proof.Machine
open Sys2Proof

variable {α : Type}

/-- Writing an index and reading it gives the record written. -/
@[simp] theorem tget_tset_self (z : α) (t : Tab α) (i : Nat) (a : α) : tget z (tset t i a) i = a := by
  induction t with
  | nil => simp [tset, tget]
  | cons x t ih =>
    obtain ⟨j, v⟩ := x
    simp only [tset]
    split
    · simp [tget]
    · split
      · simp [tget]
      · next h1 h2 => simp [tget, Ne.symm h2, ih]

/-- Writing an index leaves the record of every other index. -/
theorem tget_tset_ne (z : α) (t : Tab α) {i j : Nat} (a : α) (h : i ≠ j) : tget z (tset t i a) j = tget z t j := by
  induction t with
  | nil => simp [tset, tget, h]
  | cons x t ih =>
    obtain ⟨k, v⟩ := x
    simp only [tset]
    split
    · simp [tget, h]
    · split
      · next hk => subst hk; simp [tget, h]
      · simp [tget, ih]

/-- The record of an index after a change of one index. -/
@[simp] theorem tget_tmod (z : α) (t : Tab α) (i j : Nat) (f : α → α) :
    tget z (tmod z t i f) j = if i = j then f (tget z t i) else tget z t j := by
  unfold tmod
  split
  · next h => subst h; simp
  · next h => exact tget_tset_ne z t _ h

/-- A written index is listed; every other is listed as before. -/
@[simp] theorem thas_tset (t : Tab α) (i j : Nat) (a : α) : thas (tset t i a) j = (decide (i = j) || thas t j) := by
  induction t with
  | nil => simp [tset, thas]
  | cons x t ih =>
    obtain ⟨k, v⟩ := x
    simp only [tset]
    split
    · simp [thas]
    · split
      · next hk => subst hk; by_cases h : i = j <;> simp [thas, h]
      · simp only [thas, ih]; by_cases h : k = j <;> simp [h]

/-- In a rising table the first index lies below all others. -/
theorem tabOk_head_lt {i : Nat} {v : α} {t : Tab α} (h : tabOk ((i, v) :: t) = true) : ∀ x ∈ t, i < x.1 := by
  induction t generalizing i v with
  | nil => simp
  | cons y t ih =>
    obtain ⟨j, w⟩ := y
    simp only [tabOk, Bool.and_eq_true, decide_eq_true_eq] at h
    intro x hx
    rcases List.mem_cons.1 hx with rfl | hx
    · exact h.1
    · exact lt_trans h.1 (ih h.2 x hx)

/-- The rest of a rising table rises. -/
theorem tabOk_tail {x : Nat × α} {t : Tab α} (h : tabOk (x :: t) = true) : tabOk t = true := by
  cases t with
  | nil => rfl
  | cons y t => obtain ⟨i, v⟩ := x; obtain ⟨j, w⟩ := y; simp only [tabOk, Bool.and_eq_true] at h; exact h.2

/-- An index below every index of a rising table can stand in front of it. -/
theorem tabOk_cons {i : Nat} {v : α} {t : Tab α} (h : ∀ x ∈ t, i < x.1) (ht : tabOk t = true) : tabOk ((i, v) :: t) = true := by
  cases t with
  | nil => rfl
  | cons y t => obtain ⟨j, w⟩ := y; simp only [tabOk, Bool.and_eq_true, decide_eq_true_eq]; exact ⟨h (j, w) (by simp), ht⟩

/-- The entries after a write are the one written and entries that stood before. -/
theorem mem_tset {t : Tab α} {i : Nat} {a : α} {x : Nat × α} (h : x ∈ tset t i a) : x = (i, a) ∨ (x ∈ t ∧ x.1 ≠ i) ∨ x ∈ t := by
  induction t with
  | nil => simp [tset] at h; exact .inl h
  | cons y t ih =>
    obtain ⟨j, v⟩ := y
    simp only [tset] at h
    split at h
    · rcases List.mem_cons.1 h with h | h
      · exact .inl h
      · exact .inr (.inr h)
    · split at h
      · rcases List.mem_cons.1 h with h | h
        · exact .inl h
        · exact .inr (.inr (List.mem_cons_of_mem _ h))
      · rcases List.mem_cons.1 h with h | h
        · exact .inr (.inr (by simp [h]))
        · rcases ih h with h | h | h
          · exact .inl h
          · exact .inr (.inr (List.mem_cons_of_mem _ h.1))
          · exact .inr (.inr (List.mem_cons_of_mem _ h))

/-- A write keeps the rising order. -/
theorem tabOk_tset {t : Tab α} (i : Nat) (a : α) (h : tabOk t = true) : tabOk (tset t i a) = true := by
  induction t with
  | nil => rfl
  | cons y t ih =>
    obtain ⟨j, v⟩ := y
    simp only [tset]
    split
    · next hij =>
      refine tabOk_cons (fun x hx => ?_) h
      rcases List.mem_cons.1 hx with rfl | hx
      · exact hij
      · exact lt_trans hij (tabOk_head_lt h x hx)
    · split
      · next hij => subst hij; exact tabOk_cons (tabOk_head_lt h) (tabOk_tail h)
      · next h1 h2 =>
        refine tabOk_cons (fun x hx => ?_) (ih (tabOk_tail h))
        rcases mem_tset hx with rfl | hx | hx
        · simp only; omega
        · exact tabOk_head_lt h x hx.1
        · exact tabOk_head_lt h x hx

/-- The entries after a removal stood before it. -/
theorem mem_of_mem_tdel {t : Tab α} {i : Nat} {x : Nat × α} (h : x ∈ tdel t i) : x ∈ t := by
  induction t with
  | nil => simp [tdel] at h
  | cons y t ih =>
    obtain ⟨j, v⟩ := y
    simp only [tdel] at h
    split at h
    · exact List.mem_cons_of_mem _ h
    · rcases List.mem_cons.1 h with h | h
      · simp [h]
      · exact List.mem_cons_of_mem _ (ih h)

/-- A removal keeps the rising order. -/
theorem tabOk_tdel {t : Tab α} (i : Nat) (h : tabOk t = true) : tabOk (tdel t i) = true := by
  induction t with
  | nil => rfl
  | cons y t ih =>
    obtain ⟨j, v⟩ := y
    simp only [tdel]
    split
    · exact tabOk_tail h
    · exact tabOk_cons (fun x hx => tabOk_head_lt h x (mem_of_mem_tdel hx)) (ih (tabOk_tail h))

/-- An index below every listed one is not listed. -/
theorem thas_eq_false_of_lt {t : Tab α} {i : Nat} (h : ∀ x ∈ t, i < x.1) : thas t i = false := by
  induction t with
  | nil => rfl
  | cons y t ih =>
    obtain ⟨j, v⟩ := y
    have hj : i < j := h (j, v) (by simp)
    simp only [thas]
    rw [if_neg (by omega), ih (fun x hx => h x (List.mem_cons_of_mem _ hx))]

/-- What is not listed reads as the reset record. -/
theorem tget_of_thas_false (z : α) {t : Tab α} {i : Nat} (h : thas t i = false) : tget z t i = z := by
  induction t with
  | nil => rfl
  | cons y t ih =>
    obtain ⟨j, v⟩ := y
    simp only [thas] at h
    split at h
    · cases h
    · next hj => simp [tget, hj, ih h]

/-- In a rising table a removed index is no longer listed, and every other is listed as before. -/
theorem thas_tdel {t : Tab α} (i j : Nat) (h : tabOk t = true) : thas (tdel t i) j = (!decide (i = j) && thas t j) := by
  induction t with
  | nil => simp [tdel, thas]
  | cons y t ih =>
    obtain ⟨k, v⟩ := y
    simp only [tdel]
    split
    · next hk =>
      subst hk
      by_cases hj : k = j
      · subst hj; simp [thas_eq_false_of_lt (tabOk_head_lt h)]
      · simp [thas, hj]
    · next hk =>
      simp only [thas, ih (tabOk_tail h)]
      by_cases h1 : k = j
      · have : i ≠ j := fun e => hk (by omega)
        simp [h1, this]
      · simp [h1]

/-- A removal leaves the record of every other index. -/
theorem tget_tdel_ne (z : α) (t : Tab α) {i j : Nat} (h : i ≠ j) : tget z (tdel t i) j = tget z t j := by
  induction t with
  | nil => rfl
  | cons y t ih =>
    obtain ⟨k, v⟩ := y
    simp only [tdel]
    split
    · next hk => subst hk; simp [tget, h]
    · simp [tget, ih]

/-- In a rising table a removed index reads as the reset record. -/
theorem tget_tdel_self (z : α) {t : Tab α} (i : Nat) (h : tabOk t = true) : tget z (tdel t i) i = z :=
  tget_of_thas_false z (by simp [thas_tdel i i h])

/-- Leaving entries out keeps the rising order. -/
theorem tabOk_filter {t : Tab α} (p : Nat × α → Bool) (h : tabOk t = true) : tabOk (t.filter p) = true := by
  induction t with
  | nil => rfl
  | cons y t ih =>
    simp only [List.filter_cons]
    split
    · obtain ⟨i, v⟩ := y
      exact tabOk_cons (fun x hx => tabOk_head_lt h x (List.mem_filter.1 hx).1) (ih (tabOk_tail h))
    · exact ih (tabOk_tail h)

/-- A table lists the index of each of its entries. -/
theorem thas_of_mem {t : Tab α} {x : Nat × α} (h : x ∈ t) : thas t x.1 = true := by
  induction t with
  | nil => simp at h
  | cons y t ih =>
    obtain ⟨j, v⟩ := y
    rcases List.mem_cons.1 h with rfl | h
    · simp [thas]
    · simp [thas, ih h]

/-- A listed index is the index of an entry. -/
theorem exists_of_thas {t : Tab α} {i : Nat} (h : thas t i = true) : ∃ x ∈ t, x.1 = i := by
  induction t with
  | nil => simp [thas] at h
  | cons y t ih =>
    obtain ⟨j, v⟩ := y
    simp only [thas] at h
    split at h
    · next hj => exact ⟨(j, v), by simp, hj⟩
    · obtain ⟨x, hx, hi⟩ := ih h; exact ⟨x, List.mem_cons_of_mem _ hx, hi⟩

end Sys2Proof.Machine
end

