-- ==== Sys2Proof/Laws/Memory.lean ====
section
/-! SUPPORT. Laws/Memory.lean: memory after a write, byte by byte, and the canonical form that every memory operation keeps. -/
namespace Sys2Proof.Machine
open Sys2Proof

variable {m : Mem}

/-! ### One byte -/

/-- Memory lists its bytes and its failing parity in rising order. -/
def Mem.rising (m : Mem) : Prop := tabOk m.cells = true ∧ tabOk m.bad = true

theorem Mem.put_rising (h : m.rising) (k : Nat) (b : Byte) (f : Bool) : (m.put k b f).rising := by
  unfold Mem.put Mem.rising
  refine ⟨?_, ?_⟩
  · simp only; split
    · exact tabOk_tset k b h.1
    · exact tabOk_tdel k h.1
  · simp only; split
    · exact tabOk_tset k () h.2
    · exact tabOk_tdel k h.2

/-- Which bytes are listed after one byte is stored. -/
theorem Mem.put_listed (h : m.rising) (k j : Nat) (b : Byte) (f : Bool) :
    thas (m.put k b f).cells j = if j = k then decide (k < stackEnd ∨ b ≠ 0) else thas m.cells j := by
  unfold Mem.put
  simp only
  by_cases hb : k < stackEnd ∨ b ≠ 0
  · rw [if_pos hb, thas_tset]
    by_cases hj : j = k
    · rw [if_pos hj, decide_eq_true hb, hj]; simp
    · simp [hj, Ne.symm hj]
  · rw [if_neg hb, thas_tdel k j h.1]
    by_cases hj : j = k
    · rw [if_pos hj, decide_eq_false hb, hj]; simp
    · simp [hj, Ne.symm hj]

/-- A byte after one byte is stored. -/
theorem Mem.put_byte (h : m.rising) (k j : Nat) (b : Byte) (f : Bool) : (m.put k b f).byte j = if j = k then b else m.byte j := by
  have hl := Mem.put_listed h k j b f
  unfold Mem.byte
  rw [hl]
  by_cases hj : j = k
  · subst hj
    simp only [if_true]
    by_cases hb : j < stackEnd ∨ b ≠ 0
    · rw [if_neg (by rw [decide_eq_true hb]; simp)]
      simp only [Mem.put]
      rw [if_pos hb, tget_tset_self]
    · have h1 : ¬ j < stackEnd := fun h => hb (.inl h)
      have h2 : b = 0 := by by_contra h; exact hb (.inr h)
      rw [if_neg (by simp [h1])]
      simp only [Mem.put]
      rw [if_neg hb, tget_tdel_self 0 j h.1, h2]
  · simp only [hj, if_false]
    have hg : tget 0 (m.put k b f).cells j = tget 0 m.cells j := by
      unfold Mem.put; simp only; split
      · exact tget_tset_ne 0 _ _ (Ne.symm hj)
      · exact tget_tdel_ne 0 _ (Ne.symm hj)
    rw [hg]; rfl

/-- The parity of a byte after one byte is stored. -/
theorem Mem.put_fails (h : m.rising) (k j : Nat) (b : Byte) (f : Bool) : (m.put k b f).fails j = if j = k then f else m.fails j := by
  have hl := Mem.put_listed h k j b f
  have hbad : thas (m.put k b f).bad j = if j = k then f else thas m.bad j := by
    unfold Mem.put; simp only; cases f
    · rw [if_neg (by simp), thas_tdel k j h.2]
      by_cases hj : j = k
      · simp [hj]
      · simp [hj, Ne.symm hj]
    · rw [if_pos rfl, thas_tset]
      by_cases hj : j = k
      · simp [hj]
      · simp [hj, Ne.symm hj]
  unfold Mem.fails
  rw [hl, hbad]
  by_cases hj : j = k
  · subst hj
    simp only [if_true]
    rw [if_neg (by rintro ⟨h1, h2⟩; simp [h1] at h2)]
  · simp only [hj, if_false]; rfl

/-! ### A whole sector -/

/-- Stores the first `n` bytes of a sector. -/
def Mem.storeN (m : Mem) (b : Nat) (s : Sector) (n : Nat) : Mem :=
  (List.range n).foldl (fun m i => m.put (b + i) (s.data.getD i 0) (s.fails.testBit i)) m

theorem Mem.storeN_succ (m : Mem) (b : Nat) (s : Sector) (n : Nat) :
    m.storeN b s (n + 1) = (m.storeN b s n).put (b + n) (s.data.getD n 0) (s.fails.testBit n) := by
  simp [Mem.storeN, List.range_succ]

theorem Mem.store_eq (m : Mem) (b : Nat) (s : Sector) : m.store b s = m.storeN b s 64 := rfl

theorem Mem.storeN_rising (h : m.rising) (b : Nat) (s : Sector) (n : Nat) : (m.storeN b s n).rising := by
  induction n with
  | zero => exact h
  | succ n ih => rw [Mem.storeN_succ]; exact Mem.put_rising ih _ _ _

theorem Mem.storeN_byte (h : m.rising) (b : Nat) (s : Sector) (n k : Nat) :
    (m.storeN b s n).byte k = if b ≤ k ∧ k < b + n then s.data.getD (k - b) 0 else m.byte k := by
  induction n with
  | zero => rw [if_neg (by omega)]; rfl
  | succ n ih =>
    rw [Mem.storeN_succ, Mem.put_byte (Mem.storeN_rising h b s n), ih]
    by_cases hk : k = b + n
    · subst hk; rw [if_pos rfl, if_pos (by omega)]; simp
    · rw [if_neg hk]; by_cases h1 : b ≤ k ∧ k < b + n
      · rw [if_pos h1, if_pos (by omega)]
      · rw [if_neg h1, if_neg (by omega)]

theorem Mem.storeN_fails (h : m.rising) (b : Nat) (s : Sector) (n k : Nat) :
    (m.storeN b s n).fails k = if b ≤ k ∧ k < b + n then s.fails.testBit (k - b) else m.fails k := by
  induction n with
  | zero => rw [if_neg (by omega)]; rfl
  | succ n ih =>
    rw [Mem.storeN_succ, Mem.put_fails (Mem.storeN_rising h b s n), ih]
    by_cases hk : k = b + n
    · subst hk; rw [if_pos rfl, if_pos (by omega)]; simp
    · rw [if_neg hk]; by_cases h1 : b ≤ k ∧ k < b + n
      · rw [if_pos h1, if_pos (by omega)]
      · rw [if_neg h1, if_neg (by omega)]

/-- Bytes of a stack that are listed after a write: those listed before and those written. -/
theorem Mem.storeN_listed (h : m.rising) (b : Nat) (s : Sector) (n k : Nat) (hk : k < stackEnd) :
    thas (m.storeN b s n).cells k = (decide (b ≤ k ∧ k < b + n) || thas m.cells k) := by
  induction n with
  | zero => simp [Mem.storeN]
  | succ n ih =>
    rw [Mem.storeN_succ, Mem.put_listed (Mem.storeN_rising h b s n), ih]
    by_cases h1 : k = b + n
    · subst h1; simp [hk]
    · rw [if_neg h1]; congr 1; apply decide_eq_decide.2; omega

/-! ### The canonical form -/

theorem Mem.wf_rising (h : m.wf = true) : m.rising := by
  simp only [Mem.wf, Bool.and_eq_true] at h; exact ⟨h.1.1.1.1, h.1.1.1.2⟩

/-- The canonical form in words. -/
theorem Mem.wf_iff : m.wf = true ↔
    m.rising ∧ (∀ c ∈ m.cells, c.1 < stackEnd ∨ c.2 ≠ 0) ∧
    (∀ c ∈ m.cells, c.1 < stackEnd → ∀ i < 64, thas m.cells (c.1 / 64 * 64 + i) = true) ∧
    (∀ c ∈ m.bad, c.1 < stackEnd → thas m.cells c.1 = true) := by
  simp only [Mem.wf, Mem.rising, Bool.and_eq_true, List.all_eq_true, Bool.or_eq_true, decide_eq_true_eq, bne_iff_ne, Bool.not_eq_true',
    decide_eq_false_iff_not, List.mem_range]
  constructor
  · rintro ⟨⟨⟨⟨a, b⟩, c⟩, d⟩, e⟩
    exact ⟨⟨a, b⟩, c, fun x hx h => (d x hx).resolve_left (by simpa using h), fun x hx h => (e x hx).resolve_left (by simpa using h)⟩
  · rintro ⟨⟨a, b⟩, c, d, e⟩
    refine ⟨⟨⟨⟨a, b⟩, c⟩, fun x hx => ?_⟩, fun x hx => ?_⟩
    · by_cases h : x.1 < stackEnd
      · exact .inr (d x hx h)
      · exact .inl h
    · by_cases h : x.1 < stackEnd
      · exact .inr (e x hx h)
      · exact .inl h

/-- Entries after one byte is stored: the byte stored, or entries that stood before. -/
theorem Mem.mem_put_cells {k : Nat} {b : Byte} {f : Bool} {x : Host.Cell} (h : x ∈ (m.put k b f).cells) :
    (x = (k, b) ∧ (k < stackEnd ∨ b ≠ 0)) ∨ x ∈ m.cells := by
  unfold Mem.put at h
  simp only at h
  split at h
  · next hb =>
    rcases mem_tset h with h | h | h
    · exact .inl ⟨h, hb⟩
    · exact .inr h.1
    · exact .inr h
  · exact .inr (mem_of_mem_tdel h)

theorem Mem.mem_put_bad {k : Nat} {b : Byte} {f : Bool} {x : Nat × Unit} (h : x ∈ (m.put k b f).bad) : x.1 = k ∨ x ∈ m.bad := by
  unfold Mem.put at h
  simp only at h
  split at h
  · rcases mem_tset h with h | h | h
    · exact .inl (by rw [h])
    · exact .inr h.1
    · exact .inr h
  · exact .inr (mem_of_mem_tdel h)

theorem Mem.mem_storeN_cells {b : Nat} {s : Sector} {n : Nat} {x : Host.Cell} (h : x ∈ (m.storeN b s n).cells) :
    (b ≤ x.1 ∧ x.1 < b + n ∧ (x.1 < stackEnd ∨ x.2 ≠ 0)) ∨ x ∈ m.cells := by
  induction n with
  | zero => exact .inr h
  | succ n ih =>
    rw [Mem.storeN_succ] at h
    rcases Mem.mem_put_cells h with ⟨h1, h2⟩ | h
    · subst h1; exact .inl ⟨by simp, by simp, h2⟩
    · rcases ih h with h | h
      · exact .inl ⟨h.1, by omega, h.2.2⟩
      · exact .inr h

theorem Mem.mem_storeN_bad {b : Nat} {s : Sector} {n : Nat} {x : Nat × Unit} (h : x ∈ (m.storeN b s n).bad) :
    (b ≤ x.1 ∧ x.1 < b + n) ∨ x ∈ m.bad := by
  induction n with
  | zero => exact .inr h
  | succ n ih =>
    rw [Mem.storeN_succ] at h
    rcases Mem.mem_put_bad h with h | h
    · exact .inl ⟨by omega, by omega⟩
    · rcases ih h with h | h
      · exact .inl ⟨h.1, by omega⟩
      · exact .inr h

/-- Storing a whole aligned sector keeps the canonical form. -/
theorem Mem.store_wf (h : m.wf = true) (b : Nat) (s : Sector) (hb : b % 64 = 0) : (m.store b s).wf = true := by
  have hr := Mem.wf_rising h
  rw [Mem.wf_iff] at h ⊢
  obtain ⟨-, h2, h3, h4⟩ := h
  rw [Mem.store_eq]
  refine ⟨Mem.storeN_rising hr b s 64, fun c hc => ?_, fun c hc hs i hi => ?_, fun c hc hs => ?_⟩
  · rcases Mem.mem_storeN_cells hc with h | h
    · exact h.2.2
    · exact h2 c h
  · have hlt : c.1 / 64 * 64 + i < stackEnd := by unfold stackEnd at *; omega
    rw [Mem.storeN_listed hr b s 64 _ hlt]
    rcases Mem.mem_storeN_cells hc with h | h
    · simp only [Bool.or_eq_true, decide_eq_true_eq]; left; omega
    · simp [h3 c h hs i hi]
  · rw [Mem.storeN_listed hr b s 64 _ hs]
    rcases Mem.mem_storeN_bad hc with h | h
    · simp [h]
    · simp [h4 c h hs]

/-- Clearing a range of SRAM keeps the canonical form. -/
theorem Mem.drop_wf (h : m.wf = true) (p : Nat → Bool) (hp : ∀ k, k < stackEnd → p k = true) :
    (Mem.wf { m with cells := m.cells.filter fun c => p c.1, bad := m.bad.filter fun c => p c.1 }) = true := by
  have hr := Mem.wf_rising h
  rw [Mem.wf_iff] at h ⊢
  obtain ⟨-, h2, h3, h4⟩ := h
  have keep : ∀ k, k < stackEnd → thas m.cells k = true → thas (m.cells.filter fun c => p c.1) k = true := by
    intro k hk ht
    obtain ⟨x, hx, rfl⟩ := exists_of_thas ht
    exact thas_of_mem (List.mem_filter.2 ⟨hx, hp x.1 hk⟩)
  refine ⟨⟨tabOk_filter _ hr.1, tabOk_filter _ hr.2⟩, fun c hc => h2 c (List.mem_filter.1 hc).1, fun c hc hs i hi => ?_, fun c hc hs => ?_⟩
  · exact keep _ (by unfold stackEnd at *; omega) (h3 c (List.mem_filter.1 hc).1 hs i hi)
  · exact keep _ hs (h4 c (List.mem_filter.1 hc).1 hs)

/-- The SRAM fill keeps the canonical form (R240). -/
theorem Mem.fillSram_wf (h : m.wf = true) : m.fillSram.wf = true :=
  Mem.drop_wf h (fun k => decide (k < stackEnd)) (by simp)

/-- The memory of the state after reset is canonical. -/
theorem State.reset_mem_wf : State.reset.d.mem.wf = true := by decide

/-- Memory that has lost its contents is canonical (R241). -/
theorem Dev.cold_mem_wf (d : Dev) : d.cold.mem.wf = true := by simp [Dev.cold, Mem.wf, tabOk]

/-! ### The operations of the memory path -/

@[simp] theorem Dev.dropEntry_mem (d : Dev) (b : Nat) : (d.dropEntry b).mem = d.mem := by
  unfold Dev.dropEntry; split
  · split <;> rfl
  · rfl

/-! A cache line, a count and an event touch no byte of memory. -/

@[simp] theorem Dev.touch_mem (d : Dev) (b : Nat) (w : Bool) : (d.touch b w).mem = d.mem := by
  unfold Dev.touch; split
  · simp only; split <;> rfl
  · rfl
@[simp] theorem Dev.countParity_mem (d : Dev) (b a f : Nat) : (d.countParity b a f).mem = d.mem := by
  unfold Dev.countParity; split <;> rfl
@[simp] theorem Dev.countPoison_mem (d : Dev) (b : Nat) : (d.countPoison b).mem = d.mem := by
  unfold Dev.countPoison; split <;> rfl
@[simp] theorem Dev.sramEvent_mem (d : Dev) (u f a : Nat) : (d.sramEvent u f a).mem = d.mem := by simp [Dev.sramEvent]

/-- A write of a whole sector stores it. -/
theorem Dev.writeFull_mem (d : Dev) (b : Nat) (data : List Byte) (poison : Bool) :
    (d.writeFull b data poison).mem = d.mem.store b ⟨data, if poison then allFail else 0⟩ := by
  simp [Dev.writeFull]

/-- A parity event stores the sector poisoned (R228). -/
theorem Dev.parityEvent_mem (d : Dev) (a b f : Nat) (s : Sector) : (d.parityEvent a b f s).mem = d.mem.store b ⟨s.data, allFail⟩ := by
  unfold Dev.parityEvent
  simp only
  split <;> simp

/-- A merge stores the sector once or twice (R238). -/
theorem Dev.mergeStore_mem_wf (d : Dev) (a b : Nat) (e : MEntry) (hb : b % 64 = 0) (h : d.mem.wf = true) : (d.mergeStore a b e).mem.wf = true := by
  have h2 : ∀ s, (d.mem.store b s).wf = true := fun s => Mem.store_wf h b s hb
  have h3 : ∀ s s', ((d.mem.store b s).store b s').wf = true := fun s s' => Mem.store_wf (h2 s) b s' hb
  unfold Dev.mergeStore
  simp only
  split
  · simpa using h2 _
  · split <;> (try simp only [Dev.setMdie_mem]) <;> split <;> simp [h2, h3, Dev.parityEvent_mem]

/-- A write of a whole sector keeps the canonical form (R227). -/
theorem Dev.writeFull_mem_wf (d : Dev) (b : Nat) (data : List Byte) (poison : Bool) (hb : b % 64 = 0) (h : d.mem.wf = true) :
    (d.writeFull b data poison).mem.wf = true := by
  rw [Dev.writeFull_mem]; exact Mem.store_wf h b _ hb

/-- A merge entry whose parity fails leaves its sector poisoned, the form canonical (R228). -/
theorem Dev.badEntry_mem_wf (d : Dev) (e : MEntry) (hb : e.sector % 64 = 0) (h : d.mem.wf = true) : (d.badEntry e).mem.wf = true := by
  unfold Dev.badEntry
  simp only
  split <;> exact Dev.writeFull_mem_wf _ _ _ _ hb (by simpa using h)

/-- A read keeps the canonical form, the merge buffers holding whole sectors (R228). -/
theorem Dev.readKey_mem_wf (d : Dev) (a b : Nat) (hb : b % 64 = 0) (h : d.mem.wf = true)
    (hm : ∀ m, ∀ e ∈ (d.mdie m).merge, e.sector % 64 = 0) : (d.readKey a b).2.mem.wf = true := by
  have hs : ∀ s', (d.mem.store b s').wf = true := fun s' => Mem.store_wf h b s' hb
  unfold Dev.readKey
  simp only
  split
  · next e he =>
    have : ∃ m, e ∈ (d.mdie m).merge := by
      rw [Option.filter_eq_some_iff] at he
      have h1 := he.1
      unfold Dev.mergeEntry at h1
      split at h1
      · next m _ => exact ⟨m, List.mem_of_find?_eq_some h1⟩
      · simp at h1
    obtain ⟨m, hmem⟩ := this
    simpa using Dev.badEntry_mem_wf d e (hm m e hmem) h
  · split
    · simpa using h
    · by_cases h1 : popcount64 (d.mem.sector b).fails = 64 <;> simp [h1, h, hs, Dev.parityEvent_mem]

/-- Writing back an entry of a merge buffer keeps the canonical form (R237). -/
theorem Dev.flushEntry_mem_wf (d : Dev) (m : Nat) (e : MEntry) (hb : e.sector % 64 = 0) (h : d.mem.wf = true) : (d.flushEntry m e).mem.wf = true := by
  unfold Dev.flushEntry
  simp only
  split
  · exact Dev.badEntry_mem_wf _ _ hb (by simpa using h)
  · split
    · exact Mem.store_wf h _ _ hb
    · exact Dev.mergeStore_mem_wf _ _ _ _ hb h

/-- A partial write keeps the canonical form, the merge buffers holding whole sectors (R235 to R237). -/
theorem Dev.writePart_mem_wf (d : Dev) (a b o : Nat) (bs : List Byte) (hb : b % 64 = 0) (h : d.mem.wf = true)
    (hm : ∀ m, ∀ e ∈ (d.mdie m).merge, e.sector % 64 = 0) : (d.writePart a b o bs).mem.wf = true := by
  unfold Dev.writePart
  simp only
  split
  · exact Dev.mergeStore_mem_wf d a b _ hb h
  · next m _ =>
    split
    · split
      · exact Dev.flushEntry_mem_wf _ _ _ hb h
      · exact h
    · simp only [Dev.setMdie_mem]
      split
      · next old rest hr =>
        split
        · exact Dev.flushEntry_mem_wf d m old (hm m old (by rw [hr]; simp)) h
        · exact h
      · exact h

/-! ### The canonical form -/

theorem Mem.canonical_iff : m.canonical = true ↔ m.rising ∧ ∀ c ∈ m.cells, c.1 < stackEnd ∨ c.2 ≠ 0 := by
  simp [Mem.canonical, Mem.rising, Bool.and_eq_true, and_assoc]

/-- Memory whose sectors are listed whole is in canonical form. -/
theorem Mem.wf_canonical (h : m.wf = true) : m.canonical = true := by
  simp only [Mem.wf, Bool.and_eq_true] at h
  obtain ⟨⟨⟨⟨h1, h2⟩, h3⟩, -⟩, -⟩ := h
  simp only [Mem.canonical, h1, h2, h3, Bool.and_self]

/-- Storing a byte keeps the canonical form. -/
theorem Mem.put_canonical (h : m.canonical = true) (k : Nat) (b : Byte) (f : Bool) : (m.put k b f).canonical = true := by
  rw [Mem.canonical_iff] at h ⊢
  refine ⟨Mem.put_rising h.1 k b f, fun c hc => ?_⟩
  unfold Mem.put at hc
  simp only at hc
  split at hc
  · next hk =>
    rcases mem_tset hc with rfl | hc | hc
    · exact hk
    · exact h.2 c hc.1
    · exact h.2 c hc
  · exact h.2 c (mem_of_mem_tdel hc)

/-- Storing a sector keeps the canonical form. -/
theorem Mem.store_canonical (h : m.canonical = true) (b : Nat) (s : Sector) : (m.store b s).canonical = true := by
  unfold Mem.store
  generalize List.range 64 = l
  induction l generalizing m with
  | nil => exact h
  | cons i l ih => exact ih (Mem.put_canonical h _ _ _)

/-- Dropping bytes keeps the canonical form. -/
theorem Mem.filter_canonical (h : m.canonical = true) (p : Nat → Bool) :
    (Mem.canonical { m with cells := m.cells.filter fun c => p c.1, bad := m.bad.filter fun c => p c.1 }) = true := by
  rw [Mem.canonical_iff] at h ⊢
  exact ⟨⟨tabOk_filter _ h.1.1, tabOk_filter _ h.1.2⟩, fun c hc => h.2 c (List.mem_filter.1 hc).1⟩

end Sys2Proof.Machine
end

