-- ==== Sys2Proof/Laws/Power.lean ====
section
/-! SUPPORT. Laws/Power.lean: writes that reach the registers beyond the planes, changes of all units at once, and the planes without
power. -/
namespace Sys2Proof.Machine
open Sys2Proof

variable (d : Dev)

/-- A write of the driver that does not reach the registers changes the host port alone (R421, R422, R428). -/
theorem State.barWrite_unreached {s : State} (h : s.d.reached = false) (off : Nat) (t : Tlp) (b : Bool) (f : State → State) :
    (s.barWrite off t b f).pwr = s.pwr ∧ (s.barWrite off t b f).sec = s.sec ∧ (s.barWrite off t b f).d.ctl = s.d.ctl ∧
      (s.barWrite off t b f).d.mem = s.d.mem := by
  simp only [Dev.reached, Bool.and_eq_false_imp] at h
  cases hl : s.d.host.linkUp with
  | false => simp [State.barWrite, hl]
  | true =>
    unfold State.barWrite
    rw [hl]
    cases dropError t with
    | some e => simp
    | none => simp [h hl, Dev.unsupported]

/-! ### All units at once -/

/-- A change of every M-die changes each of the eight. -/
theorem Dev.mdie_allMdies (f : MDie → MDie) {m : Nat} (h : m < 8) : (d.allMdies f).mdie m = f (d.mdie m) := by
  unfold Dev.allMdies
  have key : ∀ n, ((List.range n).foldl (fun d m => d.setMdie m f) d).mdie m = if m < n then f (d.mdie m) else d.mdie m := by
    intro n
    induction n with
    | zero => simp
    | succ n ih =>
      rw [List.range_succ, List.foldl_append]
      simp only [List.foldl_cons, List.foldl_nil, Dev.mdie, Dev.setMdie] at ih ⊢
      rw [tget_tmod]
      by_cases hn : n = m
      · subst hn; simp [ih]
      · simp only [hn, if_false, ih]
        by_cases hm : m < n
        · simp [hm, Nat.lt_succ_of_lt hm]
        · simp [hm, show ¬ m < n + 1 by omega]
  rw [key, if_pos h]

@[simp] theorem Dev.allMdies_mem (f : MDie → MDie) : (d.allMdies f).mem = d.mem := foldl_keeps (·.mem) _ (by simp) _ _
@[simp] theorem Dev.allMdies_ctl (f : MDie → MDie) : (d.allMdies f).ctl = d.ctl := foldl_keeps (·.ctl) _ (by simp) _ _
@[simp] theorem Dev.allMdies_tiles (f : MDie → MDie) : (d.allMdies f).tiles = d.tiles := foldl_keeps (·.tiles) _ (by simp) _ _
@[simp] theorem Dev.allMdies_rings (f : MDie → MDie) : (d.allMdies f).rings = d.rings := foldl_keeps (·.rings) _ (by simp) _ _
@[simp] theorem Dev.allMdies_retired (f : MDie → MDie) : (d.allMdies f).retired = d.retired := foldl_keeps (·.retired) _ (by simp) _ _
@[simp] theorem Dev.allMdies_tableBad (f : MDie → MDie) : (d.allMdies f).tableBad = d.tableBad := foldl_keeps (·.tableBad) _ (by simp) _ _
@[simp] theorem Dev.allMdies_tableReads (f : MDie → MDie) : (d.allMdies f).tableReads = d.tableReads := foldl_keeps (·.tableReads) _ (by simp) _ _
@[simp] theorem Dev.allMdies_gauges (f : MDie → MDie) : (d.allMdies f).gauges = d.gauges := foldl_keeps (·.gauges) _ (by simp) _ _
@[simp] theorem Dev.allPorts_mem (f : Nat → Port → Port) : (d.allPorts f).mem = d.mem := foldl_keeps (·.mem) _ (by simp) _ _
@[simp] theorem Dev.allPorts_ctl (f : Nat → Port → Port) : (d.allPorts f).ctl = d.ctl := foldl_keeps (·.ctl) _ (by simp) _ _
@[simp] theorem Dev.allPorts_tiles (f : Nat → Port → Port) : (d.allPorts f).tiles = d.tiles := foldl_keeps (·.tiles) _ (by simp) _ _
@[simp] theorem Dev.allPorts_rings (f : Nat → Port → Port) : (d.allPorts f).rings = d.rings := foldl_keeps (·.rings) _ (by simp) _ _

/-! ### Without power -/

/-- The planes without power hold no descriptor. -/
theorem Dev.cold_noHead : d.cold.noHead = true := Dev.noHead_of_rings rfl

end Sys2Proof.Machine
end

