-- ==== Sys2Proof/WellFormed.lean ====
section
/-! DEFINITION. WellFormed.lean: what a command must meet to be one that the module's interfaces can carry: unit numbers inside
their ranges, fields inside their widths, byte strings of the length the interface gives them. -/
namespace Sys2Proof

/-- A ring number (R388). -/
def ringOk (r : Nat) : Bool := decide (r ≤ 10)

/-- A logical tile (R18, R371). -/
def tileOk (t : Nat) : Bool := decide (t < 96)

/-- A physical tile (R18). -/
def physOk (p : Nat) : Bool := decide (p < 104)

/-- An M-die (R16). -/
def mdieOk (m : Nat) : Bool := decide (m < 8)

/-- A fabric port (R273). -/
def portOk (p : Nat) : Bool := decide (p < 32)

/-- A fabric address (R287). -/
def addrOk (a : Nat) : Bool := decide (a < 4096)

/-- A value of `n` bits. -/
def bitsOk (n v : Nat) : Bool := decide (v < 2 ^ n)

/-- A management path: a peer's is its fabric address (R477, R480). -/
def Path.wf : Path → Bool
  | .peer a => addrOk a
  | _ => true

/-- A message as a port can deliver it (R284): addresses of 12 bits, a class of 0 to 7, 32 bytes of params, at most 1 MiB of body. -/
def Rx.wf (m : Rx) : Bool :=
  portOk m.port && addrOk m.dst && addrOk m.src && decide (m.cls < 8) && bitsOk 32 m.seq && bitsOk 64 m.step &&
    decide (m.params.length = 32) && decide (m.body.length ≤ 1048576)

/-- What link training can find (R289): a lane mask of eight lanes, a partner that allows x2, x4 or x8, and at most seven choices. -/
def Trained.wf (t : Trained) : Bool :=
  (t.partnerMax == 2 || t.partnerMax == 4 || t.partnerMax == 8) && decide (t.fails < 7) && bitsOk 8 t.locked && addrOk t.addr && bitsOk 64 t.id

/-- A parity checker that exists (R250): the tables are the five of R226. -/
def Checker.wf : Checker → Bool
  | .stack m p => mdieOk m && decide (p < 64)
  | .slice m | .merge m => mdieOk m
  | .scratchpad p => physOk p
  | .table i => decide (i < 5)

/-- How a request reaches the registers: a memory request has at least one DW. -/
def Request.wf : Request → Bool
  | .bar0 n _ => decide (1 ≤ n) && decide (n ≤ 1024)
  | _ => true

/-- What configuration space can hold (R413, R415): a BAR2 of 1 GiB to 1 TiB, three 64-bit bases, the four bits of the timeout range, and
32 severities. -/
def HostConfig.wf (c : HostConfig) : Bool :=
  decide (30 ≤ c.bar2Log2) && decide (c.bar2Log2 ≤ 40) && decide (c.bars.length = 3) && c.bars.all (bitsOk 64) && bitsOk 4 c.timeoutRange &&
    bitsOk 32 c.severity

/-- The swatch names units that exist, and three findings of each checker, one for each pattern (R250, R463). -/
def SwatchResult.wf (r : SwatchResult) : Bool :=
  r.tiles.all physOk && r.nmes.all mdieOk && r.hbm.all (fun s => mdieOk s.1 && decide (s.2 < 64)) && r.slices.all mdieOk &&
    r.merges.all mdieOk && r.ports.all portOk && r.checkers.all fun c => c.1.wf && decide (c.2.length = 3)

/-- An upset of SRAM that can happen (R226): a sector of a table that exists, or a whole sector, and a mask of 64 bytes. -/
def Strike.wf : Strike → Bool
  | .table k i m => decide (k < 6) && decide (i < 65536) && bitsOk 64 m
  | .merge s m => s % 64 == 0 && bitsOk 64 m
  | .stored k m => k % 64 == 0 && decide (0xA000000000 ≤ k) && bitsOk 64 m

/-- Well-formed commands. -/
def Instr.wf : Instr → Bool
  | .powerOn a b | .tripRelease a b => bitsOk 16 a && bitsOk 16 b
  | .swatchEnd r => r.wf
  | .mainInRange v | .mainLost v | .auxLost v | .auxReturned v | .bothInputsLost v => bitsOk 16 v
  | .inputOverVoltage _ v | .inputOutsideInRangeBand _ v => bitsOk 16 v
  | .thermalTrip s => bitsOk 16 s
  | .pllLockLoss die => decide (die < 14)
  | .capLoopTick a b => bitsOk 16 a && bitsOk 16 b
  | .thermalTick ts => decide (ts.length = 22)
  | .sensorSample rs => decide (rs.length = 36)
  | .bar0RsRead _ off r => bitsOk 26 off && r.wf
  | .registerWrite off val be r => bitsOk 26 off && bitsOk 32 val && bitsOk 4 be && r.wf
  | .irqUnmask src => decide (src < 29)
  | .doorbell r val be _ => ringOk r && bitsOk 32 val && bitsOk 4 be
  | .ringEnable r val | .ringDisable r val | .ringHeadWrite r val => ringOk r && bitsOk 32 val
  | .ringResume r | .gemm r | .stream r | .cast r | .gather r | .scatter r | .routedScatter r | .reduce r | .fill r | .copy r
  | .fenceBarrier r | .txnEnd r | .mark r | .wait r | .signal r => ringOk r
  | .descriptorFetch r bs _ => ringOk r && decide (bs.length = 64)
  | .segmentFill t _ | .outputTilePost t | .queueEntryDrain t | .ladderMove t => tileOk t
  | .checkComputation p f | .checkRepeat p f | .thirdComputation p f => physOk p && bitsOk 128 f
  | .routePlacement x => bitsOk 16 x
  | .nmeGroupUpdate m => mdieOk m
  | .confirmationRead m _ | .rowRepair m => mdieOk m
  | .scrubRead m up st => mdieOk m && bitsOk 64 up && st.all Strike.wf
  | .mergeEntryIdle m k => mdieOk m && k % 64 == 0
  | .bar2Read _ a n _ => bitsOk 40 a && decide (1 ≤ n) && decide (n ≤ 4096)
  | .bar2Write a bs _ => bitsOk 40 a && decide (bs.length ≤ 4096)
  | .frameReceive p bs => portOk p && decide (bs.length = 2048)
  | .nakRepeatTimer p | .replayTimeout p | .widthRequestTimeout p | .portRetrain p => portOk p
  | .trainingRetryTimer p t => portOk p && t.all Trained.wf
  | .widthRequest p w g q | .widthAccept p w g q => portOk p && (w == 2 || w == 4 || w == 8) && decide (g < 4) && bitsOk 32 q
  | .portLinkDown p c => portOk p && bitsOk 8 c
  | .linkUp p t => portOk p && t.wf
  | .ackSend a | .peerSilenceTimeout a | .probeTimeout a | .gatherReply a => addrOk a
  | .ackTimeout a c => addrOk a && decide (c < 8)
  | .ack m | .probe m | .hello m | .welcome m | .refuse m | .leave m | .state m | .retraction m | .rsum m | .result m
  | .rerunReq m | .rerun m | .gatherReq m | .gatherData m | .scatterData m | .shardRefuse m | .permuteData m | .permuteDone m
  | .routeCount m | .routePlace m | .routeData m | .clean m | .committing m | .stepAbortMsg m | .retractDone m | .llBegin m
  | .llData m | .llEnd m | .llFetch m | .llNone m | .mgmtMctp m => m.wf
  | .moduleReadCompletion _ bs _ => decide (bs.length ≤ 4096)
  | .mbxSend val => bitsOk 32 val
  | .entdaa a => bitsOk 7 a
  | .setEndpointId p op e => p.wf && decide (op < 4) && bitsOk 8 e
  | .getMctpVersionSupport p t | .getPldmVersion p t | .getPldmCommands p t | .setTid p t => p.wf && bitsOk 8 t
  | .getPdr p h => p.wf && bitsOk 32 h
  | .getSensorReading p n | .getStateSensorReadings p n | .getNumericEffecterValue p n => p.wf && bitsOk 16 n
  | .setNumericEffecterValue p n v => p.wf && bitsOk 16 n && bitsOk 32 v
  | .setEventReceiver p _ e => p.wf && bitsOk 8 e
  | .requestUpdate p n _ | .updateComponent p _ n => p.wf && bitsOk 32 n
  | .keyRecord p bs | .debugToken p bs => p.wf && decide (bs.length = 29920)
  | .debugRelock (some p) => p.wf
  | .spdmGetCertificate p s o n => p.wf && decide (s < 16) && bitsOk 16 o && bitsOk 16 n
  | .spdmEndSession p q | .spdmHeartbeat p q | .spdmVendorDefinedRequest p q _ => p.wf && bitsOk 32 q
  | .spdmKeyUpdate p q op t => p.wf && bitsOk 32 q && bitsOk 8 op && bitsOk 8 t
  | .spdmChunkGet p h q => p.wf && bitsOk 8 h && bitsOk 16 q
  | .spdmRespondIfReady p c t => p.wf && bitsOk 8 c && bitsOk 8 t
  | .doeDiscovery i => bitsOk 8 i
  | .getEndpointId p | .getEndpointUuid p | .getMessageTypeSupport p | .getTid p | .getPldmTypes p | .getPdrRepositoryInfo p
  | .queryDeviceIdentifiers p | .getFirmwareParameters p | .passComponentTable p _ _ | .requestFirmwareData p _ | .transferComplete p
  | .verifyComplete p | .applyComplete p | .activateFirmware p _ | .getStatus p | .cancelUpdateComponent p | .cancelUpdate p
  | .debugChallenge p | .peerAttest p _ | .readFlashRecords p | .spdmGetVersion p | .spdmGetCapabilities p _
  | .spdmNegotiateAlgorithms p _ | .spdmGetDigests p | .spdmChallenge p _ | .spdmGetMeasurements p _ | .spdmKeyExchange p _
  | .spdmFinish p _ | .spdmChunkSend p _ => p.wf
  | .hostLinkUp speed width => decide (1 ≤ speed) && decide (speed ≤ 6) && (width == 16 || width == 8 || width == 1)
  | .busMasterEnable _ c => c.wf
  | .conventionalReset | .flr | .d3hotEntry | .d0Return | .hostLinkDown _ | .mainQualified | .holdEntry | .forceOff
  | .presenceBreak | .forceAux | .forceReturn | .healthTick | .patternLoad | .permuteMove | .permuteActivate | .permuteAdopt
  | .fenceMoult | .fencePark | .txnBegin | .cleanSend | .commit | .lifelineDrainEnd _ | .mirrorRecordCopy | .fencePeerWaitExpiry
  | .stepAbortSend | .strandedRejoin | .lifelineRestore | .lifelineHostDrain | .granuleRetirement | .helloTimer
  | .completionTimeout _ | .mbxAck | .debugRelock none => true

end Sys2Proof
end

