-- ==== Sys2Proof/Tests/Slice0.lean ====
section
/-! SUPPORT. Slice0.lean: for each check of WellFormed.lean a term that it refuses, and for each statement of Obligations.lean states and
operands that meet its hypotheses. Expected values come from the manual. -/
namespace Sys2Proof.Tests
open Sys2Proof Sys2Proof.Machine

set_option Elab.async false

/-! ### States -/

/-- The planes after start-up with the module in state `st` and the driver's function set up. -/
def dev (st : Nat) : Dev :=
  { Dev.reset with ctl := { Ctl.reset with state := st },
                   host := { HostPort.reset with linkUp := true, busMaster := true, cfg := { HostConfig.reset with msixOn := true } } }

/-- The module with planes `d`, after start-up. -/
def withDev (d : Dev) : State := { State.reset with pwr := { Pwr.reset with bootOrder := 10 }, d := d }

/-- The module in state `st`, after start-up. -/
def at' (st : Nat) : State := withDev (dev st)

/-- The module in state `st` with changes of the power path. -/
def power (st : Nat) (f : Pwr → Pwr) : State := { at' st with pwr := f (at' st).pwr }

/-- The module in state `st` with changes of the management plane. -/
def managed (st : Nat) (f : Sec → Sec) : State := { at' st with sec := f (at' st).sec }

/-- Bytes given by offset and value; 0 elsewhere. -/
def bytesAt (n : Nat) (l : Tab Nat) : List Byte := (List.range n).map fun i => BitVec.ofNat 8 (tget 0 l i)

/-- A descriptor as it stands at the head of a ring. -/
def slot (l : Tab Nat) : Desc := ⟨0, bytesAt 64 l, 0⟩

/-- Planes with descriptor `l` at the head of ring `r`; its completion ring is in host memory. -/
def headed (d : Dev) (r : Nat) (l : Tab Nat) : Dev := d.setRing r fun x => { x with enable := true, queue := [slot l], fetchAt := 1 }

/-- A cast profile with target B16, and a graph that copies read port 0 to write port 0. -/
def profile : Profile :=
  { target := .b16, fallback := .f8e4, scaleUnit := false, scaleNearest := false, symmetric := false, rotJob := false, satStrict := false,
    compensated := false, rescale := false, outPair := false, clip8 := 8, rotN := 0, theta := 0, budget := 0, runBlocks := 1, outScaleExp := 0,
    rounding := 0, overflow := 0, outSR := false, satLimit := 0, crushLimit := none, l4 := [] }
def graph : Graph :=
  { readFmts := [0, 0xFF, 0xFF, 0xFF, 0xFF], writePorts := 1, rowUsed := false, colUsed := false, constInt := 0, rowFmt := 0, colFmt := 0,
    consts := [], stages := [⟨0x50, 0x40, 0xFF, 0xFF, false, false, true, 0, 0, 0, 0⟩] }

/-- A pattern of two members, whose colony 0 has logical tile 0; this module is member 0, the anchor, and the buddy of member 1. -/
def pattern : Pattern :=
  { jobId := 7, jobSeed := 5, digest := zeros 64, tiles := (List.range 96).map fun l => ⟨l, 24, if l = 0 then some 0 else none⟩,
    colonies := [(0, ⟨[(0, profile)], [(0, graph)]⟩)], parts := List.replicate 96 ⟨48, 8, 0, 0, 8⟩, cacheSteps := List.replicate 8 0,
    rlogBase := 0xA000100000, rlogSize := 0x10000, regions := [], anchor := 0, members := [⟨1, 0xA000200000, 0x100000⟩, ⟨0, 0xA000200000, 0x100000⟩],
    mappedOut := [], chains := [⟨0, [[0, 1]]⟩], routes := [[], [0]], policy := ⟨false, 8, 200, 0, 0, 1, 0, 4, 1, List.replicate 16 1⟩ }

/-- The module of that pattern with step 1 open, its logical tile 0 on physical tile 0. -/
def job : Dev :=
  { dev 5 with ctl := { (dev 5).ctl with pattern := some pattern, digest := zeros 64, txn := some (txnOf 1 0 [1]) }
               tiles := [(0, { tile0 with logical := some 0 })] }

/-! ### Ill-formed commands (WellFormed.lean) -/

/-- A well-formed message, and one with a field out of its width. -/
def rx (cls step : Nat) (params : Tab Nat) (body : List Byte) : Rx := ⟨0, 0, 1, cls, true, 0, step, bytesAt 32 params, clean body, true, false⟩

theorem test_wf_ring : (Instr.gemm 10).wf = true ∧ (Instr.gemm 11).wf = false := by decide
theorem test_wf_tile : (Instr.outputTilePost 95).wf = true ∧ (Instr.outputTilePost 96).wf = false := by decide
theorem test_wf_phys : (Instr.checkRepeat 103 0).wf = true ∧ (Instr.checkRepeat 104 0).wf = false ∧ (Instr.checkRepeat 0 (2 ^ 128)).wf = false := by
  decide +kernel
theorem test_wf_mdie : (Instr.rowRepair 7).wf = true ∧ (Instr.rowRepair 8).wf = false := by decide
theorem test_wf_port : (Instr.portRetrain 31).wf = true ∧ (Instr.portRetrain 32).wf = false := by decide
theorem test_wf_peer : (Instr.ackTimeout 4095 7).wf = true ∧ (Instr.ackTimeout 4096 0).wf = false ∧ (Instr.ackTimeout 0 8).wf = false := by decide +kernel
theorem test_wf_bits : (Instr.mainLost 65535).wf = true ∧ (Instr.mainLost 65536).wf = false ∧ (Instr.entdaa 128).wf = false := by decide +kernel
theorem test_wf_request : (Instr.bar0RsRead 0 0 (.bar0 1 .good)).wf = true ∧ (Instr.bar0RsRead 0 0 (.bar0 0 .good)).wf = false ∧
    (Instr.bar0RsRead 0 (2 ^ 26) .core).wf = false ∧ (Instr.mergeEntryIdle 0 32).wf = false := by
  decide +kernel
theorem test_wf_length : (Instr.sensorSample []).wf = false ∧ (Instr.descriptorFetch 0 [] 0).wf = false ∧ (Instr.bar2Read 0 0 0 .good).wf = false := by
  decide +kernel
theorem test_wf_sources : (Instr.irqUnmask 28).wf = true ∧ (Instr.irqUnmask 29).wf = false ∧ (Instr.pllLockLoss 14).wf = false := by decide
theorem test_wf_path : (Instr.getTid (.peer 4096)).wf = false ∧ (Instr.getTid .doe).wf = true := by decide +kernel
theorem test_wf_message : (Instr.ack (rx 0 0 [] [])).wf = true ∧ (Instr.ack { rx 0 0 [] [] with cls := 8 }).wf = false ∧
    (Instr.ack { rx 0 0 [] [] with params := [] }).wf = false := by decide +kernel
theorem test_wf_trained : (Instr.linkUp 0 ⟨false, 255, 8, 6, false, 0, 0⟩).wf = true ∧ (Instr.linkUp 0 ⟨false, 255, 3, 0, false, 0, 0⟩).wf = false ∧
    (Instr.trainingRetryTimer 0 (some ⟨false, 256, 8, 0, false, 0, 0⟩)).wf = false := by
  decide +kernel
theorem test_wf_width : (Instr.widthRequest 0 4 1 0).wf = true ∧ (Instr.widthRequest 0 3 0 0).wf = false := by decide +kernel
theorem test_wf_swatch : (Instr.swatchEnd ⟨[103], [], [], [], [], [], false, []⟩).wf = true ∧
    (Instr.swatchEnd ⟨[104], [], [], [], [], [], false, []⟩).wf = false ∧
    (Instr.swatchEnd ⟨[], [], [], [], [], [], false, [(.table 5, [])]⟩).wf = false := by decide
theorem test_wf_strike : (Instr.scrubRead 0 0 (some (.merge 64 1))).wf = true ∧ (Instr.scrubRead 0 0 (some (.merge 65 1))).wf = false ∧
    (Instr.scrubRead 0 0 (some (.table 6 0 1))).wf = false := by decide +kernel
theorem test_wf_config : (Instr.busMasterEnable true HostConfig.reset).wf = true ∧ (Instr.busMasterEnable true { HostConfig.reset with bars := [] }).wf = false ∧
    (Instr.hostLinkUp 6 16).wf = true ∧ (Instr.hostLinkUp 7 16).wf = false := by decide +kernel

/-! ### Power, start-up, the loops and resets -/

theorem witness_InputEventsAreRecorded :
    (at' 3).d.ctl.state ≠ 0 ∧ 4400 ≤ 4400 ∧ 5900 ≤ 5900 ∧ (power 3 fun p => { p with auxOk := true }).pwr.auxOk = true ∧ (at' 3).pwr.auxOk = false ∧
      (4200 ≤ 4399 ∧ 4399 < 4400) ∧ (5900 < 6000 ∧ 6000 ≤ 6000) ∧ 6000 < 6001 ∧ (at' 3).d.ctl.state ≠ 7 ∧ 4199 < 4200 ∧
      (power 3 fun p => { p with qualified := true }).pwr.qualified = true ∧ (at' 3).d.ctl.onAux = false ∧
      (let s := { at' 9 with d := (dev 9).setCtl fun c => { c with onAux := true } }
       s.d.ctl.state ≠ 0 ∧ s.d.ctl.state ≠ 7 ∧ s.d.ctl.onAux = true) ∧ (power 0 fun p => { p with tripOpen := true }).pwr.tripOpen = true := by
  decide +kernel

theorem witness_PowerOffKeepsFlashAlone :
    (at' 5).d.ctl.state ≠ 0 ∧ outsideLoss 4199 = true ∧ outsideLoss 6001 = true ∧ (at' 5).pwr.auxThere = false ∧ (at' 5).pwr.qualified = false := by decide +kernel

theorem witness_PowerOnBootsTheFirmware :
    State.reset.d.ctl.state ≤ 1 ∧ State.reset.pwr.bootOrder = 0 ∧ State.reset.pwr.tripOpen = false ∧ (4400 ≤ 4400 ∧ 4400 ≤ 5900) := by decide +kernel

theorem witness_StartUpReachesBare :
    (let s := power 1 fun p => { p with bootOrder := 2, mainOk := true }
     s.d.ctl.state = 1 ∧ s.pwr.bootOrder = 2 ∧ s.pwr.mainOk = true ∧ s.pwr.qualified = false ∧ s.pwr.mainWas = false) ∧
    (let s := power 2 fun p => { p with bootOrder := 2, mainOk := true, mainWas := true, stopped := true }
     s.d.ctl.state = 2 ∧ s.pwr.bootOrder = 2 ∧ s.pwr.mainOk = true ∧ s.pwr.qualified = false) ∧
    (let s := power 2 fun p => { p with bootOrder := 7 }
     s.d.ctl.state = 2 ∧ s.pwr.bootOrder = 7 ∧ s.pwr.stopped = false) ∧ swatchFault ⟨[103], [], [], [], [], [], false, []⟩ = false := by decide +kernel

theorem witness_SwitchOverRaisesSupplyCause :
    let s := power 5 fun p => { p with auxCv := 4200, qualified := true }
    holdable s.d.ctl.state = true ∧ s.d.ctl.onAux = false ∧ s.pwr.auxThere = true ∧ 4199 < 4200 ∧ 6000 < 6001 ∧ s.pwr.qualified = true := by decide +kernel

theorem witness_HoldIsEnteredAndLeft :
    (∀ n ∈ [1, 2], let s := power 4 fun p => { p with switchStage := n }
     (s.pwr.switchStage = 1 ∨ s.pwr.switchStage = 2) ∧ s.d.switchSettled = true ∧ holdable s.d.ctl.state = true ∧ s.pwr.qualified = false) ∧
    (let d := (dev 4).setPort 31 fun p => { p with link := 2, width := 8 }
     let e := (if 1 = 1 then (d.abandonLoad.flushAll.allPorts fun _ => notePort) else d).allPorts fun _ => holdPort
     31 < 32 ∧ (e.port 31).isUp = true ∧ (e.port 31).width ≠ 2) ∧
    (∀ p < 32, let d := (dev 4).setPort 31 fun p => { p with link := 2, width := 2 }
     ((d.allPorts fun _ => holdPort).port p).isUp = true → ((d.allPorts fun _ => holdPort).port p).width = 2 ∧ ((d.allPorts fun _ => holdPort).port p).changing = false) ∧
    (let s := power 7 fun p => { p with mainOk := true, mainWas := true }
     s.d.ctl.state = 7 ∧ s.pwr.mainOk = true ∧ s.pwr.qualified = false ∧ s.pwr.mainWas = true) ∧
    (let s := power 7 fun p => { p with forced := true, qualified := true }
     s.d.ctl.state = 7 ∧ s.pwr.forced = true ∧ s.pwr.qualified = true) := by decide +kernel

theorem witness_PeriodicLoopsStep :
    (at' 3).d.ctl.state ≠ 0 ∧ (at' 3).drawMain.d.ctl.onAux = false ∧ 2400 ≤ 2400 ∧ (at' 3).pwr.capEnable = true ∧ 2400 < 2401 ∧ (List.replicate 36 7).length = 36 ∧
      (at' 3).pwr.deadDies.contains 13 = false ∧ (withDev ((dev 7).setCtl fun c => { c with onAux := true })).drawMain.d.ctl.onAux = true := by decide +kernel

theorem witness_ResetsRestart : (at' 1).d.ctl.state ≠ 0 ∧ (∀ st ∈ [3, 4, 5, 6, 7, 8], (at' st).d.ctl.state ∈ [3, 4, 5, 6, 7, 8]) ∧
    ∀ st ∈ [1, 2, 9], (at' st).d.ctl.state ∈ [1, 2, 9] := by decide +kernel

/-! ### Host link, registers and rings -/

theorem witness_HostLinkCommands :
    (at' 3).d.host.linkUp = true ∧ (at' 3).d.ctl.drains = [] ∧
    (let s := withDev ((dev 3).setHost fun h => { h with linkUp := false })
     s.d.host.linkUp = false ∧ 4 ≤ s.pwr.bootOrder) ∧ 2 < 3 := by decide +kernel

theorem witness_RegisterCommands :
    (at' 3).d.reached = true ∧ bar0Refused 0 1 = false ∧ bar0Refused 0x3FFFFFC 1 = false ∧ (2 ≠ 1 ∨ 0 % 4 ≠ 0 ∨ 0x4000000 ≤ 0) ∧ (1 ≠ 1 ∨ 2 % 4 ≠ 0 ∨ 0x4000000 ≤ 2) ∧
      (1 ≠ 1 ∨ 0x4000000 % 4 ≠ 0 ∨ 0x4000000 ≤ 0x4000000) ∧ 4 ≤ (at' 3).pwr.bootOrder ∧ (at' 3).pwr.deadDies.contains 12 = false := by decide +kernel

theorem witness_RingControlCommands :
    10 ≤ 10 ∧ (at' 3).d.reached = true ∧ 4 ≤ (at' 3).pwr.bootOrder ∧ (at' 3).pwr.deadDies.contains 12 = false ∧ 14 ≠ 15 ∧ (0x601).testBit 0 = true ∧
      (0x600).testBit 0 = false := by decide +kernel

/-- Ring 9 enabled with one slot unfetched; in device memory, its slot 0 stands at the start of an LLM slice. -/
def unfetched (device : Bool) : State :=
  withDev ((dev 3).setRing 9 fun x => { x with enable := true, sRingDev := device, sBase := 0xA000000000, tail := 1 })

theorem witness_DescriptorFetchCompletes :
    (∀ b : Bool, (unfetched b).d.fetched 9 = true ∧ ((unfetched b).d.ring 9).enable = true ∧ ((unfetched b).d.ring 9).halted = false ∧
      ((unfetched b).d.ring 9).unfetched ≠ 0) ∧
    (((unfetched false).d.ring 9).sRingDev = false ∧ (unfetched false).d.host.linkUp = true ∧ (unfetched false).d.hostReady = true) ∧
    (((unfetched true).d.ring 9).sBase + 64 * (((unfetched true).d.ring 9).fetchAt % ((unfetched true).d.ring 9).sSize) = 0xA000000000 ∧
      ((unfetched true).d.ring 9).sRingDev = true ∧ (unfetched true).d.mapped 0xA000000000 64 = true ∧
      ((unfetched true).d.read 0xA000000000 64).1.any (·.2) = false) := by decide +kernel

/-- A FILL of 64 bytes, and a COPY of 64 bytes to the sector behind them, both in an LLM slice. -/
def fillSlot : Tab Nat := [(0, 0x08), (20, 0xA0), (24, 64), (32, 0xEE)]
def copySlot : Tab Nat := [(0, 0x09), (20, 0xA0), (24, 64), (28, 0xA0), (32, 64)]

theorem witness_FillAndCopyComplete :
    (let d := headed (dev 3) 9 fillSlot
     let x := slot fillSlot
     addr40 x.bytes 16 = 0xA000000000 ∧ addr40 x.bytes 24 = 64 ∧ d.ready 9 0x08 false x = true ∧ d.clash 9 [] [(0xA000000000, 64)] = false ∧
       d.transferFieldsOk 9 x.bytes = true ∧ d.allMapped [(0xA000000000, 64)] = true) ∧
    (let d := headed (dev 3) 10 copySlot
     let x := slot copySlot
     addr40 x.bytes 16 = 0xA000000000 ∧ addr40 x.bytes 24 = 0xA000000040 ∧ addr40 x.bytes 32 = 64 ∧ d.ready 10 0x09 false x = true ∧
       d.clash 10 [(0xA000000000, 64)] [(0xA000000040, 64)] = false ∧ d.transferFieldsOk 10 x.bytes = true ∧
       d.allMapped [(0xA000000000, 64), (0xA000000040, 64)] = true ∧ overlaps (0xA000000000, 64) (0xA000000040, 64) = false) := by decide +kernel

theorem witness_OrderingCommandsComplete :
    (let x := slot [(0, 0x0F), (16, 1)]
     flagInput x.bytes = false ∧ (headed (dev 3) 9 [(0, 0x0F), (16, 1)]).ready 9 0x0F false x = true ∧ markPhase (byteAt x.bytes 16) = true ∧ isColony 9 = false) ∧
    (let x := slot [(0, 0x0F), (16, 1)]
     (headed job 1 [(0, 0x0F), (16, 1)]).ready 1 0x0F false x = true ∧ isColony 1 = true) ∧
    (let x := slot [(0, 0x10), (16, 63)]
     (headed (dev 3) 9 [(0, 0x10), (16, 63)]).ready 9 0x10 false x = true ∧ byteAt x.bytes 16 < 64 ∧
       field x.bytes 20 4 ≤ tget 0 (dev 3).ctl.sems (byteAt x.bytes 16)) ∧
    (let x := slot [(0, 0x11), (16, 63), (20, 9)]
     let d := headed (dev 3) 10 [(0, 0x11), (16, 63), (20, 9)]
     d.ready 10 0x11 false x = true ∧ byteAt x.bytes 16 < 64 ∧ d.ringIdle 10 = true) ∧
    (let x := slot [(0, 0x0A)]
     let d := headed (dev 3) 0 [(0, 0x0A)]
     d.ready 0 0x0A false x = true ∧ byteAt x.bytes 16 = 0 ∧ d.ringIdle 0 = true) := by decide +kernel

/-! ### Device memory and the M-dies -/

theorem witness_DirectAccessCompletes :
    (at' 3).d.reached = true ∧ (at' 3).d.bar2Reach 0xA000000000 4096 = true ∧ (at' 3).d.bar2Reach 0xA00FFFFFC0 (List.replicate 64 (0 : Byte)).length = true ∧
    (let e : MEntry := ⟨0xA000000000, 0xA000000000, 1, List.replicate 64 0, 0⟩
     (((dev 3).setMdie 0 fun m => { m with merge := [e] }).mdie 0).merge.find? (fun e => e.sector == 0xA000000000) = some e) := by decide +kernel

theorem witness_RowFaultFlow :
    (let c : Confirm := ⟨3, 0, 0, 5⟩
     takeFirst (fun c : Confirm => c.mdie == 3) { dev 3 with confirms := [c] }.confirms = (some c, [])) ∧
    (let c : Row × Nat := (⟨7, 63, 63, 18431⟩, 0)
     takeFirst (fun c : Row × Nat => c.1.mdie == 7) { dev 3 with repairs := [c] }.repairs = (some c, []) ∧
       { dev 3 with retires := [c] }.retires = [c] ∧ (dev 3).retired.length < 8192) ∧
    (let d := (dev 3).setMdie 0 fun m => { m with trained := true }
     (d.mdie 0).scrubEnable = true ∧ (d.mdie 0).trained = true) := by decide +kernel

/-! ### Ports and peers -/

/-- Port 0 as `f` leaves it, in state LOADED. -/
def ported (f : Port → Port) : State := withDev ((dev 4).setPort 0 f)

theorem witness_PortCommands :
    (ported fun p => { p with link := 2 }).d.up 0 = true ∧
    (let s := ported fun p => { p with link := 2, nakArmed := true }
     s.d.up 0 = true ∧ (s.d.port 0).nakArmed = true) ∧
    (let s := ported fun p => { p with link := 3, replay := [⟨1, [], 15⟩] }
     s.d.up 0 = true ∧ (s.d.port 0).replay ≠ [] ∧ (s.d.port 0).replay.any (fun f => decide (16 ≤ f.replays)) = false ∧ (s.d.port 0).widthReq = none) ∧
    (let s := ported fun p => { p with link := 2, widthReq := some (4, 0, 1) }
     s.d.up 0 = true ∧ (s.d.port 0).widthReq = some (4, 0, 1) ∧ (s.d.port 0).back ≠ 1) ∧
    (let s := ported fun p => { p with link := 3, widthReq := some (4, 0, 1), back := 1 }
     s.d.up 0 = true ∧ (s.d.port 0).widthReq = some (4, 0, 1) ∧ (s.d.port 0).back = 1) ∧ ((at' 3).d.ctl.state = 7 → 4 = 2) ∧ ((at' 7).d.ctl.state = 7 → 2 = 2) ∧
    (let s := ported fun p => { p with link := 1 }
     0 < 32 ∧ 4 ≤ s.pwr.bootOrder ∧ s.pwr.deadDies.contains 12 = false ∧ (s.d.port 0).enable = true ∧ (s.d.port 0).held = false ∧ 2 ≤ s.d.ctl.state ∧
       (s.d.port 0).link = 1 ∧ (trainChoices (min (s.d.port 0).maxWidth 8) 255)[0]? = some (8, 0) ∧ (trainChoices (min (s.d.port 0).maxWidth 8) 0xF3)[1]? = some (2, 0)) := by
  decide +kernel

theorem witness_LinkDownEmptiesThePort :
    (ported fun p => { p with link := 2 }).d.up 0 = true ∧ (ported fun p => { p with link := 2 }).d.joined = [] := by decide +kernel

/-- Planes with message `m` of a type in the inbox, from a JOINED peer. -/
def hears (d : Dev) (typ : Nat) (m : Rx) : Dev := { d.setPeer 1 (fun p => { p with state := 3 }) with inbox := [(typ, m)] }

/-- An unsequenced control message. -/
def note (body : List Byte) : Rx := { rx 0 0 [] body with sequenced := false }

/-- A message of this module, kept until it is acknowledged. -/
def kept : Sent := ⟨2, 0x50, true, 0, 0, [], [], none⟩

theorem witness_AcknowledgementCommands :
    (let d := hears job 0x01 (note [])
     d.arrived 0x01 (note []) = true ∧ (d.peer 1).state = 3 ∧ (hears job 0x02 (note [])).arrived 0x02 (note []) = true) ∧
    ((job.setPeer 1 fun p => { p with ackDue := true }).peer 1).ackDue = true ∧
    (let d := job.setPeer 1 fun p => { p with state := 3, probing := true, missed := 2 }
     (d.peer 1).state = 3 ∧ (d.peer 1).probing = true ∧ (d.peer 1).missed < 3) ∧
    (let d := (job.setPeer 1 fun p => { p with state := 3, missed := 2, unacked := [kept], lastPort := p.lastPort.set 2 1 }).setPort 0 fun x => { x with link := 2 }
     (d.peer 1).state = 3 ∧ ((d.peer 1).unacked.filter fun m => m.cls == 2) ≠ [] ∧ (d.peer 1).missed < 3 ∧
       nextUsable (d.route 1) (d.usable 1) ((d.peer 1).lastPort.getD 2 0 - 1) = some 0) := by decide +kernel

theorem witness_FourthMissDeparts :
    (let d := job.setPeer 1 fun p => { p with state := 3, missed := 2 }
     (d.peer 1).state = 3 ∧ (d.peer 1).missed < 3) ∧
    (let d := job.setPeer 1 fun p => { p with state := 3, missed := 3 }
     (d.peer 1).state = 3 ∧ 3 ≤ (d.peer 1).missed) := by decide +kernel

/-- A scout body of job 7 with the digest of the pattern. -/
def scoutBody : List Byte := bytesAt 64 [(8, 7), (58, 1)]

theorem witness_ScoutCommands :
    sendsHello (at' 4).d.ctl.state = true ∧
    (let d := { (dev 3) with inbox := [(0x10, note [])] }
     d.arrived 0x10 (note []) = true ∧ d.helloCause 1 (note []).bytes = some 5) ∧
    (let d := { job with inbox := [(0x10, note scoutBody)] }
     d.arrived 0x10 (note scoutBody) = true ∧ d.helloCause 1 (note scoutBody).bytes = none) ∧
    (let d := { job with inbox := [(0x11, note scoutBody), (0x12, note scoutBody)] }
     d.arrived 0x11 (note scoutBody) = true ∧ sendsHello d.ctl.state = true ∧ d.members'.contains 1 = true ∧ 1 ≠ d.ctl.address ∧ (d.peer 1).state ≠ 3 ∧
       d.arrived 0x12 (note scoutBody) = true ∧ (d.peer 1).refused ≠ byteAt (note scoutBody).bytes 58 ∧
       ((d.setPeer 1 fun p => { p with refused := 1 }).peer 1).refused = byteAt (note scoutBody).bytes 58) ∧
    (hears job 0x13 (note [])).arrived 0x13 (note []) = true ∧ (hears job 0x14 (rx 0 0 [] scoutBody)).inOrder 0x14 (rx 0 0 [] scoutBody) = true := by
  decide +kernel

/-! ### Reductions, shards, routes and PERMUTE -/

/-- What the checks of a descriptor end in a start. -/
def goes {α : Type} : Plan α → Bool
  | .goes _ => true
  | _ => false

theorem goes_some {α : Type} {p : Plan α} (h : goes p = true) : ∃ a, p = .goes a := by
  cases p <;> simp [goes] at h
  exact ⟨_, rfl⟩

/-- A REDUCE of bucket 0 of chain 0 without update entries: 8 groups, contribution and result in an LLM slice. -/
def reduceSlot : Tab Nat := [(0, 0x07), (28, 0xA0), (36, 0xA0), (42, 1), (44, 0xA0), (50, 2), (52, 0xA0), (56, 8)]

/-- Bucket 0 of chain 0 with run 0, and one whose group 0 waits for its update. -/
def bucket : Bucket := bucketOf 0 1 1 (bytesAt 64 reduceSlot) []
def entry : UEntry := ⟨0, 0x10000, 0x20000, 8, 0, 0, false, 0, false, 0, 0, 0, false, .zero false, .zero false, .zero false, .zero false, .zero false, .zero false,
  .zero false⟩
def ready' : Bucket := { bucket with entries := [entry], arrived := [0] }

/-- Step 1 open with a bucket. -/
def reducing (b : Bucket) : Dev := job.setCtl fun c => { c with buckets := [b] }

/-- A message of step 1 that names chain 0, bucket 0 and run 0 in its params. -/
def sum' : Rx := rx 1 1 [] (zeros 512)

theorem witness_ReductionCommands :
    (headed job 1 reduceSlot).ready 1 0x07 false (slot reduceSlot) = true ∧
    (∃ w, (headed job 1 reduceSlot).reducePlan 1 (slot reduceSlot) = .goes w) ∧
    (∀ typ ∈ [0x40, 0x41, 0x42, 0x43], (hears (reducing bucket) typ sum').inOrder typ sum' = true ∧
      ((hears (reducing bucket) typ sum').taken typ sum').inStep 1 = .now ∧
      ((hears (reducing bucket) typ sum').taken typ sum').bucket (sum'.par 24 2) (sum'.par 26 2) = some bucket ∧ sum'.par 28 4 = bucket.runId ∧
      sum'.poisoned = false ∧ (sum'.body.take 512).any (·.2) = false ∧
      ((hears (reducing bucket) typ sum').taken typ sum').leader 0 = some job.ctl.address) ∧
    (withDev (reducing ready')).d.stepOpen = true ∧ (reducing ready').nextGroup 0 = some (ready', 0) ∧
    ((hears job 0x20 (rx 1 1 [] [])).inOrder 0x20 (rx 1 1 [] []) = true ∧
      (((hears job 0x20 (rx 1 1 [] [])).taken 0x20 (rx 1 1 [] [])).logRetract 0x14 1 1 0 0).inStep 1 = .now) ∧
    ((hears job 0x20 (rx 1 2 [] [])).inOrder 0x20 (rx 1 2 [] []) = true ∧
      (((hears job 0x20 (rx 1 2 [] [])).taken 0x20 (rx 1 2 [] [])).logRetract 0x14 2 1 0 0).inStep 2 ≠ .now) ∧
    ((hears job 0x83 (rx 5 1 [] [])).inOrder 0x83 (rx 5 1 [] []) = true ∧ ((hears job 0x83 (rx 5 1 [] [])).taken 0x83 (rx 5 1 [] [])).inStep 1 = .now) := by
  refine ⟨by decide +kernel, goes_some (by decide +kernel), ?_⟩
  decide +kernel

/-- Entry 0 of this module and entry 1 of its peer, plain shards of 64 bytes. -/
def shards : Dev := { job with ctl := { job.ctl with banks := [(0, [(0, ⟨0, 0, 0, true, false, 0xA000010000, 64, 3⟩), (1, ⟨0, 1, 1, true, false, 0xA000010000, 64, 3⟩)])] } }

/-- A GATHER of both entries, and a SCATTER of both. -/
def gatherSlot : Tab Nat := [(0, 0x04), (18, 2), (28, 0xA0)]
def scatterSlot : Tab Nat := [(0, 0x05), (18, 2), (28, 0xA0)]

/-- A started descriptor with the bytes of a slot. -/
def active (ring : Nat) (l : Tab Nat) : Active :=
  { uid := 1, ring := ring, place := 0, gen := 0, bytes := bytesAt 64 l, iota := 0, indexed := true, reads := [], writes := [], step := 1, parts := [],
    status := 0, nonfin := 0, poison := [], wait := [], done := false, kept := [], mem := [], hold := false }

/-- The GATHER waits for entry 1 of the peer; its answer carries 64 bytes. -/
def gathering : Dev := { shards with acts := [{ active 1 gatherSlot with wait := [[1, 1, 0, 64, 0xA000000040]] }] }
def answer : Rx := rx 2 1 [(0, 1)] (zeros 64)

theorem witness_ShardCommands :
    (((headed shards 1 gatherSlot).ready 1 0x04 false (slot gatherSlot) = true ∧
      ((headed shards 1 gatherSlot).runSectors (slot gatherSlot).bytes).all (headed shards 1 gatherSlot).tableClean = true) ∧
      ∃ e, (headed shards 1 gatherSlot).gatherPlan 1 (slot gatherSlot) = .goes e) ∧
    (((headed shards 1 scatterSlot).ready 1 0x05 false (slot scatterSlot) = true ∧
      ((headed shards 1 scatterSlot).runSectors (slot scatterSlot).bytes).all (headed shards 1 scatterSlot).tableClean = true) ∧
      (headed shards 1 scatterSlot).scatterPlan 1 (slot scatterSlot) = .goes ()) ∧
    (let m := rx 2 1 [(16, 64)] []
     (hears shards 0x50 m).inOrder 0x50 m = true ∧ shards.permuting (m.par 26 2) = false ∧ ((hears shards 0x50 m).taken 0x50 m).servable ⟨1, 1, m.params⟩ = true) ∧
    (let h : HeldReq := ⟨1, 1, bytesAt 32 [(16, 64)]⟩
     let d := shards.setCtl fun c => { c with held := [h] }
     takeFirst (fun h : HeldReq => h.src == 1 && d.servable h) d.ctl.held = (some h, [])) ∧
    (let d := (hears gathering 0x51 answer).taken 0x51 answer
     (hears gathering 0x51 answer).inOrder 0x51 answer = true ∧ gathering.permuting (answer.par 26 2) = false ∧
       d.gatherOf 1 (answer.par 24 2) (answer.par 32 8) = some ({ active 1 gatherSlot with wait := [[1, 1, 0, 64, 0xA000000040]] }, [1, 1, 0, 64, 0xA000000040]) ∧
       answer.par 26 2 = d.ctl.generation ∧ answer.par 48 1 = 0) ∧
    (let m := rx 2 1 [(16, 1)] (zeros 64)
     let d := (hears shards 0x52 m).taken 0x52 m
     (hears shards 0x52 m).inOrder 0x52 m = true ∧ shards.permuting (m.par 26 2) = false ∧ m.par 26 2 = d.ctl.generation ∧ (d.shard (m.par 24 2)).valid = true ∧
       (d.shard (m.par 24 2)).epoch = false ∧ (d.shard (m.par 24 2)).owner = d.ctl.address ∧ m.par 32 8 + m.body.length ≤ (d.shard (m.par 24 2)).len) ∧
    (let m := rx 2 1 [(0, 1)] []
     let a := { active 1 scatterSlot with wait := [[1, 1]] }
     let d := { shards with acts := [a] }
     (hears d 0x53 m).inOrder 0x53 m = true ∧ d.permuting (m.par 26 2) = false ∧
       (((hears d 0x53 m).taken 0x53 m).acts.find? fun a => kindOf a.bytes == 0x05 && a.wait.any fun w => w == [m.src, m.par 24 2]) = some a) := by
  refine ⟨⟨by decide +kernel, goes_some (by decide +kernel)⟩, ⟨by decide +kernel, by simp only [Dev.scatterPlan]; rw [if_neg (by decide +kernel), if_neg (by decide +kernel), if_neg (by decide +kernel), if_neg (by decide +kernel)]⟩, ?_⟩
  decide +kernel

/-- A routed SCATTER whose route block, in the replay-log range of an LLM slice, names entries 0 to 0 as experts and entry 1 as overflow. -/
def routedSlot : Tab Nat := [(0, 0x05), (28, 0xA0), (32, 1), (42, 2), (44, 0xA0)]
def routeBytes : Tab Nat := [(4, 0xA0), (9, 1), (12, 0xA0), (16, 2), (20, 8), (26, 1), (28, 1), (30, 1)]
def routing : Dev :=
  { shards with mem := ⟨(bytesAt 64 routeBytes).zipIdx.filterMap fun b => if b.1 = 0 then none else some (0xA000020000 + b.2, b.1), [], 0⟩ }
def route : Route :=
  { uid := 1, owners := [0], x := 0, e := 1, counts := [(0, [2]), (1, [0])], answered := [], placed := false, expect := 0, gave := [], took := [[0, 0, 0, 0]], back := none, backLeft := 0 }
def routed (a : Active) (r : Route) : Dev := { (shards.setCtl fun c => { c with routes := [r] }) with acts := [a] }

theorem witness_RoutedCommands :
    (((headed routing 1 routedSlot).ready 1 0x05 false (slot routedSlot) = true ∧
      ((headed routing 1 routedSlot).routedSectors (slot routedSlot).bytes).all (headed routing 1 routedSlot).tableClean = true) ∧
      ∃ w, (headed routing 1 routedSlot).routedPlan 1 (slot routedSlot) = .goes w) ∧
    (let d := routed (active 1 routedSlot) route
     (d.ctl.routes.find? fun r => r.x == 0 && !r.placed && r.owners.contains d.ctl.address && (d.routeMembers r).all fun m => r.counts.any fun c => c.1 == m) = some route ∧
       d.act route.uid = some (active 1 routedSlot)) ∧
    (∀ typ ∈ [0x70, 0x71], let m := rx 7 1 [(4, 1)] (zeros 4)
      (hears (routed (active 1 routedSlot) route) typ m).inOrder typ m = true ∧
        ((hears (routed (active 1 routedSlot) route) typ m).taken typ m).routeOf (m.par 24 2) (m.par 28 4) = some route ∧ m.poisoned = false ∧
        route.answered.contains m.src = false) ∧
    (let r := { route with counts := [(0, [2])] }
     let m := rx 7 1 [(4, 1)] (zeros 4)
     let d := (hears (routed (active 1 routedSlot) r) 0x70 m).taken 0x70 m
     (hears (routed (active 1 routedSlot) r) 0x70 m).inOrder 0x70 m = true ∧ d.routeOf (m.par 24 2) (m.par 28 4) = some r ∧ r.placed = false ∧
       r.counts.any (fun c => c.1 == m.src) = false ∧ (d.act r.uid).isSome = true ∧ m.poisoned = false) ∧
    (let r := { route with took := [[0, 1, 0, 0]], back := some 1 }
     let m := rx 7 1 [(0, 1)] (zeros 8)
     let d := (hears (routed (active 1 routedSlot) r) 0x72 m).taken 0x72 m
     (hears (routed (active 1 routedSlot) r) 0x72 m).inOrder 0x72 m = true ∧ m.par 36 1 = 0 ∧ (d.shard (m.par 24 2)).owner ≠ d.ctl.address ∧
       (d.ctl.routes.find? fun r => r.took.any fun t => (t.drop 1).take 2 == [m.par 24 2, 0]) = some r ∧ r.back.bind d.act = some (active 1 routedSlot)) ∧
    (∀ n ∈ [1, 2], let r := { route with gave := [[1, 0, 0, 0, 1]], expect := n }
     let a := { active 1 routedSlot with mem := [0, 8] }
     let m := rx 7 1 [] (zeros 8)
     let d := (hears (routed a r) 0x72 m).taken 0x72 m
     (hears (routed a r) 0x72 m).inOrder 0x72 m = true ∧ m.par 36 1 = 0 ∧ (d.shard (m.par 24 2)).owner = d.ctl.address ∧
       (d.ctl.routes.find? fun r => r.gave.any fun g => g.take 3 == [m.src, m.par 24 2, 0]) = some r ∧ d.act r.uid = some a ∧
       ((((d.writeRows 4 0 8 0 false [] m.body).setRoute r.x r.e fun y => { y with expect := y.expect - m.body.length / 8 }).noteGot m.step m.src
          (d.shard 0).addr (d.shard 0).len).routeOf r.x r.e).map (fun y => decide (y.expect = 0)) = some (n == 1)) := by
  refine ⟨⟨by decide +kernel, goes_some (by decide +kernel)⟩, ?_⟩
  decide +kernel

/-- A PERMUTE with the image of one entry, in an LLM slice: generation 1, in move mode (0) or adopt mode (1). -/
def permuteSlot : Tab Nat := [(0, 0x06), (26, 2), (28, 0xA0)]
def tableImage (mode : Nat) : Tab Nat := [(0, 1), (2, mode), (4, 1), (576 + 5, 1), (576 + 12, 0xA0), (576 + 16, 64)]
def permuting (st mode : Nat) : Dev :=
  { job with ctl := { job.ctl with state := st, txn := none }
             mem := ⟨(bytesAt 608 (tableImage mode)).zipIdx.filterMap fun b => if b.1 = 0 then none else some (0xA000020000 + b.2, b.1), [], 0⟩ }

/-- A PERMUTE that runs, with everything sent and received. -/
def running (adopt : Bool) : Permute := ⟨1, adopt, 1, 2, true, 0, [1], 0, some 0, false, [], []⟩

theorem witness_PermuteCommands :
    ((headed (permuting 4 0) 0 permuteSlot).head 0 = some (slot permuteSlot) ∧ ∃ w, (headed (permuting 4 0) 0 permuteSlot).permutePlan false (slot permuteSlot) = .goes w) ∧
    (let d := job.setCtl fun c => { c with permute := some (running false) }
     d.ctl.permute = some (running false) ∧ (running false).adopt = false ∧ (running false).sentDone = true ∧ (running false).need = 0 ∧
       (running false).writes = [] ∧
       ((d.members'.filter fun a => !d.ctl.mapped.testBit a && (d.peer a).state == 3 && a != d.ctl.address).all (running false).dones.contains) = true) ∧
    ((permuting 8 1).ctl.permute = none ∧ (headed (permuting 8 1) 0 permuteSlot).head 0 = some (slot permuteSlot) ∧
      ∃ w, (headed (permuting 8 1) 0 permuteSlot).permutePlan true (slot permuteSlot) = .goes w) ∧
    ((job.setCtl fun c => { c with permute := some (running true) }).ctl.permute = some (running true) ∧ (running true).adopt = true ∧
      (running true).mismatch = false ∧ (running true).need = 0) ∧
    (let m := rx 3 0 [(2, 1)] (zeros 64)
     let d0 := hears (shards.setCtl fun c => { c with permute := some { running false with need := 64 }, banks := tset c.banks 1 (tget [] c.banks 0) }) 0x60 m
     let d := d0.taken 0x60 m
     d0.inOrder 0x60 m = true ∧ d0.permuting (m.par 26 2) = true ∧ d0.ctl.permute = some { running false with need := 64 } ∧
       (d.shardAt (1 - d.ctl.bank) (m.par 24 2)).valid = true ∧ (d.shardAt (1 - d.ctl.bank) (m.par 24 2)).owner = d.ctl.address ∧
       m.par 32 8 + m.body.length ≤ (d.shardAt (1 - d.ctl.bank) (m.par 24 2)).len) ∧
    (let m := rx 3 0 [(2, 1)] []
     let d := hears (job.setCtl fun c => { c with permute := some (running false) }) 0x61 m
     d.inOrder 0x61 m = true ∧ d.permuting (m.par 26 2) = true) := by
  refine ⟨⟨by decide +kernel, goes_some (by decide +kernel)⟩, by decide +kernel, ⟨by decide +kernel, by decide +kernel, goes_some (by decide +kernel)⟩, by decide +kernel,
    by decide +kernel, by decide +kernel⟩

/-! ### The step and its lifelines -/

/-- Planes in state `st` with the pattern and no step open. -/
def loaded (st : Nat) : Dev := job.setCtl fun c => { c with state := st, txn := none }

/-- Step 1 with TXN_END executed on every colony ring, as `f` leaves it. -/
def settling (f : Txn → Txn) : Dev := job.setTxn fun t => f { t with ends := 1 }

/-- A COMMIT at the head of the control ring of an open step, and one that has started. -/
def openRing (d : Dev) (l : Tab Nat) : Dev := (headed d 0 l).setRing 0 fun x => { x with openAhead := true }
def committing (d : Dev) : Dev := { d.setPeer 1 (fun p => { p with state := 3, cleanStep := 1 }) with acts := [{ active 0 [(0, 0x0D)] with hold := true }] }

theorem witness_StepCommands :
    (let l := [(0, 0x0B), (16, 1)]
     let d := headed (loaded 4) 0 l
     d.ready 0 0x0B false (slot l) = true ∧ d.retryReady = true ∧ d.digestsAgree = true ∧ flagInput (slot l).bytes = false ∧ field (slot l).bytes 16 8 = d.stepNo) ∧
    (let l := [(0, 0x0C)]
     (headed job 1 l).ready 1 0x0C false (slot l) = true ∧ flagInput (slot l).bytes = false) ∧
    (let t := { txnOf 1 0 [1] with ends := 1 }
     let d := (settling id).withdrawUses
     d.ctl.txn = some t ∧ d.settled = true ∧ t.settledOnce = false ∧ d.frogInputsOk t = true) ∧
    (let l := [(0, 0x0D)]
     (openRing job l).ready 0 0x0D false (slot l) = true ∧ flagInput (slot l).bytes = false) ∧
    (let t := { txnOf 1 0 [1] with ends := 1, pledged := true, settledOnce := true }
     let d := committing (settling fun t => { t with pledged := true, settledOnce := true })
     d.head 0 = none ∧ d.ctl.txn = some t ∧ d.commitAct.isSome = true ∧ d.settled = true ∧ t.pledged = true ∧ t.settledOnce = true ∧ d.tokens t = true ∧
       d.ctl.drains = []) ∧
    (let l := [(0, 0x0A), (16, 2)]
     (headed (loaded 5) 0 l).ready 0 0x0A false (slot l) = true ∧ byteAt (slot l).bytes 16 = 2 ∧ flagInput (slot l).bytes = false) := by decide +kernel

theorem witness_StepMessages :
    (hears job 0x80 (rx 5 1 [] [])).inOrder 0x80 (rx 5 1 [] []) = true ∧
    (let t := txnOf 1 0 [1]
     let d := hears job 0x81 (rx 5 1 [] [])
     d.inOrder 0x81 (rx 5 1 [] []) = true ∧ d.ctl.txn = some t ∧ t.aborted = false ∧ (rx 5 1 [] []).step = t.step ∧ t.fence.contains 1 = true) ∧
    (let t := { txnOf 1 0 [1] with aborted := true }
     let d := job.setTxn fun t => { t with aborted := true }
     d.ctl.txn = some t ∧ t.aborted = true ∧ t.closed = false ∧ t.abortSent = false ∧ d.abortWaits t = false) ∧
    (let t := txnOf 1 0 [1]
     let d := hears job 0x82 (rx 5 1 [(0, 14)] [])
     d.inOrder 0x82 (rx 5 1 [(0, 14)] []) = true ∧ d.ctl.txn = some t ∧ t.step = 1 ∧ d.ctl.committed < 1 ∧ t.aborted = false ∧ t.pledged = false) ∧
    (let t := { txnOf 1 0 [1] with pledged := true }
     let d := hears (job.setTxn fun t => { t with pledged := true }) 0x82 (rx 5 1 [(0, 14)] [])
     d.inOrder 0x82 (rx 5 1 [(0, 14)] []) = true ∧ d.ctl.txn = some t ∧ t.pledged = true ∧ (d.peer 1).cleanStep ≠ 1) ∧
    (∀ got, let t := { txnOf 1 0 [1] with lostWait := true, gotCommitting := got }
     let d := job.setTxn fun t => { t with lostWait := true, gotCommitting := got }
     d.ctl.txn = some t ∧ t.aborted = false ∧ t.lostWait = true ∧ (t.gotCommitting && d.settled && d.quorum) = false) ∧
    (let d := loaded 8
     let e := d.setPeer 1 fun p => { p with state := 3 }
     d.ctl.state = 8 ∧ d.quorum = true ∧ (d.reachable.all fun a => a == d.ctl.address || (d.peer a).committed == d.ctl.committed) = true ∧
       e.quorum = true ∧ (e.reachable.all fun a => a == e.ctl.address || (e.peer a).committed == e.ctl.committed) = true) := by decide +kernel

/-- A restore of step 0 from the buddy that has `n` bytes, and one from the host. -/
def restoring (tier : Nat) (image : List PB) : Dev :=
  { (loaded 4).setCtl (fun c => { c with restore := some (1, image, false) }) with acts := [active 0 [(0, 0x0E), (17, tier)]] }

/-- The header of a complete image of step 1, 256 bytes long, held for ward 1. -/
def holding : Dev := { loaded 4 with mem := ⟨[(0xA000200000, 1), (0xA00020003A, 1), (0xA000200041, 1)], [], 0⟩ }

theorem witness_LifelineCommands_buddy_drain_end :
    (let x : Drain := ⟨false, 0, none, 0, 0, 9, []⟩
     let d := (loaded 4).setCtl fun c => { c with drains := [x] }
     (d.ctl.drains.find? fun x => x.host == false) = some x ∧ d.outstanding x.msgs = false) := by decide +kernel

theorem witness_LifelineCommands_host_drain_end :
    (let x : Drain := ⟨true, 0, none, 0, 0, 0, zeros 256⟩
     let d := (loaded 4).setCtl fun c => { c with drains := [x] }
     (d.ctl.drains.find? fun x => x.host == true) = some x ∧ d.hostReady = true ∧ d.host.waiting = []) := by decide +kernel

theorem witness_LifelineCommands_mirror :
    (let d := (loaded 4).setCtl fun c => { c with mirrorQueue := [(0, 256)], mirrorSize := 512 }
     d.ctl.mirrorQueue = [(0, 256)] ∧ d.ctl.mirrorSize ≠ 0 ∧ d.host.linkUp = true ∧ mirrorRoom d.ctl.mirrorHead d.ctl.mirrorTail d.ctl.mirrorSize 256 = true ∧
       mirrorRoom d.ctl.mirrorHead 255 d.ctl.mirrorSize 256 = false) := by decide +kernel

theorem witness_LifelineCommands_host_drain :
    (let l := [(0, 0x0E), (16, 1), (17, 1), (18, 1)]
     (headed (loaded 4) 0 l).ready 0 0x0E false (slot l) = true ∧ byteAt (slot l).bytes 16 = 1 ∧ ((loaded 4).ctl.drains.any (·.host)) = false ∧
       flagInput (slot l).bytes = false ∧ byteAt (slot l).bytes 17 ≤ 1 ∧ byteAt (slot l).bytes 18 ≤ 1) := by decide +kernel

theorem witness_LifelineCommands_restore :
    (∀ tier ∈ [0, 1], let l := [(0, 0x0E), (17, tier), (18, 1)]
     (headed (loaded 4) 0 l).ready 0 0x0E false (slot l) = true ∧ byteAt (slot l).bytes 16 = 0 ∧ (loaded 4).ctl.drains = [] ∧ flagInput (slot l).bytes = false ∧
       byteAt (slot l).bytes 17 = tier ∧ byteAt (slot l).bytes 18 ≤ 1) ∧
    (headed (loaded 4) 0 []).buddy = some 1 ∧ ((headed ((loaded 4).setPeer 1 fun p => { p with state := 3 }) 0 []).peer 1).state = 3 ∧
    ((headed (loaded 4) 0 []).peer 1).state ≠ 3 := by decide +kernel

theorem witness_LifelineCommands_image_messages :
    (∀ typ ∈ [0x90, 0x91, 0x94], let d := hears (restoring 0 []) typ (rx 4 0 [] [])
      d.inOrder typ (rx 4 0 [] []) = true ∧ (d.taken typ (rx 4 0 [] [])).fetching (rx 4 0 [] []) = some (1, []) ∧ (rx 4 0 [] []).par 32 8 = ([] : List PB).length) := by decide +kernel

theorem witness_LifelineCommands_ward_messages :
    (∀ typ ∈ [0x90, 0x91, 0x92], let m := rx 4 0 [(0, 1)] []
      let d := hears (loaded 4) typ m
      d.inOrder typ m = true ∧ (d.taken typ m).fetching m = none ∧ m.par 24 2 = m.src) := by decide +kernel

theorem witness_LifelineCommands_image_end :
    (let m := rx 4 0 [] []
     let d := hears (restoring 0 []) 0x92 m
     d.inOrder 0x92 m = true ∧ (d.taken 0x92 m).fetching m = some (1, []) ∧ m.poisoned = false ∧ m.par 32 8 = ([] : List PB).length ∧
       m.bytes = ((([] : List PB).drop 72).take 32).map (·.1)) := by decide +kernel

theorem witness_LifelineCommands_fetch :
    (let m := rx 4 1 [(0, 1)] []
     let d := hears (loaded 4) 0x93 m
     let e := hears holding 0x93 m
     d.inOrder 0x93 m = true ∧ (d.taken 0x93 m).heldImage (m.par 24 2) m.step = none ∧ e.inOrder 0x93 m = true ∧
       ((e.taken 0x93 m).heldImage (m.par 24 2) m.step).map (fun h => (h.1, field (h.2.map (·.1)) 64 8)) = some (0xA000200000, 256) ∧ m.par 40 8 = 0) := by decide +kernel

theorem witness_LifelineCommands_read_completion :
    (∀ n ∈ [0, 540928], let r : HostRead := ⟨3, 0, 1, 0, 64⟩
     let d := (restoring 1 (List.replicate n (0, false))).setHost fun h => { h with reads := [r] }
     d.host.linkUp = true ∧ (d.takeRead 3).1 = some r ∧ (d.takeRead 3).2.ctl.restore.isSome = true ∧ zeros 63 ≠ [] ∧ (zeros 63).length < r.len ∧
       (zeros 64).length = r.len ∧ ((d.takeRead 3).2.act r.uid).isSome = true ∧ d.host.busMaster = true ∧ d.host.d3hot = false) ∧
    64 < imageLength (loaded 4).regions := by decide +kernel

/-- The restore of the last clause holds the image but for its last 64 bytes. -/
theorem witness_LifelineCommands_image (n : Nat) (h : n = 540928) :
    imageLength (loaded 4).regions ≤ ((List.replicate n ((0, false) : PB)) ++ clean (zeros 64)).length := by
  rw [List.length_append, List.length_replicate, h]
  decide +kernel

/-! ### Tiles and patterns -/

/-- A GEMM of one element with local operands, whose headers read 0; a STREAM of one element; a CAST of one element to the partition. -/
def gemmSlot : Tab Nat := [(0, 0x01), (23, 0x80), (26, 2), (31, 0x80), (32, 1), (36, 1), (40, 1), (45, 0xFF), (50, 3), (52, 0xA0)]
def streamSlot : Tab Nat := [(0, 0x02), (16, 1), (20, 1), (34, 3), (36, 0xA0)]
def castSlot : Tab Nat := [(0, 0x03), (18, 4), (20, 0xA0), (31, 0x80), (32, 1), (36, 1), (40, 2)]

/-- Operands in an LLM slice, streamed; a part of the GEMM on tile 0 that has accumulated nothing, and one of a ladder unit. -/
def operand : OpSrc := ⟨0xA000040000, [], false, 7, 0, 33856, 0, 0, true, 0, 1⟩
def part : Part := { part0 ⟨0, 0, 1, 1, 1⟩ 1 false 0 with opA := operand, opB := operand }
def unit' (cur : Nat) : Part := { part0 ⟨0, 0, 1, 1, 1⟩ 1 true 0 with castDone := true, cur := cur }

/-- The GEMM at work on tile 0, as `f` leaves the tile. -/
def working (l : Tab Nat) (q : Part) (f : Tile → Tile) : Dev := { job.setTile 0 f with acts := [{ active 1 l with parts := [q] }] }

/-- A bank that holds output tile (0, 0). -/
def bank : BankRec := ⟨1, 0, false, ⟨0, 0, 0, false, false, 1, 1, [], 0, 0⟩, [], []⟩

theorem witness_TileCommands_start :
    (((headed job 1 gemmSlot).ready 1 0x01 false (slot gemmSlot) = true ∧ ((headed job 1 gemmSlot).shareTiles 0 (slot gemmSlot).bytes).getD [] = [0] ∧
      ∀ p < 104, (headed job 1 gemmSlot).tableClean (tableKey 4 p) = true) ∧ ∃ w, (headed job 1 gemmSlot).gemmPlan 1 (slot gemmSlot) = .goes w) ∧
    ((headed job 1 streamSlot).ready 1 0x02 false (slot streamSlot) = true ∧ ∃ w, (headed job 1 streamSlot).streamPlan 1 (slot streamSlot) = .goes w) ∧
    ((headed job 1 castSlot).ready 1 0x03 false (slot castSlot) = true ∧ ∃ w, (headed job 1 castSlot).castPlan 1 (slot castSlot) = .goes w) :=
  ⟨⟨by decide +kernel, goes_some (by decide +kernel)⟩, ⟨by decide +kernel, goes_some (by decide +kernel)⟩, ⟨by decide +kernel, goes_some (by decide +kernel)⟩⟩

theorem witness_TileCommands_flow :
    (∀ ofB : Bool, ((working gemmSlot part id).segmentJob 0 ofB).isSome = true) ∧
    (let d := working gemmSlot part fun t => { t with banks := [(0, bank)] }
     d.physOf 0 = some 0 ∧ (d.postJob 0 0).isSome = true) ∧
    (let d := working gemmSlot part fun t => { t with queue := t.queue.set 0 ⟨2, 1, 0, 0, 0⟩ }
     d.physOf 0 = some 0 ∧ (d.drainJob 0 0).isSome = true) := by decide +kernel

theorem witness_TileCommands_ladder :
    (∀ cur ∈ [0, 1], let d := working castSlot (unit' cur) id
      d.unitEnded 0 = some ({ active 1 castSlot with parts := [unit' cur] }, unit' cur) ∧ d.tilesRun = true ∧ (unit' cur).reported = false) ∧
    (let q := { unit' 1 with reported := true }
     let d := working castSlot q id
     d.unitEnded 0 = some ({ active 1 castSlot with parts := [q] }, q) ∧ d.tilesRun = true) ∧
    (let d := working castSlot (unit' 1) id
     let p := { profile with target := .b16 }
     let e := d.setCtl fun c => { c with pattern := some { pattern with colonies := [(0, ⟨[(0, p)], []⟩)] } }
     e.unitProfile { active 1 castSlot with parts := [unit' 1] } = some p ∧ nextRung p false (unit' 1).rung (unit' 1).cur = none) ∧
    (let d := working [(0, 0x03)] (unit' 1) id
     let a := { active 1 [(0, 0x03)] with parts := [unit' 1] }
     let p := { profile with target := .f4 }
     let e := d.setCtl fun c => { c with pattern := some { pattern with colonies := [(0, ⟨[(0, p)], []⟩)] } }
     (unit' 1).cur ≠ 0 ∧ e.unitProfile a = some p ∧ (nextRung p (decide (1 ≤ (tget (0, 0) e.ctl.storm (layerOf a.bytes)).1)) (unit' 1).rung (unit' 1).cur).isSome = true) := by
  decide +kernel

/-- A check at a stage, with the digests that its tiles formed; its profile is not defined, so that the digest formed is empty. -/
def check (stage : Nat) (d1 dp : List Byte) : Check :=
  { stage := stage, uid := 1, ring := 1, bytes := bytesAt 64 [(0, 0x01), (44, 9)], iota := 0, step := 1, tile := 0, phys := 0, partner := 24, under := 25, i := 0, j := 0,
    opA := operand, opB := operand, ranges := [], d1 := d1, dp := dp, d2 := [], sumFail := false, ordinal := 0 }

theorem witness_TileCommands_checks :
    ∀ c ∈ [check 0 [] [], check 0 [1] [], check 1 [] [], check 1 [] [1], check 2 [] [1]],
      let d := job.setTile 24 fun t => { t with checks := [c] }
      (d.tile 24).checks = [c] ∧ d.tilesRun = true ∧ (d.tile 24).banks.length < 2 ∧ (d.recompute 24 0 c).1 = [] ∧
        ((c.stage = 0 ∧ ([] = c.d1 ∨ (((d.setTile 24 popCheck).setLogical c.tile fun t => { t with dupMismatch := satAdd 32 t.dupMismatch 1 }).health 32).physOf c.tile = some 0)) ∨
          (c.stage = 1 ∧ ([] = c.dp ∨ [] ≠ c.dp)) ∨ c.stage = 2) := by
  decide +kernel

theorem witness_PatternCommands :
    (let l : Loading := ⟨true, 0, 0, 0, 3, false⟩
     (at' 3).readable 0x1007C = true ∧ (dev 3).ctl.loading = none ∧ (dev 3).ctl.state = 3 ∧ (loaded 4).ctl.state = 4 ∧ l = ⟨true, 0, (dev 3).ctl.patBase, (dev 3).ctl.patAddr, (dev 3).ctl.state, false⟩ ∧
       ((dev 3).beginLoad l).quiet l = true) ∧
    (let m : Tab Nat := [(0, 0x0A), (16, 1), (28, 0xA0)]
     let d := headed (loaded 4) 0 m
     let st := d.start 0 (slot m) [(addr40 (slot m).bytes 24, 256)] []
     let l : Loading := ⟨false, st.1.uid, addr40 (slot m).bytes 24, 0, 4, false⟩
     d.ctl.loading = none ∧ d.ready 0 0x0A false (slot m) = true ∧ byteAt (slot m).bytes 16 = 1 ∧ flagInput (slot m).bytes = false ∧ d.moultReady = true ∧
       d.mapped (addr40 (slot m).bytes 24) 256 = true ∧ (st.2.beginLoad l).quiet l = true) := by decide +kernel

/-! ### Management -/

theorem witness_MailboxAndTransports :
    (at' 3).d.reached = true ∧ (hears job 0xA0 (rx 6 0 [(0, 5)] [])).inOrder 0xA0 (rx 6 0 [(0, 5)] []) = true ∧ (at' 3).d.ctl.state ≠ 0 := by decide +kernel

theorem witness_ControlAndBaseAnswers :
    (∀ p ∈ [Path.i3c, .vdm, .mailbox], (at' 3).answers p .control = true ∧ (at' 3).answers p (.pldm 0) = true) ∧ 1 < 2 ∧ 254 ≤ 254 ∧ 5 ∈ messageTypes ∧
      5 ∈ [0, 2, 5] := by decide +kernel

theorem witness_PldmMonitoringAnswers :
    (at' 3).answers .i3c (.pldm 2) = true ∧ (1 ≤ 47 ∧ 47 ≤ 47) ∧ (1 ≤ 36 ∧ 36 ≤ 36) ∧ (at' 3).stateSensor 64 = some 3 ∧ 4095 < effecterRange 1 ∧ (1 ≤ 8 ∧ 8 ≤ 8) := by
  decide +kernel

/-- An update at stage `n`, on MCTP over I3C. -/
def updating (n : Nat) : State := managed 3 fun x => { x with upStage := n, upOk := true, upMax := 64 }

theorem witness_FirmwareRequests :
    (updating 0).answers .i3c (.pldm 5) = true ∧ (updating 0).sec.upStage = 0 ∧ 1 ≤ 1 ∧ (updating 1).sec.upStage = 1 ∧ bitAt 4 2 = true ∧
      (3 ≤ (updating 5).sec.upStage ∧ (updating 5).sec.upStage ≤ 5) ∧ (updating 6).sec.upStage ≠ 0 ∧
      ∀ n ∈ [1, 5, 6], (updating n).answers .i3c (.pldm 5) = true := by decide +kernel

theorem witness_FirmwareTransfer :
    (∀ n ∈ [2, 3, 4, 5], (updating n).answers .i3c (.pldm 5) = true ∧ (updating n).sec.upStage = n) ∧ (updating 3).sec.upData.length = (updating 3).sec.upSize ∧
      (updating 2).sec.upOk = true ∧ (updating 2).sec.recovery = false := by decide +kernel

theorem witness_VendorCommands :
    (withDev (job.setPeer 1 fun p => { p with state := 3 })).answers .i3c .vendor = true ∧ (withDev job).d.reached = true ∧
      byteAt (bytesAt 8 [(0, 1), (3, 0xE0)]) 3 = 0xE0 ∧
      ((withDev (job.setPeer 1 fun p => { p with state := 3 })).d.peer (field (bytesAt 8 [(0, 1), (3, 0xE0)]) 0 2)).state = 3 := by decide +kernel

/-- A connection over a path, as `f` leaves it. -/
def speaking (p : Path) (f : Spdm → Spdm) : State := managed 3 fun x => { x with attest := true, spdm := [f (spdm0 p)] }

theorem witness_SpdmConnection :
    (∀ n ∈ [0, 1, 2, 3], (speaking .doe fun c => { c with stage := n }).answers .doe .spdm = true ∧ ((speaking .doe fun c => { c with stage := n }).conn .doe).stage = n) ∧
    42 ≤ field (bytesAt 20 [(12, 42)]) 12 4 ∧
    (let req := bytesAt 40 [(28, 1), (32, 4), (34, 1)]
     offers req 32 (byteAt req 28) 1 = true) ∧
    (let req := zeros 44
     byteAt req 2 = 0 ∧ byteAt req 3 = 0 ∧ 44 ≤ req.length) ∧ (speaking .doe id).sec.attest = true ∧
    (let req := bytesAt 12 [(3, 0xFF)]
     byteAt req 2 = 0 ∧ byteAt req 3 = 0xFF ∧ 12 ≤ req.length) := by decide +kernel

theorem witness_SpdmSession :
    (let s := speaking .doe fun c => { c with stage := 3, keyExchange := true }
     let req := zeros 138
     s.answers .doe .spdm = true ∧ (s.conn .doe).stage = 3 ∧ (s.conn .doe).keyExchange = true ∧ (s.conn .doe).session = 0 ∧ byteAt req 2 = 0 ∧ byteAt req 3 = 0 ∧
       138 ≤ req.length ∧ s.sec.attest = true) ∧
    (let s := speaking .doe fun c => { c with stage := 3, session := 2, sessionId := 7 }
     let req := bytesAt 64 [(4, 3), (6, 2), (7, 1)]
     s.answers .doe .spdm = true ∧ (s.conn .doe).session = 2 ∧ (s.conn .doe).sessionId = 7 ∧ field req 4 2 = 3 ∧ byteAt req 6 = 2 ∧ field req 7 2 = 1 ∧ byteAt req 11 = 0) ∧
    (let req := bytesAt 16 [(14, 1)]
     field req 4 2 = 0 ∧ bitAt (byteAt req 2) 0 = false ∧ 1 ≤ field req 12 4 ∧ field req 12 4 ≤ 65536 ∧ ((req.drop 16).take (field req 8 4)).length ≤ field req 12 4) ∧
    (∀ last ∈ [0, 1], let s := speaking .doe fun c => { c with chunkIn := [0], chunkInSize := 2, chunkInHandle := 9, chunkInSeq := 0 }
     let req := bytesAt 13 [(2, last), (3, 9), (4, 1), (8, last)]
     let got := (s.conn .doe).chunkIn ++ (req.drop 12).take (field req 8 4)
     s.answers .doe .spdm = true ∧ 1 ≤ (s.conn .doe).chunkInSize ∧ (s.conn .doe).chunkInSize ≤ 65536 ∧ byteAt req 3 = (s.conn .doe).chunkInHandle ∧
       field req 4 2 = (s.conn .doe).chunkInSeq + 1 ∧ got.length ≤ (s.conn .doe).chunkInSize ∧ bitAt (byteAt req 2) 0 = (last == 1) ∧
       (bitAt (byteAt req 2) 0 = true → got.length = (s.conn .doe).chunkInSize)) ∧
    (let s := speaking .doe fun c => { c with chunkOut := [1], chunkOutHandle := 2, chunkOutSeq := 65535 }
     s.answers .doe .spdm = true ∧ (s.conn .doe).chunkOut ≠ [] ∧ 2 = (s.conn .doe).chunkOutHandle ∧ 65535 = (s.conn .doe).chunkOutSeq) := by decide +kernel

/-- A FINISH that carries the verification data of the session. -/
def finish (c : Spdm) : List Byte :=
  [0x13, 0xE5, 0, 0] ++ verifyData c.secret c.peerKey false (exchangeHash c.keys) (shake256 (c.keys ++ [0x13, 0xE5, 0, 0]) 64)

theorem witness_SpdmSession_finish :
    let s := speaking .doe fun c => { c with stage := 3, session := 1 }
    s.answers .doe .spdm = true ∧ (s.conn .doe).session = 1 ∧ bitAt (byteAt (finish (s.conn .doe)) 2) 0 = false ∧
      ((finish (s.conn .doe)).drop 4).take 64 =
        verifyData (s.conn .doe).secret (s.conn .doe).peerKey false (exchangeHash (s.conn .doe).keys) (shake256 ((s.conn .doe).keys ++ (finish (s.conn .doe)).take 4) 64) := by
  refine ⟨by decide +kernel, by decide +kernel, by simp [finish, byteAt, bitAt], ?_⟩
  simp only [finish, List.drop_succ_cons, List.drop_zero, List.cons_append, List.nil_append, List.take_succ_cons, List.take_zero]
  exact List.take_of_length_le (by unfold verifyData hmac shake256; exact List.length_take_le _ _)

/-! ### What every step keeps, and rules of the whole module -/

theorem witness_StepKeepsRanges : State.reset.ok = true ∧ ∃ t, step { State.reset with pending := [.healthTick] } = .next t := by
  refine ⟨by decide +kernel, ?_⟩
  simp only [step, exec, execHealthTick, nextS]
  exact ⟨_, rfl⟩

theorem witness_StepKeepsMemoryCanonical : State.reset.d.mem.canonical = true ∧ holding.mem.canonical = true := by decide +kernel

theorem witness_ManagementLeavesThePlanes :
    managementOnly (.getTid .i3c) = true ∧ managementOnly (.bar0RsRead 0 0 .core) = true ∧ (at' 3).d.noHead = true ∧ bringsRecord (.getTid .i3c) = false := by
  decide +kernel

theorem witness_StackPlaceIsOneToOne :
    0x8FFFFFFFFF < 0x9000000000 ∧ (stackPlace 0x8FFFFFFFFF).m < 8 ∧ (stackPlace 0x8FFFFFFFFF).row < 18432 ∧ 255 / 256 = 0 / 256 ∧ 7 < 8 ∧ 63 < 64 := by
  decide +kernel

theorem witness_WholeSectorsReadBack :
    let s := at' 3
    s.d.mem.canonical = true ∧ s.d.reached = true ∧ s.d.noHead = true ∧ s.d.bar2Reach 0xA000000000 64 = true ∧ 0xA000000000 % 64 = 0 ∧
      (zeros 64).length = 64 ∧ s.d.regionOf 0xA000000000 = none ∧ s.d.key false 0xA000000000 = some 0xA000000000 ∧ 0xA000000000 < 0xB000000000 ∧
      s.d.key false 0 = some 0 := by decide +kernel

theorem witness_AliasesReachTheirRegister : bar0Refused 0x3FFFFFC 1 = false ∧ (at' 3).d.reached = true := by decide +kernel

/-- The word that a register offset reads as. -/
def isLow : RegWord → Bool
  | .low _ => true
  | _ => false
def isHigh : RegWord → Bool
  | .high _ => true
  | _ => false

theorem witness_ShadowsAreSeparate : isLow ((at' 3).regWord 0x10) = true ∧ isHigh ((at' 3).regWord 0x14) = true := by decide +kernel

theorem witness_UnpoweredBlocksReadZero :
    (let s := power 3 fun p => { p with bootOrder := 4 }
     s.d.reached = true ∧ bar0Refused 0x100000 1 = false ∧ s.readable (canonical 0x100000) = false ∧ s.pwr.bootOrder < 5) ∧
    (power 3 fun p => { p with bootOrder := 3 }).pwr.bootOrder < 4 ∧ (power 3 fun p => { p with bootOrder := 3 }).d.reached = true ∧ 10 ≤ 10 ∧ (0x4FFFFF < 0x100000 ∨ (0x480000 ≤ 0x4FFFFF ∧ 0x4FFFFF < 0x1000000)) ∧
    103 < 104 ∧ 0x3FFF < 0x4000 ∧ (power 3 fun p => { p with deadDies := [3, 11, 13] }).pwr.deadDies.contains (103 / 26) = true ∧ 7 < 8 ∧ 0xFFFF < 0x10000 ∧
    (power 3 fun p => { p with deadDies := [3, 11, 13] }).pwr.deadDies.contains (4 + 7) = true ∧ 31 < 32 ∧
    (power 3 fun p => { p with deadDies := [3, 11, 13] }).pwr.deadDies.contains (12 + 31 / 16) = true := by decide +kernel

theorem witness_CodesAreTheCodesOfTheirValues :
    ∀ f ∈ [Fmt.b16, .f8e4, .f4], 0 < 2 ^ (fracBits f + expBits f + if f = .s8 then 0 else 1) ∧ decodeF f 0 ≠ .nan := by decide +kernel

theorem witness_RoundingStaysInRange : (1 : Rat) ≠ 0 ∧ rabs 1 ≤ maxFinite .b16 ∧ maxFinite .f4 ≠ 0 ∧ rabs (maxFinite .f4) ≤ maxFinite .f4 := by decide +kernel

theorem witness_IllegalStateHasNoEffect :
    let l := [(0, 0x0B)]
    let d := headed (dev 3) 0 l
    (0x0B, Instr.txnBegin) ∈ startingCommands 0 ∧ d.head 0 = some (slot l) ∧ kindOf (slot l).bytes = 0x0B ∧ (slot l).fetch = 0 ∧
      (isColony 0 && (d.ring 0).ended) = false ∧ d.judge 0 (slot l).bytes false = .illegal := by decide +kernel

theorem witness_HaltedRingsWait :
    (let d := headed (dev 3) 9 [(0, 0x08)]
     (d.ring 9).queue = [slot [(0, 0x08)]] ∧ halts 0x0C = true ∧ (d.ring 9).sCplDev = false) ∧
    (((dev 3).setRing 9 fun x => { x with halted := true }).ring 9).halted = true ∧ (0x08, Instr.fill 9) ∈ startingCommands 9 ∧ ring0.halted = false := by
  decide +kernel

theorem witness_SequencedMessagesActOnce :
    ∀ n ∈ [4, 6], let m := { rx 5 1 [] [] with seq := n }
      let d := (hears job 0x80 m).setPeer 1 fun p => { p with rx := p.rx.set 5 5 }
      (0x80, Instr.clean) ∈ sequencedCommands ∧ d.arrived 0x80 m = true ∧ m.sequenced = true ∧ (d.peer m.src).state = 3 ∧
        (peerSectors m.src).all d.tableClean = true ∧ m.seq ≠ (d.peer m.src).rx.getD m.cls 0 ∧
        ((n = 4 ∧ ((d.peer m.src).rx.getD m.cls 0 + 2 ^ 32 - m.seq) % 2 ^ 32 < 2 ^ 31) ∨
          (n = 6 ∧ 2 ^ 31 ≤ ((d.peer m.src).rx.getD m.cls 0 + 2 ^ 32 - m.seq) % 2 ^ 32)) := by
  intro n h
  refine ⟨by simp [sequencedCommands], ?_⟩
  revert n
  decide +kernel

/-- Two modules of one pattern of three members that do not reach each other; the pattern's anchor, member 0, is one of them. -/
theorem witness_QuorumIsExclusive :
    let three : Pattern := { pattern with members := pattern.members ++ [⟨0, 0, 0⟩] }
    let d := job.setCtl fun c => { c with pattern := some three }
    let e := job.setCtl fun c => { c with pattern := some three, address := 2 }
    d.ctl.pattern = some three ∧ e.ctl.pattern = some three ∧ (∀ a, a ∈ d.reachable → a ∉ e.reachable) ∧ d.quorum = false := by decide +kernel

theorem witness_LoopsStayInRange :
    (2 ≤ Pwr.reset.nCap ∧ Pwr.reset.nCap ≤ 16) ∧ Pwr.reset.capEnable = true ∧ 2400 < 2401 ∧ capOf Pwr.reset < 2401 ∧ 2349 + 50 < capOf Pwr.reset ∧
      (2350 ≤ capOf Pwr.reset ∧ capOf Pwr.reset ≤ 2350 + 50) ∧ ({ Pwr.reset with capEnable := false }).capEnable = false ∧ (2 ≤ 2 ∧ 2 ≤ 16) ∧
      State.reset.ok = true ∧ 255 * 65536 ≤ 255 * 65536 := by decide +kernel

theorem witness_AbortsKeepTheCommittedView :
    (let t := { txnOf 1 0 [1] with aborted := true }
     (job.setTxn fun t => { t with aborted := true }).ctl.txn = some t ∧ t.aborted = true) ∧
    (job.ctl.txn = some (txnOf 1 0 [1]) ∧ (txnOf 1 0 [1]).aborted = false ∧ (txnOf 1 0 [1]).pledged = false) ∧
    (let t := { txnOf 1 0 [1] with pledged := true }
     (job.setTxn fun t => { t with pledged := true }).ctl.txn = some t ∧ t.aborted = false ∧ t.pledged = true ∧ pledgedCause 12 = true ∧ pledgedCause 11 = false) := by
  decide +kernel

end Sys2Proof.Tests
end

section
/-! SUPPORT. The grid of a format around a value of its range (R84, R88, R90): the largest finite value is a whole number of quanta of
every value that does not exceed it, so neither grid point beside the value lies beyond it. -/
namespace Sys2Proof.Machine
open Sys2Proof

/-! ### Powers of two and the binary exponent -/

theorem rabs_eq_abs (x : Rat) : rabs x = |x| := by
  unfold rabs
  split
  case isTrue h => exact (abs_of_neg h).symm
  case isFalse h => exact (abs_of_nonneg (not_lt.mp h)).symm

theorem pow2_eq_zpow (e : Int) : pow2 e = (2 : Rat) ^ e := by
  cases e with
  | ofNat n => simp [pow2]
  | negSucc n => simp [pow2, zpow_negSucc]

theorem pow2_pos (e : Int) : 0 < pow2 e := by
  rw [pow2_eq_zpow]
  positivity

theorem pow2_lt_pow2_iff {a b : Int} : pow2 a < pow2 b ↔ a < b := by
  simp only [pow2_eq_zpow]
  exact zpow_lt_zpow_iff_right₀ one_lt_two

/-- The numerator of `x` has no fewer bits than its logarithm says and the denominator no more, so the estimate of `floorLog2` is at
most one too large. -/
theorem pow2_log2_sub_log2_sub_one_le {x : Rat} (hx : 0 < x) :
    pow2 ((Nat.log2 x.num.natAbs : Int) - (Nat.log2 x.den : Int) - 1) ≤ x := by
  have hnum : (2 : Rat) ^ Nat.log2 x.num.natAbs ≤ x.num := by
    have hpos : 0 < x.num := Rat.num_pos.mpr hx
    have hle : 2 ^ Nat.log2 x.num.natAbs ≤ x.num.natAbs := Nat.log2_self_le (by omega)
    have habs : (x.num.natAbs : Int) = x.num := by omega
    rw [← habs]
    exact_mod_cast hle
  have hden : (x.den : Rat) ≤ 2 ^ (Nat.log2 x.den + 1) := by exact_mod_cast Nat.lt_log2_self.le
  calc pow2 ((Nat.log2 x.num.natAbs : Int) - (Nat.log2 x.den : Int) - 1)
      = 2 ^ Nat.log2 x.num.natAbs / 2 ^ (Nat.log2 x.den + 1) := by
        rw [pow2_eq_zpow, sub_sub, zpow_sub₀ two_ne_zero]
        norm_cast
    _ ≤ x.num / x.den := div_le_div₀ (by exact_mod_cast (Rat.num_pos.mpr hx).le) hnum (by exact_mod_cast x.den_pos) hden
    _ = x := x.num_div_den

theorem pow2_floorLog2_le {x : Rat} (hx : 0 < x) : pow2 (floorLog2 x) ≤ x := by
  simp only [floorLog2]
  split
  case isTrue h => exact h
  case isFalse => exact pow2_log2_sub_log2_sub_one_le hx

/-! ### Rounding onto a grid -/

/-- Rounding leaves a value of the grid, and takes any other to one of the two grid points beside it, whatever the mode (R84). -/
theorem roundTo_cases {q : Rat} (hq : 0 < q) (r : Rnd) (x : Rat) :
    roundTo q r x = x ∨
      ∃ n : Int, (n : Rat) * q < x ∧ x < (n + 1) * q ∧ (roundTo q r x = n * q ∨ roundTo q r x = (n + 1) * q) := by
  by_cases hx : x = 0
  · exact .inl (by simp [roundTo, hx])
  by_cases hd : x / q - (x / q).floor = 0
  · exact .inl (by simp [roundTo, hd])
  have hfloor : ((x / q).floor : Rat) ≤ x / q := Rat.floor_le _
  have hlow : ((x / q).floor : Rat) < x / q := lt_of_le_of_ne hfloor fun h => hd (sub_eq_zero.mpr h.symm)
  have hhigh : x / q < (x / q).floor + 1 := Int.lt_floor_add_one (x / q)
  refine .inr ⟨(x / q).floor, (lt_div_iff₀ hq).mp hlow, (div_lt_iff₀ hq).mp hhigh, ?_⟩
  simp only [roundTo, hx, hd, if_false]
  split_ifs <;> simp

theorem abs_intCast_mul_le {q : Rat} {k m : Int} (hq : 0 < q) (hlow : -m ≤ k) (hhigh : k ≤ m) : |(k : Rat) * q| ≤ m * q := by
  rw [abs_mul, abs_of_pos hq]
  exact mul_le_mul_of_nonneg_right (by exact_mod_cast abs_le.mpr ⟨hlow, hhigh⟩) hq.le

/-- A bound that lies on the grid is a bound of the rounded value too. -/
theorem abs_roundTo_le {q x : Rat} {m : Int} (hq : 0 < q) (hx : |x| ≤ m * q) (r : Rnd) : |roundTo q r x| ≤ m * q := by
  obtain h | ⟨n, hlow, hhigh, h⟩ := roundTo_cases hq r x
  · rwa [h]
  obtain ⟨hge, hle⟩ := abs_le.mp hx
  have hn : n + 1 ≤ m := by
    have : (n : Rat) < m := lt_of_mul_lt_mul_right (hlow.trans_le hle) hq.le
    exact_mod_cast this
  have hn' : -m ≤ n := by
    have : ((-m : Int) : Rat) < n + 1 := lt_of_mul_lt_mul_right (by push_cast; linarith) hq.le
    have : -m < n + 1 := by exact_mod_cast this
    omega
  obtain h | h := h
  · rw [h]
    exact abs_intCast_mul_le hq hn' (by omega)
  · rw [h]
    exact_mod_cast abs_intCast_mul_le hq (by omega : -m ≤ n + 1) hn

/-! ### The largest finite value on the grid -/

/-- Exponent of the largest finite value. -/
def maxExp : Fmt → Int
  | .f4 => 2 | .f8e4 => 8 | .f8e5 => 15 | .b16 => 127 | .w32 => 127 | .s8 => 8

/-- Significand of the largest finite value, as a whole number of `sigBits` bits. -/
def maxSig : Fmt → Nat
  | .f4 => 3 | .f8e4 => 14 | .f8e5 => 7 | .b16 => 255 | .w32 => 2 ^ 24 - 1 | .s8 => 14

theorem emin_le_maxExp (f : Fmt) : emin f ≤ maxExp f := by cases f <;> decide

theorem maxFinite_eq_maxSig_mul (f : Fmt) : maxFinite f = maxSig f * pow2 (maxExp f - sigBits f + 1) := by
  cases f <;> decide +kernel

theorem maxFinite_lt_pow2 (f : Fmt) : maxFinite f < pow2 (maxExp f + 1) := by cases f <;> decide +kernel

theorem floorLog2_le_maxExp {f : Fmt} {x : Rat} (hx : 0 < x) (hmax : x ≤ maxFinite f) : floorLog2 x ≤ maxExp f := by
  have : pow2 (floorLog2 x) < pow2 (maxExp f + 1) := (pow2_floorLog2_le hx).trans_lt (hmax.trans_lt (maxFinite_lt_pow2 f))
  have := pow2_lt_pow2_iff.mp this
  omega

theorem quantum_pos (f : Fmt) (x : Rat) : 0 < quantum f x := pow2_pos _

/-- Within the range of the format the quantum is a power of two no larger than the spacing at the largest finite value. -/
theorem exists_quantum_eq_pow2 {f : Fmt} {x : Rat} (hx : |x| ≤ maxFinite f) :
    ∃ e, e ≤ maxExp f ∧ quantum f x = pow2 (e - sigBits f + 1) := by
  refine ⟨_, ?_, rfl⟩
  split
  case isTrue h =>
    rw [rabs_eq_abs]
    exact floorLog2_le_maxExp (abs_pos.mpr h.1) hx
  case isFalse => exact emin_le_maxExp f

theorem exists_maxFinite_eq_mul_quantum {f : Fmt} {x : Rat} (hx : |x| ≤ maxFinite f) :
    ∃ m : Int, maxFinite f = m * quantum f x := by
  obtain ⟨e, he, hq⟩ := exists_quantum_eq_pow2 hx
  obtain ⟨k, hk⟩ := Int.eq_ofNat_of_zero_le (sub_nonneg.mpr he)
  refine ⟨maxSig f * 2 ^ k, ?_⟩
  have hexp : maxExp f - sigBits f + 1 = k + (e - sigBits f + 1) := by omega
  rw [maxFinite_eq_maxSig_mul, hq, hexp]
  simp only [pow2_eq_zpow]
  rw [zpow_add₀ two_ne_zero]
  push_cast
  rw [zpow_natCast, mul_assoc]

theorem rabs_roundGrid_le_maxFinite {f : Fmt} {x : Rat} (hx : rabs x ≤ maxFinite f) (r : Rnd) :
    rabs (roundGrid f r x) ≤ maxFinite f := by
  rw [rabs_eq_abs] at hx ⊢
  obtain ⟨m, hm⟩ := exists_maxFinite_eq_mul_quantum hx
  rw [hm] at hx ⊢
  exact abs_roundTo_le (quantum_pos f x) hx r

/-! ### The rounded value -/

@[simp] theorem numOf_finite (q : Rat) (b : Bool) : (numOf q b).finite = true := by
  unfold numOf
  split <;> rfl

@[simp] theorem numOf_rat (q : Rat) (b : Bool) : (numOf q b).rat = q := by
  unfold numOf
  split
  case isTrue h => exact h.symm
  case isFalse => rfl

/-- Neither overflow mode acts on a value of the format's range: the test of `sat` reads the value, that of `ieee` its grid point
(R88). -/
theorem roundF_of_rabs_le_maxFinite {f : Fmt} {q : Rat} (hq : rabs q ≤ maxFinite f) (r : Rnd) (ov : Ovf) :
    roundF f r ov (.fin q) = ⟨numOf (roundGrid f r q) (decide (q < 0)), false⟩ := by
  cases ov with
  | sat => exact if_neg (not_lt.mpr hq)
  | ieee => exact if_neg (not_lt.mpr (rabs_roundGrid_le_maxFinite hq r))

/-- Settles O53: the two grid points beside a value of the range lie in the range, and a zero is not rounded. -/
theorem roundingStaysInRange : Obligations.RoundingStaysInRange := by
  refine ⟨fun _ _ _ _ => rfl, fun f r ov q _ hq => ?_⟩
  rw [roundF_of_rabs_le_maxFinite hq]
  exact ⟨rfl, numOf_finite _ _, by simpa using rabs_roundGrid_le_maxFinite hq r⟩

end Sys2Proof.Machine
end

section
/-! SUPPORT. The address map of the stacks (R219): stack_place cuts an address into plain digits and then mixes M-die, pseudo-channel and
bank with the digits above them. Each half has an inverse, and `placeAddr` is the two inverses in turn. -/
namespace Sys2Proof.Machine
open Sys2Proof

/-! ### The two halves of stack_place and their inverses -/

/-- Every field within the width of its part of the eight stacks. -/
structure Place.InRange (p : Place) : Prop where
  m : p.m < 8
  pc : p.pc < 64
  bank : p.bank < 64
  row : p.row < 18432
  col : p.col < 4
  sector : p.sector < 4
  byte : p.byte < 64

/-- The digits of an address: R219 without its xor terms. -/
def plainPlace (a : Nat) : Place :=
  ⟨a / 256 % 8, a / 256 / 8 % 64, a / 256 / 8 / 64 % 64, a / 256 / 8 / 64 / 256, a / 256 / 8 / 64 / 64 % 4, a % 256 / 64, a % 64⟩

/-- The address that has the fields of `p` as its digits. -/
def plainAddr (p : Place) : Nat :=
  ((((p.row * 4 + p.col) * 64 + p.bank) * 64 + p.pc) * 8 + p.m) * 256 + p.sector * 64 + p.byte

/-- The xor terms of R219, each over the digits above it. -/
def Place.spread (p : Place) : Place :=
  { p with m := p.m ^^^ p.pc % 8 ^^^ p.pc / 8, pc := p.pc ^^^ p.bank, bank := p.bank ^^^ p.row % 64 }

/-- The xor terms of R219 undone, the highest digit first. -/
def Place.gather (p : Place) : Place :=
  let bank := p.bank ^^^ p.row % 64
  let pc := p.pc ^^^ bank
  { p with m := p.m ^^^ pc % 8 ^^^ pc / 8, pc := pc, bank := bank }

/-! ### Digits and addresses -/

theorem plainPlace_inRange {a : Nat} (ha : a < 0x9000000000) : (plainPlace a).InRange := by
  constructor <;> simp only [plainPlace] <;> omega

theorem plainAddr_plainPlace (a : Nat) : plainAddr (plainPlace a) = a := by
  simp only [plainAddr, plainPlace]
  omega

theorem plainPlace_plainAddr {p : Place} (hp : p.InRange) : plainPlace (plainAddr p) = p := by
  obtain ⟨hm, hpc, hbank, -, hcol, hsector, hbyte⟩ := hp
  obtain ⟨m, pc, bank, row, col, sector, byte⟩ := p
  simp only [plainAddr, plainPlace, Place.mk.injEq] at *
  omega

theorem plainAddr_lt {p : Place} (hp : p.InRange) : plainAddr p < 0x9000000000 := by
  obtain ⟨hm, hpc, hbank, hrow, hcol, hsector, hbyte⟩ := hp
  simp only [plainAddr]
  omega

/-! ### The xor terms -/

theorem xor_lt_sixtyFour {x y : Nat} (hx : x < 64) (hy : y < 64) : x ^^^ y < 64 :=
  Nat.xor_lt_two_pow (n := 6) hx hy

theorem xor_mod_xor_div_lt_eight {x y : Nat} (hx : x < 8) (hy : y < 64) : x ^^^ y % 8 ^^^ y / 8 < 8 :=
  Nat.xor_lt_two_pow (n := 3) (Nat.xor_lt_two_pow hx (Nat.mod_lt y (by decide))) (Nat.div_lt_of_lt_mul hy)

theorem Place.InRange.spread {p : Place} (hp : p.InRange) : p.spread.InRange :=
  { hp with
    m := xor_mod_xor_div_lt_eight hp.m hp.pc
    pc := xor_lt_sixtyFour hp.pc hp.bank
    bank := xor_lt_sixtyFour hp.bank (Nat.mod_lt _ (by decide)) }

theorem Place.InRange.gather {p : Place} (hp : p.InRange) : p.gather.InRange :=
  have hbank := xor_lt_sixtyFour hp.bank (Nat.mod_lt p.row (by decide))
  have hpc := xor_lt_sixtyFour hp.pc hbank
  { hp with m := xor_mod_xor_div_lt_eight hp.m hpc, pc := hpc, bank := hbank }

theorem xor_xor_cancel_pair (x y z : Nat) : x ^^^ y ^^^ z ^^^ y ^^^ z = x := by
  rw [Nat.xor_right_comm x y z, Nat.xor_xor_cancel_right, Nat.xor_xor_cancel_right]

@[simp] theorem Place.gather_spread (p : Place) : p.spread.gather = p := by
  simp only [Place.spread, Place.gather, Nat.xor_xor_cancel_right, xor_xor_cancel_pair]

@[simp] theorem Place.spread_gather (p : Place) : p.gather.spread = p := by
  simp only [Place.spread, Place.gather, Nat.xor_xor_cancel_right, xor_xor_cancel_pair]

/-! ### The model's map and its inverse -/

theorem stackPlace_eq_spread (a : Nat) : stackPlace a = (plainPlace a).spread := by
  have hlow : a / 256 / 8 % 64 % 8 = a / 256 / 8 % 8 := Nat.mod_mod_of_dvd _ (by decide)
  have hhigh : a / 256 / 8 % 64 / 8 = a / 256 / 8 / 8 % 8 := Nat.mod_mul_right_div_self _ 8 8
  simp only [stackPlace, plainPlace, Place.spread, hlow, hhigh]

theorem placeAddr_eq_plainAddr {p : Place} (hp : p.InRange) : placeAddr p = plainAddr p.gather := by
  obtain ⟨-, hpc, hbank, -, -, -, -⟩ := hp.gather
  have hw : (p.row * 256 + p.col * 64 + p.gather.bank) % 64 = p.gather.bank := by omega
  have hlow (w : Nat) : (w * 64 + p.gather.pc) % 8 = p.gather.pc % 8 := by omega
  have hhigh (w : Nat) : (w * 64 + p.gather.pc) / 8 % 8 = p.gather.pc / 8 := by omega
  simp only [Place.gather] at hw hlow hhigh
  simp only [placeAddr, plainAddr, Place.gather, hw, hlow, hhigh]
  omega

theorem stackPlace_inRange {a : Nat} (ha : a < 0x9000000000) : (stackPlace a).InRange :=
  stackPlace_eq_spread a ▸ (plainPlace_inRange ha).spread

theorem placeAddr_stackPlace {a : Nat} (ha : a < 0x9000000000) : placeAddr (stackPlace a) = a := by
  rw [placeAddr_eq_plainAddr (stackPlace_inRange ha), stackPlace_eq_spread, Place.gather_spread, plainAddr_plainPlace]

theorem stackPlace_placeAddr {p : Place} (hp : p.InRange) : stackPlace (placeAddr p) = p := by
  rw [placeAddr_eq_plainAddr hp, stackPlace_eq_spread, plainPlace_plainAddr hp.gather, Place.spread_gather]

theorem placeAddr_lt {p : Place} (hp : p.InRange) : placeAddr p < 0x9000000000 :=
  placeAddr_eq_plainAddr hp ▸ plainAddr_lt hp.gather

/-! ### The interleave -/

theorem stackPlace_m_of_unit (v : Nat) {i : Nat} (hi : i < 8) :
    (stackPlace (256 * (8 * v + i))).m = i ^^^ (v % 8 ^^^ v / 8 % 8) := by
  have hv : (8 * v + i) / 8 = v := by omega
  have hu : (8 * v + i) % 8 = i := by omega
  simp only [stackPlace, Nat.mul_div_cancel_left _ (show 0 < 256 by decide), hu, hv, Nat.xor_assoc]

theorem stackPlace_pc_of_run (w : Nat) {i k : Nat} (hi : i < 64) (hk : k < 8) :
    (stackPlace (256 * (8 * (64 * w + i) + k))).pc = i ^^^ w % 64 := by
  have hv : (8 * (64 * w + i) + k) / 8 = 64 * w + i := by omega
  have hw : (64 * w + i) / 64 = w := by omega
  have hpc : (64 * w + i) % 64 = i := by omega
  simp only [stackPlace, Nat.mul_div_cancel_left _ (show 0 < 256 by decide), hv, hw, hpc]

/-- Settles O47: digits and address determine each other, and so do the fields before and after the xor terms; within eight units, and
within 64 runs, the term mixed in is one constant. -/
theorem stackPlaceIsOneToOne : Obligations.StackPlaceIsOneToOne := by
  unfold Obligations.StackPlaceIsOneToOne
  refine ⟨?procedure, fun a ha => ?address, fun p hm hpc hbank hrow hcol hsector hbyte => ?place, fun a b h => ?unit,
    fun v i j hi hj hij => ?mdies, fun w i j k l hi hj hk hl hij => ?channels⟩
  case procedure =>
    rintro a _ _ _ _ rfl rfl rfl rfl
    rfl
  case address =>
    obtain ⟨hm, hpc, hbank, hrow, hcol, hsector, hbyte⟩ := stackPlace_inRange ha
    exact ⟨placeAddr_stackPlace ha, hm, hpc, hbank, hrow, hcol, hsector, hbyte⟩
  case place =>
    have hp : p.InRange := ⟨hm, hpc, hbank, hrow, hcol, hsector, hbyte⟩
    exact ⟨stackPlace_placeAddr hp, placeAddr_lt hp⟩
  case unit => simp only [stackPlace, h, and_self]
  case mdies =>
    rw [stackPlace_m_of_unit v hi, stackPlace_m_of_unit v hj]
    exact fun h => hij (Nat.xor_left_inj.mp h)
  case channels =>
    rw [stackPlace_pc_of_run w hi hk, stackPlace_pc_of_run w hj hl]
    exact fun h => hij (Nat.xor_left_inj.mp h)

end Sys2Proof.Machine
end

section
/-! SUPPORT. The register map: the offset that an access reaches (R439 to R441), what an access of either reader does there (R416, R431),
and the shadows of the two readers (R436, R437). -/
namespace Sys2Proof.Machine
open Sys2Proof

/-! ### Registers of a replicated block (R439) -/

theorem decodeReplicated_fst_le (n : Nat → Nat) (o : Nat) : (decodeReplicated n o).1 ≤ o % 4096 / 256 := by
  simp only [decodeReplicated]
  split
  · exact Nat.zero_le _
  · exact le_rfl

theorem decodeReplicated_snd (n : Nat → Nat) (o : Nat) :
    (decodeReplicated n o).2 =
      if n (decodeReplicated n o).1 ≤ o % 4096 / 4 % 16 then o % 4096 / 4 % 16 % n (decodeReplicated n o).1 else o % 4096 / 4 % 16 := rfl

theorem decodeReplicated_snd_le (n : Nat → Nat) (o : Nat) : (decodeReplicated n o).2 ≤ o % 4096 / 4 % 16 := by
  rw [decodeReplicated_snd]
  split
  · exact Nat.mod_le _ _
  · exact le_rfl

/-- A group without registers is read as group 0, so where group 0 has one, the group reached has the word reached. -/
theorem decodeReplicated_snd_lt {n : Nat → Nat} (h0 : 0 < n 0) (o : Nat) : (decodeReplicated n o).2 < n (decodeReplicated n o).1 := by
  have hcount : 0 < n (decodeReplicated n o).1 := by
    simp only [decodeReplicated]
    split
    · exact h0
    · next h => exact Nat.pos_of_ne_zero h
  rw [decodeReplicated_snd]
  split
  · exact Nat.mod_lt _ hcount
  · next h => exact Nat.lt_of_not_le h

/-- The place of a register decodes to the register itself. -/
theorem decodeReplicated_register {n : Nat → Nat} {g w : Nat} (hg : g < 16) (hw : w < 16) (h : w < n g) :
    decodeReplicated n (256 * g + 4 * w) = (g, w) := by
  have hgroup : (256 * g + 4 * w) % 4096 / 256 = g := by omega
  have hword : (256 * g + 4 * w) % 4096 / 4 % 16 = w := by omega
  simp only [decodeReplicated, hgroup, hword, show n g ≠ 0 by omega, if_false, show ¬ n g ≤ w by omega]

/-- Place in its block of the register that offset `o` of the block reaches. -/
def registerOffset (n : Nat → Nat) (o : Nat) : Nat := 256 * (decodeReplicated n o).1 + 4 * (decodeReplicated n o).2

theorem registerOffset_le (n : Nat → Nat) (o : Nat) : registerOffset n o ≤ o := by
  have hg := decodeReplicated_fst_le n o
  have hw := decodeReplicated_snd_le n o
  unfold registerOffset
  omega

theorem registerOffset_mod_four (n : Nat → Nat) (o : Nat) : registerOffset n o % 4 = 0 := by
  unfold registerOffset
  omega

theorem registerOffset_registerOffset {n : Nat → Nat} (h0 : 0 < n 0) (o : Nat) :
    registerOffset n (registerOffset n o) = registerOffset n o := by
  have hg := decodeReplicated_fst_le n o
  have hw := decodeReplicated_snd_le n o
  have hreg := decodeReplicated_register (n := n) (by omega) (by omega) (decodeReplicated_snd_lt h0 o)
  rw [registerOffset, registerOffset, hreg]

/-! ### The blocks of BAR0 (R439 to R441) -/

/-- Where an offset lies: in the block of a tile, of an M-die or of a port, or outside the three ranges of blocks. -/
inductive InBlock : Nat → Prop where
  | tile {p o : Nat} (hp : p < 104) (ho : o < 0x4000) : InBlock (0x100000 + 0x4000 * p + o)
  | mdie {m o : Nat} (hm : m < 8) (ho : o < 0x10000) : InBlock (0x300000 + 0x10000 * m + o)
  | port {p o : Nat} (hp : p < 32) (ho : o < 0x4000) : InBlock (0x400000 + 0x4000 * p + o)
  | outside {off : Nat} (ht : ¬ (0x100000 ≤ off ∧ off < 0x2A0000)) (hm : ¬ (0x300000 ≤ off ∧ off < 0x380000))
      (hp : ¬ (0x400000 ≤ off ∧ off < 0x480000)) : InBlock off

theorem inBlock (off : Nat) : InBlock off := by
  by_cases ht : 0x100000 ≤ off ∧ off < 0x2A0000
  · have h := InBlock.tile (p := (off - 0x100000) / 0x4000) (o := off % 0x4000) (by omega) (by omega)
    rwa [show 0x100000 + 0x4000 * ((off - 0x100000) / 0x4000) + off % 0x4000 = off by omega] at h
  by_cases hm : 0x300000 ≤ off ∧ off < 0x380000
  · have h := InBlock.mdie (m := (off - 0x300000) / 0x10000) (o := off % 0x10000) (by omega) (by omega)
    rwa [show 0x300000 + 0x10000 * ((off - 0x300000) / 0x10000) + off % 0x10000 = off by omega] at h
  by_cases hp : 0x400000 ≤ off ∧ off < 0x480000
  · have h := InBlock.port (p := (off - 0x400000) / 0x4000) (o := off % 0x4000) (by omega) (by omega)
    rwa [show 0x400000 + 0x4000 * ((off - 0x400000) / 0x4000) + off % 0x4000 = off by omega] at h
  exact .outside ht hm hp

theorem canonical_tile {p o : Nat} (hp : p < 104) (ho : o < 0x4000) :
    canonical (0x100000 + 0x4000 * p + o) = 0x100000 + 0x4000 * p + registerOffset tileGroup o := by
  have hblock : (0x100000 + 0x4000 * p + o - 0x100000) / 0x4000 = p := by omega
  have hoffset : (0x100000 + 0x4000 * p + o) % 0x4000 = o := by omega
  unfold canonical
  rw [if_pos (by omega), hblock, hoffset]
  exact Nat.add_assoc _ _ _

theorem canonical_mdie {m o : Nat} (hm : m < 8) (ho : o < 0x10000) :
    canonical (0x300000 + 0x10000 * m + o) = 0x300000 + 0x10000 * m + registerOffset mdieGroup o := by
  have hblock : (0x300000 + 0x10000 * m + o - 0x300000) / 0x10000 = m := by omega
  have hoffset : (0x300000 + 0x10000 * m + o) % 0x10000 = o := by omega
  unfold canonical
  rw [if_neg (by omega), if_pos (by omega), hblock, hoffset]
  exact Nat.add_assoc _ _ _

theorem canonical_port {p o : Nat} (hp : p < 32) (ho : o < 0x4000) :
    canonical (0x400000 + 0x4000 * p + o) = 0x400000 + 0x4000 * p + o % 0x40 / 4 * 4 := by
  unfold canonical
  rw [if_neg (by omega), if_neg (by omega), if_pos (by omega)]
  omega

theorem canonical_outside {off : Nat} (ht : ¬ (0x100000 ≤ off ∧ off < 0x2A0000)) (hm : ¬ (0x300000 ≤ off ∧ off < 0x380000))
    (hp : ¬ (0x400000 ≤ off ∧ off < 0x480000)) : canonical off = off / 4 * 4 := by
  unfold canonical
  rw [if_neg ht, if_neg hm, if_neg hp]

/-! ### The register reached (R441) -/

theorem canonical_le (off : Nat) : canonical off ≤ off := by
  cases inBlock off with
  | tile hp ho => exact canonical_tile hp ho ▸ Nat.add_le_add_left (registerOffset_le _ _) _
  | mdie hm ho => exact canonical_mdie hm ho ▸ Nat.add_le_add_left (registerOffset_le _ _) _
  | port hp ho =>
    rw [canonical_port hp ho]
    omega
  | outside ht hm hp => exact canonical_outside ht hm hp ▸ Nat.div_mul_le_self _ _

theorem canonical_mod_four (off : Nat) : canonical off % 4 = 0 := by
  cases inBlock off with
  | @tile p o hp ho =>
    have h4 := registerOffset_mod_four tileGroup o
    rw [canonical_tile hp ho]
    omega
  | @mdie m o hm ho =>
    have h4 := registerOffset_mod_four mdieGroup o
    rw [canonical_mdie hm ho]
    omega
  | port hp ho =>
    rw [canonical_port hp ho]
    omega
  | outside ht hm hp => exact canonical_outside ht hm hp ▸ Nat.mul_mod_left _ _

/-- A register reaches itself: decoding stays in the block, and within the block it is the identity on registers. -/
@[simp] theorem canonical_canonical (off : Nat) : canonical (canonical off) = canonical off := by
  cases inBlock off with
  | @tile p o hp ho =>
    have hle := registerOffset_le tileGroup o
    rw [canonical_tile hp ho, canonical_tile hp (by omega), registerOffset_registerOffset (by decide)]
  | @mdie m o hm ho =>
    have hle := registerOffset_le mdieGroup o
    rw [canonical_mdie hm ho, canonical_mdie hm (by omega), registerOffset_registerOffset (by decide)]
  | port hp ho =>
    rw [canonical_port hp ho, canonical_port hp (by omega)]
    omega
  | outside ht hm hp =>
    rw [canonical_outside ht hm hp, canonical_outside (by omega) (by omega) (by omega)]
    omega

theorem bar0Refused_one_iff (off : Nat) : bar0Refused off 1 = false ↔ off % 4 = 0 ∧ off < 0x4000000 := by
  simp [bar0Refused]

/-- A register lies in BAR0, aligned, when an offset that reaches it does. -/
theorem bar0Refused_canonical {off : Nat} (h : bar0Refused off 1 = false) : bar0Refused (canonical off) 1 = false := by
  obtain ⟨-, hlt⟩ := (bar0Refused_one_iff off).mp h
  exact (bar0Refused_one_iff _).mpr ⟨canonical_mod_four off, (canonical_le off).trans_lt hlt⟩

section
variable (s : State)

@[simp] theorem State.regWord_canonical (off : Nat) : s.regWord (canonical off) = s.regWord off := by
  simp only [State.regWord, canonical_canonical]

@[simp] theorem State.readValue_canonical (core : Bool) (off : Nat) : s.readValue core (canonical off) = s.readValue core off := by
  simp only [State.readValue, State.regWord_canonical]

@[simp] theorem State.latch_canonical (core : Bool) (off : Nat) : s.latch core (canonical off) = s.latch core off := by
  simp only [State.latch, State.regWord_canonical, canonical_canonical]

@[simp] theorem State.regWrite_canonical (off val en : Nat) : s.regWrite (canonical off) val en = s.regWrite off val en := by
  simp only [State.regWrite, canonical_canonical]

/-! ### The accesses of the two readers (R416, R431) -/

/-- A read of the driver that reaches the registers has its effect (R421, R422). -/
theorem State.barRead_reached {s : State} (h : s.d.reached = true) (tag off : Nat) (f : State → State) :
    s.barRead tag off .good false f = f s := by
  obtain ⟨hlink, hopen⟩ := Bool.and_eq_true_iff.mp h
  simp [State.barRead, dropError, hlink, hopen]

theorem exec_bar0RsRead_core (tag off : Nat) : exec (.bar0RsRead tag off .core) s = .next (s.settled (s.latch true off)) := rfl

theorem exec_registerWrite_core (off val be : Nat) :
    exec (.registerWrite off val be .core) s = .next (s.went (s.regWrite off val (enabled be))) := rfl

theorem exec_bar0RsRead_bar0 {s : State} {off : Nat} (h : s.d.reached = true) (hoff : bar0Refused off 1 = false) (tag : Nat) :
    exec (.bar0RsRead tag off (.bar0 1 .good)) s =
      .next (s.settled ((s.latch false off).setHost fun h => { h with out := .value tag (s.readValue false off) :: h.out })) := by
  simp only [exec, execBar0RsRead, hoff, State.barRead_reached h, nextS_eq]
  rfl

theorem exec_registerWrite_bar0 {s : State} {off : Nat} (h : s.d.reached = true) (hoff : bar0Refused off 1 = false) (val be : Nat) :
    exec (.registerWrite off val be (.bar0 1 .good)) s = .next (s.went (s.regWrite off val (enabled be))) := by
  simp only [exec, execRegisterWrite, hoff, State.barWrite_reached h, nextS_eq]
  rfl

end

/-- Settles O49: a register reaches itself, so what a read latches and answers and what a write does, each a function of the register
reached, are those of the access at the register. -/
theorem aliasesReachTheirRegister : Obligations.AliasesReachTheirRegister := by
  unfold Obligations.AliasesReachTheirRegister
  intro s off hoff
  have hreg : bar0Refused (canonical off) 1 = false := bar0Refused_canonical hoff
  refine ⟨canonical_canonical off, hreg, ?_⟩
  rintro req (rfl | ⟨rfl, hreached⟩)
  case inl =>
    exact ⟨fun tag => by simp only [exec_bar0RsRead_core, State.latch_canonical],
      fun val be => by simp only [exec_registerWrite_core, State.regWrite_canonical]⟩
  case inr =>
    exact ⟨fun tag => by
        simp only [exec_bar0RsRead_bar0 hreached hoff, exec_bar0RsRead_bar0 hreached hreg, State.latch_canonical, State.readValue_canonical],
      fun val be => by simp only [exec_registerWrite_bar0 hreached hoff, exec_registerWrite_bar0 hreached hreg, State.regWrite_canonical]⟩

/-! ### Shadows (R436, R437) -/

section
variable {s : State} {off : Nat}

/-- A read of a low word writes the shadow of its register, in the table of its reader. -/
theorem State.shadowsOf_latch_low {v : Nat} (h : s.regWord off = .low v) (core : Bool) :
    (s.latch core off).shadowsOf core = tset (s.d.shadowsOf core) (canonical off) (v / 2 ^ 32 % 2 ^ 32) := by
  cases core with
  | false => simp only [State.latch, h, Dev.shadowsOf, Bool.false_eq_true, if_false]
  | true => simp only [State.latch, h, Dev.shadowsOf, if_true]

/-- A read leaves the shadows of the other reader. -/
theorem State.shadowsOf_latch_other (s : State) (core : Bool) (off : Nat) :
    (s.latch core off).shadowsOf (!core) = s.d.shadowsOf (!core) := by
  cases hw : s.regWord off with
  | word v => simp only [State.latch, hw]
  | high l => simp only [State.latch, hw]
  | low v => cases core <;> simp [State.latch, hw, Dev.shadowsOf]

theorem State.latch_high {l : Nat} (h : s.regWord off = .high l) (core : Bool) : s.latch core off = s.d := by
  simp only [State.latch, h]

theorem State.readValue_high {l : Nat} (h : s.regWord off = .high l) (core : Bool) :
    s.readValue core off = tget 0 (s.d.shadowsOf core) l := by
  simp only [State.readValue, h]

end

/-- Settles O50: a read of a low word is one `tset` of its reader's table, a read of a high word one `tget`. -/
theorem shadowsAreSeparate : Obligations.ShadowsAreSeparate := by
  unfold Obligations.ShadowsAreSeparate
  refine fun s core off => ⟨fun v hlow => ?_, fun l hhigh => ⟨State.readValue_high hhigh core, State.latch_high hhigh core⟩⟩
  have hlatch := State.shadowsOf_latch_low hlow core
  refine ⟨?own, State.shadowsOf_latch_other s core off, fun o ho => ?others⟩
  case own => rw [hlatch, tget_tset_self]
  case others => rw [hlatch, tget_tset_ne _ _ _ ho.symm]

end Sys2Proof.Machine
end

section
/-! SUPPORT. Blocks without power or clock (R432): the die of each block, and what an access of a block or a command that writes it does
while that die is not there. -/
namespace Sys2Proof.Machine
open Sys2Proof

/-! ### Power and clock of a block (R31, R432) -/

/-- The orders of the table Power-up up to `order` are done and the PLL of die `die` has not lost lock: the condition of `readable` for a
block of that die. -/
def State.dieAlive (s : State) (order die : Nat) : Bool := decide (order ≤ s.pwr.bootOrder) && !s.pwr.deadDies.contains die

section
variable {s : State}

theorem State.dieAlive_eq_false {order die : Nat} (h : s.pwr.bootOrder < order ∨ s.pwr.deadDies.contains die = true) :
    s.dieAlive order die = false := by
  rcases h with h | h
  · simp only [State.dieAlive, decide_eq_false (Nat.not_le.mpr h), Bool.false_and]
  · simp only [State.dieAlive, h, Bool.not_true, Bool.and_false]

variable (s)

theorem State.readable_tile {p o : Nat} (hp : p < 104) (ho : o < 0x4000) :
    s.readable (0x100000 + 0x4000 * p + o) = s.dieAlive 5 (p / 26) := by
  have hblock : (0x100000 + 0x4000 * p + o - 0x100000) / 0x4000 = p := by omega
  unfold State.readable
  rw [if_neg (by omega), if_pos (by omega), hblock, State.dieAlive]

theorem State.readable_mdie {m o : Nat} (hm : m < 8) (ho : o < 0x10000) :
    s.readable (0x300000 + 0x10000 * m + o) = s.dieAlive 5 (4 + m) := by
  have hblock : (0x300000 + 0x10000 * m + o - 0x300000) / 0x10000 = m := by omega
  unfold State.readable
  rw [if_neg (by omega), if_neg (by omega), if_pos (by omega), hblock, State.dieAlive]

theorem State.readable_port {p o : Nat} (hp : p < 32) (ho : o < 0x4000) :
    s.readable (0x400000 + 0x4000 * p + o) = s.dieAlive 4 (12 + p / 16) := by
  have hblock : (0x400000 + 0x4000 * p + o - 0x400000) / 0x4000 = p := by omega
  unfold State.readable
  rw [if_neg (by omega), if_neg (by omega), if_neg (by omega), if_pos (by omega), hblock, State.dieAlive]

/-- The blocks of the control plane and of the tables are those of I/O die 0. -/
theorem State.readable_io {off : Nat} (h : off < 0x100000 ∨ (0x480000 ≤ off ∧ off < 0x1000000)) : s.readable off = s.dieAlive 4 12 := by
  unfold State.readable
  rcases h with h | ⟨hlo, hhi⟩
  · rw [if_pos h, State.dieAlive]
  · rw [if_neg (by omega), if_neg (by omega), if_neg (by omega), if_neg (by omega), if_pos hhi, State.dieAlive]

/-- An access of I/O die 0 reaches a register of I/O die 0. -/
theorem canonical_io {off : Nat} (h : off < 0x100000 ∨ (0x480000 ≤ off ∧ off < 0x1000000)) :
    canonical off < 0x100000 ∨ (0x480000 ≤ canonical off ∧ canonical off < 0x1000000) := by
  rw [canonical_outside (by omega) (by omega) (by omega)]
  omega

end

/-! ### Accesses and commands of a block without power or clock (R432) -/

section
variable {s : State} {off : Nat}

theorem State.regWord_unreadable (h : s.readable (canonical off) = false) : s.regWord off = .word 0 := by
  simp only [State.regWord, h, Bool.not_false, if_true]

theorem State.readValue_unreadable (h : s.readable (canonical off) = false) (core : Bool) : s.readValue core off = 0 := by
  simp only [State.readValue, State.regWord_unreadable h, Nat.zero_mod]

theorem State.latch_unreadable (h : s.readable (canonical off) = false) (core : Bool) : s.latch core off = s.d := by
  simp only [State.latch, State.regWord_unreadable h]

theorem State.regWrite_unreadable (h : s.readable (canonical off) = false) (val en : Nat) : s.regWrite off val en = s := by
  simp only [State.regWrite, h, Bool.not_false, if_true]

theorem State.regSet_unreadable (hreached : s.d.reached = true) (h : s.readable off = false) (f : Dev → Dev) : s.regSet off f = s := by
  simp only [State.regSet, State.barWrite_reached hreached, h, Bool.false_eq_true, if_false]

/-- A state that goes to itself has its heads settled and nothing else. -/
theorem State.went_self (s : State) : s.went s = s.settled s.d := rfl

theorem nextS_of_eq_self {f : State → State} (h : f s = s) : nextS s f = .next (s.settled s.d) := by
  rw [nextS_eq, h]
  rfl

/-- The commands that write a register of the control plane do nothing while I/O die 0 has no power or no clock. -/
theorem exec_controlWrite_unreadable (hreached : s.d.reached = true) (hdark : ∀ o < 0x100000, s.readable o = false) {r : Nat} (hr : r ≤ 10)
    (val src : Nat) :
    ∀ c ∈ [Instr.doorbell r val 15 .good, .ringEnable r val, .ringDisable r val, .ringResume r, .ringHeadWrite r val, .irqUnmask src, .patternLoad],
      exec c s = .next (s.settled s.d) := by
  have hring (o : Nat) (ho : o < 0x40) : s.readable (ringReg r o) = false := hdark _ (by unfold ringReg; omega)
  have hset {o : Nat} (ho : s.readable o = false) (f : Dev → Dev) : s.regSet o f = s := State.regSet_unreadable hreached ho f
  simp only [List.forall_mem_cons, List.not_mem_nil, false_imp_iff, implies_true, and_true]
  refine ⟨?doorbell, ?enable, ?disable, ?resume, ?head, ?unmask, ?load⟩
  case doorbell =>
    unfold exec execDoorbell
    refine nextS_of_eq_self ?_
    simp only [State.barWrite_reached hreached, hring 0x1C (by omega), Bool.false_eq_true, and_false, if_false]
  case enable =>
    unfold exec execRingEnable
    exact nextS_of_eq_self (hset (hring 0x10 (by omega)) _)
  case disable =>
    unfold exec execRingDisable
    exact nextS_of_eq_self (hset (hring 0x10 (by omega)) _)
  case resume =>
    unfold exec execRingResume
    exact nextS_of_eq_self (hset (hring 0x10 (by omega)) _)
  case head =>
    unfold exec execRingHeadWrite
    exact nextS_of_eq_self (hset (hring 0x18 (by omega)) _)
  case unmask =>
    unfold exec execIrqUnmask
    exact nextS_of_eq_self (hset (hdark 0x18 (by omega)) _)
  case load =>
    unfold exec execPatternLoad
    refine nextS_of_eq_self ?_
    simp only [hdark 0x1007C (by omega), Bool.not_false, if_true]

theorem exec_portRetrain_unreadable {p : Nat} (h : s.readable (0x400004 + 0x4000 * p) = false) :
    exec (.portRetrain p) s = .next (s.settled s.d) := by
  unfold exec execPortRetrain
  refine nextS_of_eq_self ?_
  simp only [h, Bool.false_eq_true, if_false]

end

/-- Settles O51: an access is a function of the word that its offset reaches, which a block without power or clock lacks; and an access
of a block reaches a register of the same block, so of the same die. -/
theorem unpoweredBlocksReadZero : Obligations.UnpoweredBlocksReadZero := by
  unfold Obligations.UnpoweredBlocksReadZero
  refine ⟨fun s off h => ?accesses, fun s r val src hr hreached hdead => ?control, fun s p hp hdead => ?retrain,
    fun s p o hp ho hdead => ?tile, fun s m o hm ho hdead => ?mdie, fun s p o hp ho hdead => ?port, fun s off hoff hdead => ?io⟩
  case accesses =>
    refine ⟨State.readValue_unreadable h, fun tag => ?_, fun val be => ?_, fun hreached hoff => ⟨fun tag => ?_, fun val be => ?_⟩⟩
    · rw [exec_bar0RsRead_core, State.latch_unreadable h]
    · rw [exec_registerWrite_core, State.regWrite_unreadable h, State.went_self]
    · rw [exec_bar0RsRead_bar0 hreached hoff, State.latch_unreadable h, State.readValue_unreadable h]
    · rw [exec_registerWrite_bar0 hreached hoff, State.regWrite_unreadable h, State.went_self]
  case control =>
    exact exec_controlWrite_unreadable hreached (fun o ho => (s.readable_io (.inl ho)).trans (State.dieAlive_eq_false hdead)) hr val src
  case retrain =>
    refine exec_portRetrain_unreadable ?_
    rw [show 0x400004 + 0x4000 * p = 0x400000 + 0x4000 * p + 4 by omega, s.readable_port hp (by omega), State.dieAlive_eq_false hdead]
  case tile =>
    rw [canonical_tile hp ho, s.readable_tile hp ((registerOffset_le _ _).trans_lt ho), State.dieAlive_eq_false hdead]
  case mdie =>
    rw [canonical_mdie hm ho, s.readable_mdie hm ((registerOffset_le _ _).trans_lt ho), State.dieAlive_eq_false hdead]
  case port =>
    rw [canonical_port hp ho, s.readable_port hp (by omega), State.dieAlive_eq_false hdead]
  case io => rw [s.readable_io (canonical_io hoff), State.dieAlive_eq_false hdead]

end Sys2Proof.Machine
end

section
/-! SUPPORT. The even split of units among positions (R299): each position begins where the one before it ends. -/
namespace Sys2Proof.Machine
open Sys2Proof

variable (u p : Nat)

theorem splitShare_length (i : Nat) : (splitShare u p i).2 = u / p + if i < u % p then 1 else 0 := by
  by_cases h : i < u % p <;> simp [splitShare, b2n, h]

theorem splitShare_start_zero : (splitShare u p 0).1 = 0 := by simp [splitShare]

theorem splitShare_start_succ (i : Nat) : (splitShare u p (i + 1)).1 = (splitShare u p i).1 + (splitShare u p i).2 := by
  rw [splitShare_length]
  simp only [splitShare, Nat.add_one_mul]
  split <;> omega

theorem sum_splitShare_lengths (n : Nat) : ((List.range n).map fun i => (splitShare u p i).2).sum = (splitShare u p n).1 := by
  induction n with
  | zero => simp [splitShare_start_zero]
  | succ n ih => simp [List.range_succ, ih, splitShare_start_succ]

/-- The position after the last would begin at the end of the units. -/
theorem splitShare_start_last {p : Nat} (hp : 0 < p) : (splitShare u p p).1 = u := by
  have := Nat.div_add_mod u p
  have := Nat.mod_lt u hp
  simp only [splitShare]
  omega

theorem exists_position_of_lt_start {x : Nat} (n : Nat) (h : x < (splitShare u p n).1) :
    ∃ i, i < n ∧ (splitShare u p i).1 ≤ x ∧ x < (splitShare u p i).1 + (splitShare u p i).2 := by
  induction n with
  | zero => simp [splitShare_start_zero] at h
  | succ n ih =>
    by_cases hx : x < (splitShare u p n).1
    · obtain ⟨i, hi, hspan⟩ := ih hx
      exact ⟨i, by omega, hspan⟩
    · exact ⟨n, by omega, by omega, by rwa [← splitShare_start_succ]⟩

theorem splitShare_length_le (i j : Nat) : (splitShare u p i).2 ≤ (splitShare u p j).2 + 1 := by
  simp only [splitShare_length]
  split <;> split <;> omega

/-- Settles O58: the positions follow one another from 0 to `u`, and each takes the quotient or one unit more. -/
theorem splitIsEven : Obligations.SplitIsEven := by
  intro u p hp
  refine ⟨splitShare_start_zero u p, ?_, fun i _ => splitShare_start_succ u p i, fun x hx => ?_, splitShare_length_le u p⟩
  · rw [sum_splitShare_lengths, splitShare_start_last u hp]
  · exact exists_position_of_lt_start u p p (by rwa [splitShare_start_last u hp])

end Sys2Proof.Machine
end

section
/-! SUPPORT. A code of a format as its sign, exponent and fraction fields (R66), and the field values read back from the magnitude
that they stand for. -/
namespace Sys2Proof.Machine
open Sys2Proof

/-! ### The binary exponent of a value between two powers of two -/

theorem pow2_add_one (e : Int) : pow2 (e + 1) = 2 * pow2 e := by
  simp only [pow2_eq_zpow]
  rw [zpow_add_one₀ two_ne_zero, mul_comm]

theorem pow2_eq_mul_pow2_sub (n : Nat) (e : Int) : pow2 e = 2 ^ n * pow2 (e - n) := by
  simp only [pow2_eq_zpow]
  rw [← zpow_natCast, ← zpow_add₀ two_ne_zero, add_sub_cancel]

theorem lt_pow2_log2_sub_log2_add_one {x : Rat} (hx : 0 < x) :
    x < pow2 ((Nat.log2 x.num.natAbs : Int) - (Nat.log2 x.den : Int) + 1) := by
  have hnum : (x.num : Rat) < 2 ^ (Nat.log2 x.num.natAbs + 1) := by
    have hpos : 0 < x.num := Rat.num_pos.mpr hx
    have habs : (x.num.natAbs : Int) = x.num := by omega
    rw [← habs]
    exact_mod_cast Nat.lt_log2_self
  have hden : (2 : Rat) ^ Nat.log2 x.den ≤ x.den := by exact_mod_cast Nat.log2_self_le x.den_nz
  calc x = x.num / x.den := x.num_div_den.symm
    _ < 2 ^ (Nat.log2 x.num.natAbs + 1) / 2 ^ Nat.log2 x.den :=
        div_lt_div₀ hnum hden (by positivity) (by positivity)
    _ = pow2 ((Nat.log2 x.num.natAbs : Int) - (Nat.log2 x.den : Int) + 1) := by
        rw [pow2_eq_zpow, sub_add_eq_add_sub, zpow_sub₀ two_ne_zero]
        norm_cast

theorem lt_pow2_floorLog2_add_one {x : Rat} (hx : 0 < x) : x < pow2 (floorLog2 x + 1) := by
  simp only [floorLog2]
  split
  case isTrue => exact lt_pow2_log2_sub_log2_add_one hx
  case isFalse h => rw [sub_add_cancel]; exact not_le.mp h

theorem floorLog2_lt {x : Rat} {k : Int} (hx : 0 < x) (h : x < pow2 k) : floorLog2 x < k :=
  pow2_lt_pow2_iff.mp ((pow2_floorLog2_le hx).trans_lt h)

theorem floorLog2_eq {x : Rat} {k : Int} (hlow : pow2 k ≤ x) (hhigh : x < pow2 (k + 1)) : floorLog2 x = k := by
  have hx : 0 < x := (pow2_pos k).trans_le hlow
  have hle := floorLog2_lt hx hhigh
  have hge := pow2_lt_pow2_iff.mp (hlow.trans_lt (lt_pow2_floorLog2_add_one hx))
  omega

/-! ### The fields of a code -/

theorem one_le_fracBits (f : Fmt) : 1 ≤ fracBits f := by cases f <;> decide

/-- Fraction field of a code. -/
def codeFrac (f : Fmt) (c : Nat) : Nat := c % 2 ^ fracBits f

/-- Exponent field of a code. -/
def codeExp (f : Fmt) (c : Nat) : Nat := c / 2 ^ fracBits f % 2 ^ expBits f

/-- Sign of a code; S8 has none. -/
def codeNeg (f : Fmt) (c : Nat) : Bool := f != .s8 && bitAt c (fracBits f + expBits f)

/-- Place of the sign in a code. -/
def signPart (f : Fmt) (neg : Bool) : Nat := if neg then 2 ^ (fracBits f + expBits f) else 0

/-- Magnitude that an exponent and a fraction field stand for (R66). -/
def fieldMag (f : Fmt) (e frac : Nat) : Rat :=
  if e = 0 then pow2 (emin f) * (frac : Rat) / ((2 ^ fracBits f : Nat) : Rat)
  else pow2 ((e : Int) - bias f) * (1 + (frac : Rat) / ((2 ^ fracBits f : Nat) : Rat))

theorem decodeF_eq (f : Fmt) (c : Nat) :
    decodeF f c =
      if hasInf f && codeExp f c == 2 ^ expBits f - 1 then (if codeFrac f c = 0 then .inf (codeNeg f c) else .nan)
      else if f = .f8e4 && codeExp f c == 15 && codeFrac f c == 7 then .nan
      else numOf (if codeNeg f c then -fieldMag f (codeExp f c) (codeFrac f c) else fieldMag f (codeExp f c) (codeFrac f c)) (codeNeg f c) := by
  have hfrac : slice c (fracBits f - 1) 0 = codeFrac f c := by
    simp [slice, codeFrac, Nat.sub_add_cancel (one_le_fracBits f)]
  have hexp : slice c (fracBits f + expBits f - 1) (fracBits f) = codeExp f c := by
    have : fracBits f + expBits f - 1 + 1 - fracBits f = expBits f := by have := one_le_fracBits f; omega
    rw [slice, codeExp, this]
  simp only [decodeF, hfrac, hexp]
  rfl

theorem codeFrac_lt (f : Fmt) (c : Nat) : codeFrac f c < 2 ^ fracBits f := Nat.mod_lt _ (by positivity)

/-- The part of a code above its exponent field is its sign. -/
theorem code_high_eq {f : Fmt} {c : Nat} (hc : c < 2 ^ (fracBits f + expBits f + if f = .s8 then 0 else 1)) :
    c / 2 ^ (fracBits f + expBits f) = b2n (codeNeg f c) := by
  have hlt : c / 2 ^ (fracBits f + expBits f) < 2 ^ (if f = .s8 then 0 else 1) := by
    rw [Nat.div_lt_iff_lt_mul (by positivity), mul_comm, ← pow_add]
    exact hc
  by_cases hs : f = .s8
  · have hzero : c / 2 ^ (fracBits f + expBits f) = 0 := by simpa [hs] using hlt
    rw [hzero]
    simp [codeNeg, hs, b2n]
  · have htwo : c / 2 ^ (fracBits f + expBits f) < 2 := by simpa [hs] using hlt
    have hbit : codeNeg f c = decide (c / 2 ^ (fracBits f + expBits f) % 2 = 1) := by
      simp [codeNeg, hs, bitAt, Nat.testBit_eq_decide_div_mod_eq]
    rw [hbit]
    obtain hz | ho : c / 2 ^ (fracBits f + expBits f) = 0 ∨ c / 2 ^ (fracBits f + expBits f) = 1 := by
      generalize c / 2 ^ (fracBits f + expBits f) = x at htwo
      omega
    · simp [hz, b2n]
    · simp [ho, b2n]

theorem code_eq_fields {f : Fmt} {c : Nat} (hc : c < 2 ^ (fracBits f + expBits f + if f = .s8 then 0 else 1)) :
    signPart f (codeNeg f c) + codeExp f c * 2 ^ fracBits f + codeFrac f c = c := by
  have hsign : signPart f (codeNeg f c) = c / 2 ^ fracBits f / 2 ^ expBits f * (2 ^ expBits f * 2 ^ fracBits f) := by
    rw [Nat.div_div_eq_div_mul, ← pow_add, code_high_eq hc, ← pow_add, add_comm (expBits f)]
    cases codeNeg f c <;> simp [signPart, b2n]
  rw [hsign, codeExp, codeFrac, ← mul_assoc, ← add_mul, Nat.div_add_mod' (c / 2 ^ fracBits f), Nat.div_add_mod']

/-! ### The fields read back from their magnitude -/

theorem fieldMag_nonneg (f : Fmt) (e frac : Nat) : 0 ≤ fieldMag f e frac := by
  have h1 := pow2_pos (emin f)
  have h2 := pow2_pos ((e : Int) - bias f)
  unfold fieldMag
  split <;> positivity

theorem fieldMag_eq_zero_iff (f : Fmt) (e frac : Nat) : fieldMag f e frac = 0 ↔ e = 0 ∧ frac = 0 := by
  have h1 := pow2_pos (emin f)
  have h2 := pow2_pos ((e : Int) - bias f)
  have h3 : (0 : Rat) < 1 + (frac : Rat) / ((2 ^ fracBits f : Nat) : Rat) := by positivity
  unfold fieldMag
  split
  case isTrue he => simp [he, h1.ne']
  case isFalse he => simp only [he, false_and, iff_false]; positivity

/-- A subnormal magnitude in units of the last place. -/
theorem fieldMag_zero_exp (f : Fmt) (frac : Nat) : fieldMag f 0 frac = frac * pow2 (emin f - fracBits f) := by
  simp only [fieldMag, if_true, pow2_eq_mul_pow2_sub (fracBits f) (emin f)]
  push_cast
  field_simp

/-- A normal magnitude in units of the last place. -/
theorem fieldMag_pos_exp (f : Fmt) {e : Nat} (he : e ≠ 0) (frac : Nat) :
    fieldMag f e frac = ((2 ^ fracBits f + frac : Nat) : Rat) * pow2 (e - bias f - fracBits f) := by
  simp only [fieldMag, he, if_false, pow2_eq_mul_pow2_sub (fracBits f) ((e : Int) - bias f)]
  push_cast
  field_simp

theorem floorLog2_fieldMag_lt_emin {f : Fmt} {frac : Nat} (hfrac : frac < 2 ^ fracBits f) (hpos : 0 < fieldMag f 0 frac) :
    floorLog2 (fieldMag f 0 frac) < emin f := by
  refine floorLog2_lt hpos ?_
  rw [fieldMag_zero_exp, pow2_eq_mul_pow2_sub (fracBits f) (emin f)]
  exact mul_lt_mul_of_pos_right (by exact_mod_cast hfrac) (pow2_pos _)

theorem floorLog2_fieldMag {f : Fmt} {e frac : Nat} (he : e ≠ 0) (hfrac : frac < 2 ^ fracBits f) :
    floorLog2 (fieldMag f e frac) = e - bias f := by
  have hulp := pow2_pos ((e : Int) - bias f - fracBits f)
  refine floorLog2_eq ?_ ?_
  · rw [fieldMag_pos_exp f he, pow2_eq_mul_pow2_sub (fracBits f) ((e : Int) - bias f)]
    refine mul_le_mul_of_nonneg_right ?_ hulp.le
    push_cast
    linarith [Nat.cast_nonneg (α := Rat) frac]
  · rw [fieldMag_pos_exp f he, pow2_add_one, pow2_eq_mul_pow2_sub (fracBits f) ((e : Int) - bias f), ← mul_assoc]
    refine mul_lt_mul_of_pos_right ?_ hulp
    have : (frac : Rat) < 2 ^ fracBits f := by exact_mod_cast hfrac
    push_cast
    linarith

theorem floor_natCast_mul_div (n : Nat) {q : Rat} (hq : 0 < q) : (n * q / q).floor.toNat = n := by
  rw [mul_div_cancel_right₀ _ hq.ne', ← Int.cast_natCast, Rat.floor_intCast, Int.toNat_natCast]

/-- The code of a nonzero value is the one whose fields give its magnitude. -/
theorem encodeF_fin_fieldMag {f : Fmt} {e frac : Nat} (neg : Bool) (hfrac : frac < 2 ^ fracBits f) (hne : fieldMag f e frac ≠ 0) :
    encodeF f (.fin (if neg then -fieldMag f e frac else fieldMag f e frac)) = signPart f neg + e * 2 ^ fracBits f + frac := by
  have hpos : 0 < fieldMag f e frac := lt_of_le_of_ne (fieldMag_nonneg f e frac) hne.symm
  have habs : rabs (if neg then -fieldMag f e frac else fieldMag f e frac) = fieldMag f e frac := by
    rw [rabs_eq_abs]
    cases neg <;> simp [abs_of_pos hpos]
  have hneg : decide ((if neg then -fieldMag f e frac else fieldMag f e frac) < 0) = neg := by
    cases neg
    · simpa using hpos.le
    · simpa using hpos
  simp only [encodeF, habs, hneg]
  by_cases he : e = 0
  · subst he
    rw [if_pos (floorLog2_fieldMag_lt_emin hfrac hpos), fieldMag_zero_exp, floor_natCast_mul_div _ (pow2_pos _)]
    simp [signPart]
  · rw [floorLog2_fieldMag he hfrac, if_neg (by unfold emin; omega), fieldMag_pos_exp f he, floor_natCast_mul_div _ (pow2_pos _)]
    simp [signPart, add_assoc]

theorem encodeF_numOf_fieldMag {f : Fmt} {e frac : Nat} (neg : Bool) (hfrac : frac < 2 ^ fracBits f) :
    encodeF f (numOf (if neg then -fieldMag f e frac else fieldMag f e frac) neg) = signPart f neg + e * 2 ^ fracBits f + frac := by
  by_cases hzero : fieldMag f e frac = 0
  · obtain ⟨rfl, rfl⟩ := (fieldMag_eq_zero_iff f e frac).mp hzero
    simp [hzero, numOf, encodeF, signPart]
  · have hne : (if neg then -fieldMag f e frac else fieldMag f e frac) ≠ 0 := by cases neg <;> simpa using hzero
    rw [numOf, if_neg hne, encodeF_fin_fieldMag neg hfrac hzero]

/-- Settles O52: a code is the sum of its fields, and each of the three parts is read back from the value they stand for. -/
theorem codesAreTheCodesOfTheirValues : Obligations.CodesAreTheCodesOfTheirValues := by
  intro f c hc hnan
  rw [decodeF_eq] at hnan ⊢
  by_cases hinf : (hasInf f && codeExp f c == 2 ^ expBits f - 1) = true
  · obtain ⟨hhas, hexp⟩ : hasInf f = true ∧ codeExp f c = 2 ^ expBits f - 1 := by simpa using hinf
    have hfrac : codeFrac f c = 0 := by simpa [hinf] using hnan
    have hfields := code_eq_fields hc
    rw [hexp, hfrac] at hfields
    rw [if_pos hinf, if_pos hfrac]
    simpa only [encodeF, hhas, if_true, signPart, add_zero] using hfields
  · simp only [hinf, Bool.false_eq_true, if_false] at hnan ⊢
    split at hnan
    case isTrue => exact absurd rfl hnan
    case isFalse h => rw [if_neg h, encodeF_numOf_fieldMag _ (codeFrac_lt f c), code_eq_fields hc]

end Sys2Proof.Machine
end

section
/-! SUPPORT. What the answers of the management core leave: the power path, the records of the security root that keys, debug and the
ranges speak of, and the planes' work (R477 to R501). -/
namespace Sys2Proof.Machine
open Sys2Proof

/-! ### The parts kept -/

/-- The part of the planes that carries the job: memory, M-dies, tiles, rings, started descriptors, retired granules and the control
plane's record. -/
def Dev.work (d : Dev) : Mem × Tab MDie × Tab Tile × Tab Ring × List Active × List (Nat × Nat) × Ctl :=
  (d.mem, d.mdies, d.tiles, d.rings, d.acts, d.retired, d.ctl)

/-- The keys of the security root: slots, stored sequence and whether slot 0 is disabled. -/
def Sec.keys (x : Sec) : Tab (Nat × List Byte) × Nat × Bool := (x.slots, x.keySeq, x.slot0Disabled)

/-- The records of the security root that have a range, with the version of OTP, the keys and the final records. -/
def Sec.root (x : Sec) : (Nat × Nat × Nat × Nat) × (Nat × Bool × Nat × Nat) × Nat × (Tab (Nat × List Byte) × Nat × Bool) × List (Nat × Nat × Nat) :=
  ((x.score, x.health, x.operatorFloor, x.idLed), (x.debugScope, x.debugOn, x.debugIssuer, x.debugAttempts), x.otpVersion, x.keys, x.finals)

/-- What an answer of the management core leaves. -/
def State.kept (s : State) := (s.pwr, s.sec.root, s.d.work)

theorem State.kept_eq {s t : State} (hpwr : t.pwr = s.pwr) (hroot : t.sec.root = s.sec.root) (hwork : t.d.work = s.d.work) : t.kept = s.kept := by
  simp only [State.kept, hpwr, hroot, hwork]

theorem State.kept_planes (s : State) {d : Dev} (h : d.work = s.d.work) : State.kept { s with d := d } = s.kept :=
  State.kept_eq rfl rfl h

theorem State.kept_sec (s : State) {x : Sec} (h : x.root = s.sec.root) : State.kept { s with sec := x } = s.kept :=
  State.kept_eq rfl h rfl

theorem State.kept_sec_planes (s : State) {x : Sec} {d : Dev} (hx : x.root = s.sec.root) (hd : d.work = s.d.work) :
    State.kept { s with sec := x, d := d } = s.kept :=
  State.kept_eq rfl hx hd

@[simp] theorem Dev.irq_work (d : Dev) (src : Nat) : (d.irq src).work = d.work := by simp [Dev.work]
@[simp] theorem Dev.logEv_work (d : Dev) (pl co un : Nat) (pay : List Byte) (a : Nat) : (d.logEv pl co un pay a).work = d.work := by
  simp [Dev.work]
@[simp] theorem Dev.setHost_work (d : Dev) (f : HostPort → HostPort) : (d.setHost f).work = d.work := rfl
@[simp] theorem Dev.health_work (d : Dev) (n : Nat) : (d.health n).work = d.work := rfl
@[simp] theorem Dev.send_work (d : Dev) (a cls typ step : Nat) (params : List Byte) (body : List PB) (uid : Option Nat) :
    (d.send a cls typ step params body uid).work = d.work := by simp [Dev.work]

@[simp] theorem Dev.aer_work (d : Dev) (e a : Nat) : (d.aer e a).work = d.work := rfl
@[simp] theorem Dev.unsupported_work (d : Dev) (tag : Option Nat) (a : Nat) : (d.unsupported tag a).work = d.work := by
  unfold Dev.unsupported Dev.aerAdvisory
  cases tag with
  | none => rfl
  | some t => simp only; split <;> rfl

/-- Both ways of a test leave it, so the test does. -/
theorem ite_kept {c : Prop} [Decidable c] {a b : State × List Byte} {s : State} (ha : a.1.kept = s.kept) (hb : b.1.kept = s.kept) :
    (if c then a else b).1.kept = s.kept := by
  split
  · exact ha
  · exact hb

/-! ### Responses -/

variable (s : State) (p : Path)

@[simp] theorem State.respond_kept (typ : Nat) (msg : List Byte) : (s.respond p typ msg).kept = s.kept := by
  cases p with
  | mailbox =>
    refine State.kept_sec_planes s rfl ?_
    split <;> simp
  | peer a => exact State.kept_sec_planes s rfl (by simp)
  | i3c => rfl
  | vdm => rfl
  | doe => rfl

@[simp] theorem State.pldmAsk_kept (cmd : Nat) (body : List Byte) : (s.pldmAsk p cmd body).kept = s.kept := State.respond_kept s p 1 _

theorem State.control_kept (inst cmd : Nat) {f : State → State × List Byte} (hf : ∀ s, (f s).1.kept = s.kept) :
    (s.control p inst cmd f).kept = s.kept := by
  unfold State.control
  split
  · simp [hf]
  · rfl

theorem State.pldm_kept (inst typ cmd : Nat) {f : State → State × List Byte} (hf : ∀ s, (f s).1.kept = s.kept) :
    (s.pldm p inst typ cmd f).kept = s.kept := by
  unfold State.pldm
  split
  · simp [hf]
  · rfl

theorem State.vendor_kept (code : Nat) {f : State → State × List Byte} (hf : ∀ s, (f s).1.kept = s.kept) :
    (s.vendor p code f).kept = s.kept := by
  unfold State.vendor
  split
  · simp [hf]
  · rfl

theorem State.exchange_kept {f : State → State} (hf : ∀ s, (f s).kept = s.kept) : (s.exchange p f).kept = s.kept := by
  unfold State.exchange
  split
  · exact hf s
  · rfl

@[simp] theorem State.mbxAck_kept : s.mbxAck.kept = s.kept := by
  refine State.kept_sec_planes s rfl ?_
  split <;> simp

/-- A request of the driver that does not reach the registers leaves what an answer leaves. -/
theorem State.barWrite_kept (off : Nat) (tlp : Tlp) (bad : Bool) {f : State → State} (hf : (f s).kept = s.kept) :
    (s.barWrite off tlp bad f).kept = s.kept := by
  unfold State.barWrite
  split
  · rfl
  split
  · exact State.kept_planes s (by simp)
  split
  · exact State.kept_planes s (by simp)
  split
  · exact State.kept_planes s (by simp)
  · exact hf

theorem State.barRead_kept (tag off : Nat) (tlp : Tlp) (bad : Bool) {f : State → State} (hf : (f s).kept = s.kept) :
    (s.barRead tag off tlp bad f).kept = s.kept := by
  unfold State.barRead
  split
  · rfl
  split
  · exact State.kept_planes s (by simp)
  split
  · exact State.kept_planes s (by simp)
  · exact hf

theorem State.latch_work (core : Bool) (off : Nat) : (s.latch core off).work = s.d.work := by
  unfold State.latch
  split
  · split <;> rfl
  · rfl

theorem State.foldl_kept {α : Type} {f : State → α → State} (hf : ∀ s x, (f s x).kept = s.kept) (l : List α) : (l.foldl f s).kept = s.kept := by
  induction l generalizing s with
  | nil => rfl
  | cons x l ih => rw [List.foldl_cons, ih, hf]

@[simp] theorem State.sweepAttest_kept : s.sweepAttest.kept = s.kept := by
  unfold State.sweepAttest
  simp only
  rw [State.foldl_kept]
  · rfl
  · simp

/-! ### MCTP control and PLDM monitoring -/

theorem setEid_kept (op eid : Nat) : (setEid p op eid s).1.kept = s.kept := ite_kept rfl rfl

theorem getVersions_kept (typ : Nat) : (getVersions typ s).1.kept = s.kept := ite_kept rfl rfl

theorem tidSet_kept (tid : Nat) : (tidSet tid s).1.kept = s.kept := ite_kept rfl rfl

theorem pldmVersionGet_kept (typ : Nat) : (pldmVersionGet typ s).1.kept = s.kept := ite_kept rfl rfl

theorem pldmCommandsGet_kept (typ : Nat) : (pldmCommandsGet typ s).1.kept = s.kept := ite_kept rfl rfl

theorem pdrGet_kept (handle : Nat) : (pdrGet handle s).1.kept = s.kept := ite_kept rfl rfl

theorem sensorGet_kept (id : Nat) : (sensorGet id s).1.kept = s.kept := ite_kept rfl rfl

theorem stateSensorGet_kept (id : Nat) : (stateSensorGet id s).1.kept = s.kept := by unfold stateSensorGet; split <;> rfl
theorem effecterGet_kept (id : Nat) : (effecterGet id s).1.kept = s.kept := ite_kept rfl rfl

theorem receiverSet_kept (mode eid : Nat) : (receiverSet mode eid s).1.kept = s.kept := ite_kept rfl (ite_kept rfl rfl)

/-! ### The firmware update -/

@[simp] theorem State.stage_kept (n : Nat) : (s.stage n).kept = s.kept := State.kept_sec_planes s rfl (by simp)
@[simp] theorem State.dropImage_kept : s.dropImage.kept = s.kept := rfl

theorem updateRequest_kept (maxSize components : Nat) : (updateRequest maxSize components s).1.kept = s.kept :=
  ite_kept rfl (ite_kept rfl (State.stage_kept _ 1))

theorem passTable_kept (comp flag : Nat) : (passTable comp flag s).1.kept = s.kept := by
  unfold passTable
  split
  · rfl
  · simp only
    split <;> simp

theorem State.askData_kept : (s.askData p).kept = s.kept := by
  unfold State.askData
  simp only
  split <;> simp

theorem componentUpdate_kept (comp size : Nat) : (componentUpdate comp size s).1.kept = s.kept :=
  ite_kept rfl (ite_kept rfl (State.stage_kept _ 3))

theorem State.takeData_kept (data : List Byte) : (s.takeData p data).kept = s.kept := by
  unfold State.takeData
  split
  · rfl
  · exact (State.askData_kept _ p).trans rfl

theorem State.transferred_kept : (s.transferred p).kept = s.kept := by unfold State.transferred; split <;> simp

theorem State.verified_kept : (s.verified p).kept = s.kept := by
  unfold State.verified
  split
  · rfl
  · split <;> simp

theorem Sec.writeOther_root (x : Sec) (f : Firmware) : (x.writeOther f).root = x.root := by unfold Sec.writeOther; split <;> rfl

theorem State.applied_kept : (s.applied p).kept = s.kept := by
  unfold State.applied
  split
  · rfl
  · simp only [State.pldmAsk_kept, State.stage_kept]
    exact State.kept_sec s (Sec.writeOther_root s.sec _)

theorem cancelComponent_kept : (cancelComponent s).1.kept = s.kept := ite_kept (State.stage_kept _ 2) rfl

theorem cancelAll_kept : (cancelAll s).1.kept = s.kept := ite_kept rfl (State.stage_kept _ 0)

/-! ### SPDM -/

@[simp] theorem State.setConn_kept (c : Spdm) : (s.setConn c).kept = s.kept := rfl
@[simp] theorem State.draw_kept (n : Nat) : (s.draw n).2.kept = s.kept := rfl
@[simp] theorem State.sign_kept (context : String) (transcript : List Byte) : (s.sign context transcript).2.kept = s.kept := rfl

theorem State.fit_kept (room : Nat) (r : List Byte) : (s.fit p room r).1.kept = s.kept := ite_kept rfl rfl

theorem State.spdmSend_kept (sealed : Bool) (before : Spdm) (r : List Byte) : (s.spdmSend p sealed before r).kept = s.kept := by
  unfold State.spdmSend
  simp only
  split <;> simp [State.fit_kept]

theorem State.spdm_kept (sealed : Bool) {f : State → State × List Byte} (hf : ∀ s, (f s).1.kept = s.kept) : (s.spdm p sealed f).kept = s.kept := by
  unfold State.spdm
  split
  · simp [State.spdmSend_kept, hf]
  · rfl

theorem spdmCapabilities_kept (req : List Byte) : (spdmCapabilities p req s).1.kept = s.kept :=
  ite_kept rfl (ite_kept rfl rfl)

theorem spdmAlgorithms_kept (req : List Byte) : (spdmAlgorithms p req s).1.kept = s.kept :=
  ite_kept rfl (ite_kept rfl rfl)

theorem spdmDigests_kept : (spdmDigests p s).1.kept = s.kept := ite_kept rfl rfl

theorem spdmCertificate_kept (slot off len : Nat) : (spdmCertificate p slot off len s).1.kept = s.kept :=
  ite_kept rfl (ite_kept rfl rfl)

theorem spdmChallenge_kept (req : List Byte) : (spdmChallenge p req s).1.kept = s.kept := by
  refine ite_kept rfl ?_
  split
  · rfl
  · exact ite_kept rfl (ite_kept rfl rfl)

theorem spdmMeasurements_kept (req : List Byte) : (spdmMeasurements p req s).1.kept = s.kept :=
  ite_kept rfl (ite_kept rfl (ite_kept rfl (ite_kept rfl rfl)))

theorem spdmKeyExchange_kept (req : List Byte) : (spdmKeyExchange p req s).1.kept = s.kept := by
  refine ite_kept rfl (ite_kept rfl ?_)
  split
  · rfl
  · refine ite_kept rfl (ite_kept rfl ?_)
    simp only [State.setConn_kept, State.sign_kept]
    rfl

theorem spdmFinish_kept (req : List Byte) : (spdmFinish p req s).1.kept = s.kept :=
  ite_kept rfl (ite_kept rfl (ite_kept rfl rfl))

theorem inSession_kept (sid : Nat) {f : Spdm → State → State × List Byte} (hf : ∀ c s, (f c s).1.kept = s.kept) :
    (inSession p sid f s).1.kept = s.kept :=
  ite_kept (hf _ s) rfl

theorem spdmEnd_kept (sid : Nat) : (spdmEnd p sid s).1.kept = s.kept := inSession_kept s p sid fun _ _ => rfl
theorem spdmHeartbeat_kept (sid : Nat) : (spdmHeartbeat p sid s).1.kept = s.kept := inSession_kept s p sid fun _ _ => rfl

theorem spdmKeyUpdate_kept (sid op tag : Nat) : (spdmKeyUpdate p sid op tag s).1.kept = s.kept := by
  refine inSession_kept s p sid fun c s => ?_
  split <;> rfl

theorem ideObject_kept (b : List Byte) : (ideObject b s).1.kept = s.kept := by
  unfold ideObject
  simp only
  split
  · rfl
  · simp only
    generalize (if b.length ≠ 47 then 1 else if byteAt b 6 ≠ 0 then 2 else 0) = status
    split <;> rfl
  · simp only
    split <;> rfl
  · rfl
  · rfl

theorem spdmVendor_kept (sid : Nat) (req : List Byte) : (spdmVendor p sid req s).1.kept = s.kept :=
  ite_kept rfl (inSession_kept s p sid fun _ s => ideObject_kept s _)

theorem spdmRequest_kept (req : List Byte) : (spdmRequest p req s).1.kept = s.kept := by
  unfold spdmRequest
  simp only
  split
  case h_1 => rfl
  case h_2 => exact spdmCapabilities_kept s p req
  case h_3 => exact spdmAlgorithms_kept s p req
  case h_4 => exact spdmDigests_kept s p
  case h_5 => exact spdmCertificate_kept s p _ _ _
  case h_6 => exact spdmChallenge_kept s p req
  case h_7 => exact spdmMeasurements_kept s p req
  case h_8 => exact spdmKeyExchange_kept s p req
  case h_9 => exact spdmFinish_kept s p req
  case h_10 => exact spdmEnd_kept s p _
  case h_11 => exact spdmHeartbeat_kept s p _
  case h_12 => exact spdmKeyUpdate_kept s p _ _ _
  case h_13 => exact spdmVendor_kept s p _ req
  case h_14 => rfl
  case h_15 => rfl

@[simp] theorem State.dropChunks_kept : (s.dropChunks p).kept = s.kept := rfl

theorem spdmChunkSend_kept (req : List Byte) : (spdmChunkSend p req s).1.kept = s.kept :=
  ite_kept rfl (ite_kept rfl ((State.fit_kept _ p _ _).trans (spdmRequest_kept _ p _)))

theorem spdmChunkGet_kept (handle seq : Nat) : (spdmChunkGet p handle seq s).1.kept = s.kept := ite_kept rfl rfl

theorem spdmAny_kept (req : List Byte) : (spdmAny p req s).1.kept = s.kept := by
  unfold spdmAny
  split
  · exact spdmChunkSend_kept s p req
  · exact spdmChunkGet_kept s p _ _
  · exact spdmRequest_kept s p req

/-! ### Vendor commands and messages of peers -/

theorem State.peerAttest_kept (body : List Byte) : (s.peerAttest p body).kept = s.kept := by
  unfold State.peerAttest
  simp only
  split
  · rfl
  split
  · simp
  split
  · simp
  · exact State.kept_sec_planes s rfl (by simp)

theorem State.securedMessage_kept (m : List Byte) : (s.securedMessage p m).kept = s.kept := by
  unfold State.securedMessage
  simp only
  split
  · exact State.spdm_kept s p _ fun _ => rfl
  split
  · exact State.spdm_kept s p _ fun s => spdmAny_kept s p _
  · exact State.spdm_kept s p _ fun _ => rfl

theorem State.controlMessage_kept (m : List Byte) : (s.controlMessage p m).kept = s.kept := by
  unfold State.controlMessage
  simp only
  split
  · rfl
  split
  · exact State.control_kept s p _ _ fun s => setEid_kept s p _ _
  · exact State.control_kept s p _ _ fun _ => rfl
  · exact State.control_kept s p _ _ fun _ => rfl
  · exact State.control_kept s p _ _ fun s => getVersions_kept s _
  · exact State.control_kept s p _ _ fun _ => rfl
  · exact State.control_kept s p _ _ fun _ => rfl

theorem State.relay_kept (a : Nat) (m : List Byte) : (s.relay a m).kept = s.kept := by
  unfold State.relay
  split
  · exact (State.respond_kept _ _ _ _).trans rfl
  · rfl

theorem State.fromPeer_kept (a typ : Nat) (m : List Byte) : (s.fromPeer a typ m).kept = s.kept := by
  unfold State.fromPeer
  split
  · split
    · exact State.spdm_kept s _ false fun s => spdmAny_kept s _ m
    · exact State.relay_kept s a m
  split
  · exact State.securedMessage_kept s _ m
  · rfl

end Sys2Proof.Machine
end

section
/-! SUPPORT. What every command keeps of the power path and of the security root: the ranges of their records, versions that do not fall,
and the final records (R454 to R501). -/
namespace Sys2Proof.Machine
open Sys2Proof

/-! ### The ranges, field by field -/

theorem Pwr.ok_iff (p : Pwr) : p.ok = true ↔
    2 ≤ p.nCap ∧ p.nCap ≤ 16 ∧ 2 ≤ p.nThermal ∧ p.nThermal ≤ 16 ∧ p.events < 256 ∧ p.cap < 4096 ∧ p.maxN < 32 ∧ p.qualify < 256 ∧
      p.toAux < 65536 ∧ p.returns < 65536 := by
  simp only [Pwr.ok, Bool.and_eq_true, decide_eq_true_eq, and_assoc]

theorem Sec.ok_iff (x : Sec) : x.ok = true ↔
    x.score ≤ 255 * 65536 ∧ x.health ≤ 255 ∧ x.operatorFloor < 256 ∧ x.idLed ≤ 1 ∧ x.debugScope < 16 ∧ x.debugIssuer ≤ 1 ∧
      (x.debugOn = true ∨ x.debugScope = 0 ∧ x.debugIssuer = 0) ∧ x.debugAttempts < 65536 ∧ ∀ e ∈ x.slots, e.2.1 ≤ 2 := by
  simp only [Sec.ok, Bool.and_eq_true, Bool.or_eq_true, decide_eq_true_eq, beq_iff_eq, List.all_eq_true, and_assoc]

theorem State.ok_iff (s : State) : s.ok = true ↔ s.pwr.ok = true ∧ s.sec.ok = true := by simp only [State.ok, Bool.and_eq_true]

theorem Sec.ok_congr {x y : Sec} (h : x.root = y.root) : x.ok = y.ok := by
  simp only [Sec.root, Sec.keys, Prod.mk.injEq] at h
  obtain ⟨⟨h1, h2, h3, h4⟩, ⟨h5, h6, h7, h8⟩, -, ⟨h9, -⟩, -⟩ := h
  simp only [Sec.ok, h1, h2, h3, h4, h5, h6, h7, h8, h9]

theorem satAdd_sixteen_lt (c n : Nat) : satAdd 16 c n < 65536 := by
  unfold satAdd
  omega

/-! ### What a change keeps -/

/-- From `s` to `t` the ranges are kept, neither version falls, and the final records stand. -/
structure State.Upholds (s t : State) : Prop where
  pwr : s.pwr.ok = true → t.pwr.ok = true
  sec : s.sec.ok = true → t.sec.ok = true
  otp : s.sec.otpVersion ≤ t.sec.otpVersion
  seq : s.sec.keySeq ≤ t.sec.keySeq
  finals : t.sec.finals = s.sec.finals

/-- Besides, the keys stand and debug does not unlock. -/
structure State.Guards (s t : State) : Prop where
  pwr : s.pwr.ok = true → t.pwr.ok = true
  sec : s.sec.ok = true → t.sec.ok = true
  otp : s.sec.otpVersion ≤ t.sec.otpVersion
  finals : t.sec.finals = s.sec.finals
  keys : t.sec.keys = s.sec.keys
  debug : t.sec.debugOn = true → s.sec.debugOn = true

theorem State.Upholds.trans {s t u : State} (h : s.Upholds t) (k : t.Upholds u) : s.Upholds u :=
  ⟨k.pwr ∘ h.pwr, k.sec ∘ h.sec, h.otp.trans k.otp, h.seq.trans k.seq, k.finals.trans h.finals⟩

theorem State.Guards.refl (s : State) : s.Guards s := ⟨id, id, le_rfl, rfl, rfl, id⟩

theorem State.Guards.trans {s t u : State} (h : s.Guards t) (k : t.Guards u) : s.Guards u :=
  ⟨k.pwr ∘ h.pwr, k.sec ∘ h.sec, h.otp.trans k.otp, k.finals.trans h.finals, k.keys.trans h.keys, h.debug ∘ k.debug⟩

theorem Sec.keySeq_of_keys {x y : Sec} (h : x.keys = y.keys) : x.keySeq = y.keySeq := congrArg (fun k => k.2.1) h

theorem State.Guards.upholds {s t : State} (h : s.Guards t) : s.Upholds t :=
  ⟨h.pwr, h.sec, h.otp, (Sec.keySeq_of_keys h.keys).ge, h.finals⟩

theorem State.Guards.of_pwr {s : State} {p : Pwr} (d : Dev) (h : s.pwr.ok = true → p.ok = true) : s.Guards { s with pwr := p, d := d } :=
  ⟨h, id, le_rfl, rfl, rfl, id⟩

theorem State.Guards.planes (s : State) (d : Dev) : s.Guards { s with d := d } := .of_pwr d id

theorem State.Guards.of_root {s : State} {p : Pwr} {x : Sec} (d : Dev) (hp : s.pwr.ok = true → p.ok = true) (hx : x.root = s.sec.root) :
    s.Guards { s with pwr := p, sec := x, d := d } := by
  have hok := Sec.ok_congr hx
  simp only [Sec.root, Prod.mk.injEq] at hx
  obtain ⟨-, ⟨-, hdebug, -⟩, hotp, hkeys, hfinals⟩ := hx
  exact ⟨hp, fun h => hok.trans h, hotp.ge, hfinals, hkeys, fun h => hdebug ▸ h⟩

theorem State.Guards.of_kept {s t : State} (h : t.kept = s.kept) : s.Guards t := by
  simp only [State.kept, Prod.mk.injEq] at h
  obtain ⟨hpwr, hroot, -⟩ := h
  have hok := Sec.ok_congr hroot
  simp only [Sec.root, Prod.mk.injEq] at hroot
  obtain ⟨-, ⟨-, hdebug, -⟩, hotp, hkeys, hfinals⟩ := hroot
  exact ⟨fun h => hpwr ▸ h, fun h => hok.trans h, hotp.ge, hfinals, hkeys, fun h => hdebug ▸ h⟩

theorem State.Guards.ite {c : Prop} [Decidable c] {s a b : State} (ha : c → s.Guards a) (hb : ¬c → s.Guards b) :
    s.Guards (if c then a else b) := by
  split
  · exact ha ‹_›
  · exact hb ‹_›

/-! ### The power path -/

variable (s : State)

theorem Pwr.ok_events {p : Pwr} {bits : Nat} (hb : bits < 256) (h : p.ok = true) : Pwr.ok { p with events := p.events ||| bits } = true := by
  rw [Pwr.ok_iff] at h ⊢
  obtain ⟨h1, h2, h3, h4, h5, hrest⟩ := h
  exact ⟨h1, h2, h3, h4, Nat.or_lt_two_pow (n := 8) h5 hb, hrest⟩

theorem Pwr.ok_returns {p : Pwr} (h : p.ok = true) : Pwr.ok { p with returns := satAdd 16 p.returns 1 } = true := by
  rw [Pwr.ok_iff] at h ⊢
  obtain ⟨h1, h2, h3, h4, h5, h6, h7, h8, h9, -⟩ := h
  exact ⟨h1, h2, h3, h4, h5, h6, h7, h8, h9, satAdd_sixteen_lt _ _⟩

theorem Pwr.ok_toAux {p : Pwr} (h : p.ok = true) : Pwr.ok { p with toAux := satAdd 16 p.toAux 1 } = true := by
  rw [Pwr.ok_iff] at h ⊢
  obtain ⟨h1, h2, h3, h4, h5, h6, h7, h8, -, hrest⟩ := h
  exact ⟨h1, h2, h3, h4, h5, h6, h7, h8, satAdd_sixteen_lt _ _, hrest⟩

theorem Pwr.reset_ok : Pwr.reset.ok = true := by decide

theorem State.supply_guards {bits : Nat} (hb : bits < 256) : s.Guards (s.supply bits) := .of_pwr _ (Pwr.ok_events hb)

theorem State.health_guards (n : Nat) : s.Guards (s.health n) := .planes s _

theorem State.toMain_guards : s.Guards s.toMain := .of_pwr _ Pwr.ok_returns

theorem State.drawMain_guards : s.Guards s.drawMain := .ite (fun _ => s.toMain_guards) fun _ => .refl s

/-! ### Start-up and resets -/

theorem Sec.runs_ok {x : Sec} (f : Firmware) (b : Bool) (h : x.ok = true) : (x.runs f b).ok = true := h

/-- The boot raises the security version of OTP at most. -/
theorem Sec.boot_cases (x : Sec) : (∃ f b, x.boot = x.runs f b) ∨ x.boot = { x with recovery := true, attest := true } := by
  unfold Sec.boot
  generalize (if x.activeB then x.copyB else x.copyA) = first
  generalize (if x.activeB then x.copyA else x.copyB) = other
  simp only
  split
  · exact .inl ⟨_, _, rfl⟩
  split
  · exact .inl ⟨_, _, rfl⟩
  · exact .inr rfl

theorem State.runs_guards (p : Pwr) (d : Dev) (f : Firmware) (b : Bool) (hp : s.pwr.ok = true → p.ok = true) :
    s.Guards { s with pwr := p, sec := s.sec.runs f b, d := d } :=
  ⟨hp, Sec.runs_ok f b, le_max_left _ _, rfl, rfl, id⟩

theorem State.boot_guards (p : Pwr) (d : Dev) (hp : s.pwr.ok = true → p.ok = true) : s.Guards { s with pwr := p, sec := s.sec.boot, d := d } := by
  obtain ⟨f, b, h⟩ | h := s.sec.boot_cases
  · rw [h]
    exact s.runs_guards p d f b hp
  · rw [h]
    exact .of_root d hp rfl

theorem State.enterSwatch_guards : s.Guards s.enterSwatch := .of_pwr _ id

theorem State.startUp_guards : s.Guards s.startUp := by
  have hboot : s.Guards { s with sec := s.sec.boot, d := if s.d.ctl.state = 1 then s.d else s.d.setState 1, pwr := { s.pwr with bootOrder := 2 } } :=
    s.boot_guards _ _ id
  refine State.Guards.ite (fun _ => ?_) fun _ => State.Guards.ite (fun _ => ?_) fun _ => hboot
  · exact hboot.trans (.planes _ _)
  · exact hboot.trans (State.enterSwatch_guards _)

theorem Sec.cold_ok {x : Sec} (h : x.ok = true) : x.cold.ok = true := by
  rw [Sec.ok_iff] at h ⊢
  obtain ⟨-, -, -, -, -, -, -, -, hslots⟩ := h
  simpa [Sec.cold, Sec.reset] using hslots

theorem State.cold_guards (p : Pwr) (d : Dev) (hp : p.ok = true) : s.Guards { s with pwr := p, sec := s.sec.cold, d := d } :=
  ⟨fun _ => hp, Sec.cold_ok, le_rfl, rfl, rfl, fun h => absurd h (by simp [Sec.cold, Sec.reset])⟩

/-! ### Switch-over and HOLD -/

theorem State.switchOver_guards : s.Guards s.switchOver := .of_pwr _ Pwr.ok_toAux

theorem State.returnMain_guards : s.Guards s.returnMain := s.toMain_guards.trans (.planes _ _)

theorem State.stopStartUp_guards : s.Guards s.stopStartUp := .of_pwr _ id

theorem State.mainGone_guards : s.Guards s.mainGone :=
  .ite (fun _ => s.stopStartUp_guards) fun _ => .ite (fun _ => .of_pwr _ id) fun _ => s.switchOver_guards

theorem State.beginHold_guards : s.Guards s.beginHold := .ite (fun _ => .of_pwr _ id) fun _ => .refl s

theorem State.forceAux_guards : s.Guards s.forceAux := by
  refine s.drawMain_guards.trans (.ite (fun _ => .refl _) fun _ => ?_)
  have hsupply : s.drawMain.Guards (s.drawMain.supply 128) := State.supply_guards _ (by decide)
  refine .ite (fun _ => hsupply) fun _ => .ite (fun _ => ?_) fun _ => ?_
  · have hforced := hsupply.trans (.of_pwr (p := { (s.drawMain.supply 128).pwr with forced := true }) (s.drawMain.supply 128).d id)
    exact .ite (fun _ => hforced) fun _ => hforced.trans (State.switchOver_guards _)
  · exact (hsupply.trans (.of_pwr (p := { (s.drawMain.supply 128).pwr with qualified := false }) (s.drawMain.supply 128).d id)).trans (State.mainGone_guards _)

theorem State.forceReturn_guards : s.Guards s.forceReturn := .ite (fun _ => s.returnMain_guards) fun _ => .refl s

/-! ### Loops -/

theorem capOff_ok {p : Pwr} (h : p.ok = true) : (capOff p).ok = true := by
  unfold capOff
  split
  · exact h
  · rw [Pwr.ok_iff] at h ⊢
    obtain ⟨-, -, hrest⟩ := h
    exact ⟨by simp, by simp, hrest⟩

theorem capStep_ok {p : Pwr} (slow fast : Nat) (h : p.ok = true) : (capStep p slow fast).ok = true := by
  have hoff := capOff_ok h
  rw [Pwr.ok_iff] at h
  obtain ⟨hlow, hhigh, hrest⟩ := h
  have hn {n : Nat} {u : Bool} (h1 : 2 ≤ n) (h2 : n ≤ 16) : Pwr.ok { p with nCap := n, capUnmet := u } = true := by
    rw [Pwr.ok_iff]
    exact ⟨h1, h2, hrest⟩
  unfold capStep
  split
  · exact hoff
  split
  · exact hn (by omega) (by omega)
  split
  · exact hn (by omega) (by omega)
  split
  · exact hn (by omega) (by omega)
  · exact hn hlow hhigh

theorem thermalStep_range {n : Nat} (ts : List Nat) (h2 : 2 ≤ n) (h16 : n ≤ 16) : 2 ≤ thermalStep n ts ∧ thermalStep n ts ≤ 16 := by
  unfold thermalStep
  simp only
  split
  · omega
  split
  · omega
  split <;> omega

theorem Pwr.ok_thermal {p : Pwr} (ts : List Nat) (bits : Nat) (hb : bits < 256) (h : p.ok = true) :
    Pwr.ok { p with nThermal := thermalStep p.nThermal ts, events := p.events ||| bits } = true := by
  have hev := Pwr.ok_events hb h
  rw [Pwr.ok_iff] at h hev ⊢
  obtain ⟨h1, h2, h3, h4, -⟩ := h
  obtain ⟨-, -, -, -, hrest⟩ := hev
  obtain ⟨hlow, hhigh⟩ := thermalStep_range ts h3 h4
  exact ⟨h1, h2, hlow, hhigh, hrest⟩

theorem healthTick_range (a points floors : Nat) : (healthTick a points floors).1 ≤ 255 * 65536 ∧ (healthTick a points floors).2 ≤ 255 :=
  ⟨min_le_right _ _, min_le_right _ _⟩

/-! ### Settings -/

theorem State.setEffecter_guards {id v : Nat} (hv : v < effecterRange id) : s.Guards (s.setEffecter id v) := by
  have hpwr {p : Pwr} (h : s.pwr.ok = true → p.ok = true) : s.Guards { s with pwr := p } := .of_pwr s.d h
  unfold State.setEffecter
  split
  · refine hpwr fun h => ?_
    rw [Pwr.ok_iff] at h ⊢
    obtain ⟨h1, h2, h3, h4, h5, -, hrest⟩ := h
    exact ⟨h1, h2, h3, h4, h5, hv, hrest⟩
  · refine hpwr fun h => ?_
    rw [Pwr.ok_iff] at h ⊢
    obtain ⟨h1, h2, h3, h4, h5, h6, -, hrest⟩ := h
    exact ⟨h1, h2, h3, h4, h5, h6, hv, hrest⟩
  · exact hpwr fun h => capOff_ok (p := { s.pwr with capEnable := v == 1 }) h
  · refine hpwr fun h => ?_
    rw [Pwr.ok_iff] at h ⊢
    obtain ⟨h1, h2, h3, h4, h5, h6, h7, -, hrest⟩ := h
    exact ⟨h1, h2, h3, h4, h5, h6, h7, hv, hrest⟩
  · exact .ite (fun _ => s.forceAux_guards) fun _ => .refl s
  · exact .ite (fun _ => s.forceReturn_guards) fun _ => .refl s
  · refine ⟨id, fun h => ?_, le_rfl, rfl, rfl, id⟩
    rw [Sec.ok_iff] at h ⊢
    obtain ⟨h1, h2, -, hrest⟩ := h
    exact ⟨h1, h2, hv, hrest⟩
  · refine ⟨id, fun h => ?_, le_rfl, rfl, rfl, id⟩
    rw [Sec.ok_iff] at h ⊢
    obtain ⟨h1, h2, h3, -, hrest⟩ := h
    exact ⟨h1, h2, h3, min_le_right _ _, hrest⟩
  · exact .refl s

theorem effecterSet_guards (id v : Nat) : s.Guards (effecterSet id v s).1 := by
  unfold effecterSet
  split
  · exact .refl s
  split
  · exact .refl s
  · exact s.setEffecter_guards (not_le.mp ‹_›)

theorem State.bootUpdate_guards : s.Guards s.bootUpdate := by
  have hruns : s.Guards { s with sec := s.sec.runs (if s.sec.activeB then s.sec.copyB else s.sec.copyA) s.sec.activeB
                                 d := s.d.setState 1, pwr := { s.pwr with bootOrder := 2 } } := s.runs_guards _ _ _ _ id
  exact .ite (fun _ => hruns.trans (State.enterSwatch_guards _)) fun _ => hruns

theorem activate_guards (selfContained : Bool) : s.Guards (activate selfContained s).1 := by
  unfold activate
  split
  · exact .refl s
  split
  · exact .refl s
  split
  · exact .refl s
  · have hkept : ∀ t : State, t.kept = s.kept → s.Guards (if s.sec.recovery then t.bootUpdate else t) := fun t h =>
      .ite (fun _ => (State.Guards.of_kept h).trans (State.bootUpdate_guards t)) fun _ => .of_kept h
    refine hkept _ ?_
    exact (State.stage_kept { s with sec := { s.sec with activeB := !s.sec.runningB, updatePending := true } } 6).trans rfl

/-! ### Answers that change the root -/

theorem State.respond_guards (p : Path) (typ : Nat) (msg : List Byte) : s.Guards (s.respond p typ msg) := .of_kept (s.respond_kept p typ msg)

theorem State.pldm_guards (p : Path) (inst typ cmd : Nat) {f : State → State × List Byte} (hf : s.Guards (f s).1) :
    s.Guards (s.pldm p inst typ cmd f) :=
  .ite (fun _ => hf.trans (State.respond_guards _ _ _ _)) fun _ => .refl s

theorem State.relock_guards : s.Guards s.relock :=
  .ite (fun _ => ⟨id, fun h => by
    rw [Sec.ok_iff] at h ⊢
    obtain ⟨h1, h2, h3, h4, -, -, -, hrest⟩ := h
    exact ⟨h1, h2, h3, h4, by simp, by simp, .inr ⟨rfl, rfl⟩, hrest⟩, le_rfl, rfl, rfl, by simp⟩) fun _ => .refl s

theorem State.vendor_guards (p : Path) (code : Nat) {f : State → State × List Byte} (hf : s.Guards (f s).1) : s.Guards (s.vendor p code f) :=
  .ite (fun _ => hf.trans (State.respond_guards _ _ _ _)) fun _ => .refl s

theorem State.vendor_upholds (p : Path) (code : Nat) {f : State → State × List Byte} (hf : s.Upholds (f s).1) :
    s.Upholds (s.vendor p code f) := by
  unfold State.vendor
  split
  · exact hf.trans (State.respond_guards _ _ _ _).upholds
  · exact (State.Guards.refl s).upholds

theorem forall_mem_tset {α : Type} {P : α → Prop} {t : Tab α} {i : Nat} {a : α} (ht : ∀ e ∈ t, P e.2) (ha : P a) : ∀ e ∈ tset t i a, P e.2 := by
  intro e he
  rcases mem_tset he with rfl | h | h
  · exact ha
  · exact ht e h.1
  · exact ht e h

/-- A key operation leaves slots in the states empty, active and revoked. -/
theorem Sec.keyEffect_slots {x : Sec} (b : List Byte) (h : ∀ e ∈ x.slots, e.2.1 ≤ 2) : ∀ e ∈ (x.keyEffect b).slots, e.2.1 ≤ 2 := by
  unfold Sec.keyEffect
  simp only
  split
  · exact forall_mem_tset (P := fun k : Nat × List Byte => k.1 ≤ 2) h one_le_two
  · split
    · intro e he
      simp only [List.mem_map] at he
      obtain ⟨n, -, rfl⟩ := he
      exact le_rfl
    · exact forall_mem_tset (P := fun k : Nat × List Byte => k.1 ≤ 2) h le_rfl
  · exact h
  · exact h
  · exact h

/-- A key operation changes the slots and slot 0 alone. -/
theorem Sec.keyEffect_eq (x : Sec) (b : List Byte) : ∃ slots off, x.keyEffect b = { x with slots := slots, slot0Disabled := off } := by
  unfold Sec.keyEffect
  simp only
  split
  · exact ⟨_, _, rfl⟩
  · split
    · exact ⟨_, _, rfl⟩
    · exact ⟨_, _, rfl⟩
  · exact ⟨_, _, rfl⟩
  · exact ⟨_, _, rfl⟩
  · exact ⟨_, _, rfl⟩

theorem Sec.keyEffect_ok {x : Sec} (b : List Byte) (n : Nat) (h : x.ok = true) : Sec.ok { x.keyEffect b with keySeq := n } = true := by
  rw [Sec.ok_iff] at h
  obtain ⟨h1, h2, h3, h4, h5, h6, h7, h8, hslots⟩ := h
  have hnew := Sec.keyEffect_slots b hslots
  obtain ⟨slots, off, heq⟩ := x.keyEffect_eq b
  rw [heq] at hnew ⊢
  rw [Sec.ok_iff]
  exact ⟨h1, h2, h3, h4, h5, h6, h7, h8, hnew⟩

/-- A key record that applies has a sequence above the stored one. -/
theorem State.keySeq_lt_of_keyStatus {p : Path} {b : List Byte} (h : s.keyStatus p b = 0) : s.sec.keySeq < field b 16 8 := by
  unfold State.keyStatus at h
  simp only at h
  split_ifs at h
  omega

theorem keyRecordOp_upholds (p : Path) (b : List Byte) : s.Upholds (keyRecordOp p b s).1 := by
  unfold keyRecordOp
  simp only
  split
  case isTrue hst =>
    obtain ⟨slots, off, heq⟩ := s.sec.keyEffect_eq b
    exact ⟨id, Sec.keyEffect_ok b _, by simp [heq], (s.keySeq_lt_of_keyStatus hst).le, by simp [heq]⟩
  case isFalse => exact (State.Guards.refl s).upholds

theorem tokenFieldsOk_issuer {b : List Byte} (h : tokenFieldsOk b = true) : byteAt b 4 < 16 ∧ byteAt b 5 ≤ 1 := by
  simp only [tokenFieldsOk, Bool.and_eq_true, decide_eq_true_eq] at h
  exact ⟨h.1.1.1.2, h.1.1.2⟩

theorem tokenScope_lt {b : List Byte} (h : byteAt b 4 < 16) : tokenScope b < 16 := by
  unfold tokenScope
  split <;> omega

theorem tokenOp_upholds (b : List Byte) : s.Upholds (tokenOp b s).1 := by
  unfold tokenOp
  simp only
  split
  case isTrue hst =>
    have hfields : tokenFieldsOk b = true := by
      unfold State.tokenStatus at hst
      split at hst
      · contradiction
      · simpa using ‹¬ (!tokenFieldsOk b) = true›
    obtain ⟨hscope, hissuer⟩ := tokenFieldsOk_issuer hfields
    refine ⟨id, fun h => ?_, le_rfl, le_rfl, rfl⟩
    rw [Sec.ok_iff] at h ⊢
    obtain ⟨h1, h2, h3, h4, -, -, -, hrest⟩ := h
    exact ⟨h1, h2, h3, h4, tokenScope_lt hscope, hissuer, .inl rfl, hrest⟩
  case isFalse =>
    refine ⟨id, fun h => ?_, le_rfl, le_rfl, rfl⟩
    rw [Sec.ok_iff] at h ⊢
    obtain ⟨h1, h2, h3, h4, h5, h6, h7, -, hrest⟩ := h
    exact ⟨h1, h2, h3, h4, h5, h6, h7, satAdd_sixteen_lt _ _, hrest⟩

end Sys2Proof.Machine
end

section
/-! SUPPORT. What one command does to the power path, the security root and the planes' work: the statements about ranges, versions,
keys and the planes apart are read off it. -/
namespace Sys2Proof.Machine
open Sys2Proof

/-! ### Messages and register writes -/

variable (s : State) (p : Path)

theorem pldmBase_kept (cmd : Nat) (b : List Byte) : (pldmBase cmd b s).1.kept = s.kept := by
  unfold pldmBase
  split
  · exact tidSet_kept s _
  · rfl
  · exact pldmVersionGet_kept s _
  · rfl
  · exact pldmCommandsGet_kept s _
  · rfl

theorem pldmMonitor_guards (cmd : Nat) (b : List Byte) : s.Guards (pldmMonitor cmd b s).1 := by
  unfold pldmMonitor
  split
  · exact .of_kept (receiverSet_kept s _ _)
  · exact .of_kept (sensorGet_kept s _)
  · exact .of_kept (stateSensorGet_kept s _)
  · exact effecterSet_guards s _ _
  · exact .of_kept (effecterGet_kept s _)
  · exact .refl s
  · exact .of_kept (pdrGet_kept s _)
  · exact .refl s

theorem pldmUpdate_guards (cmd : Nat) (b : List Byte) : s.Guards (pldmUpdate cmd b s).1 := by
  unfold pldmUpdate
  split
  · exact .refl s
  · exact .refl s
  · exact .of_kept (updateRequest_kept s _ _)
  · exact .of_kept (passTable_kept s _ _)
  · exact .of_kept (componentUpdate_kept s _ _)
  · exact activate_guards s _
  · exact .refl s
  · exact .of_kept (cancelComponent_kept s)
  · exact .of_kept (cancelAll_kept s)
  · exact .refl s

theorem State.pldmMessage_guards (m : List Byte) : s.Guards (s.pldmMessage p m) := by
  have hask (t : State) : t.Guards (t.exchange p fun t => t.askData p) := .of_kept (t.exchange_kept p fun t => t.askData_kept p)
  unfold State.pldmMessage
  simp only
  split
  · exact .ite (fun _ => .of_kept (s.exchange_kept p fun t => t.takeData_kept p _)) fun _ => .refl s
  refine .ite (fun _ => State.Guards.trans ?_ (hask _)) fun _ => ?_
  all_goals
    split
    · exact s.pldm_guards p _ _ _ (.of_kept (pldmBase_kept s _ _))
    · exact s.pldm_guards p _ _ _ (pldmMonitor_guards s _ _)
    · exact s.pldm_guards p _ _ _ (pldmUpdate_guards s _ _)
    · exact s.pldm_guards p _ _ _ (.refl s)

theorem State.vendorMessage_upholds (m : List Byte) : s.Upholds (s.vendorMessage p m) := by
  unfold State.vendorMessage
  simp only
  split
  · exact (State.Guards.refl s).upholds
  split
  · exact s.vendor_upholds p 1 (keyRecordOp_upholds s p _)
  · exact (State.Guards.of_kept (s.vendor_kept p 2 fun _ => rfl)).upholds
  · exact s.vendor_upholds p 3 (tokenOp_upholds s _)
  · exact (s.vendor_guards p 4 (f := relockOp) s.relock_guards).upholds
  · exact (State.Guards.of_kept (s.peerAttest_kept p _)).upholds
  · exact (State.Guards.of_kept (s.vendor_kept p 6 fun _ => rfl)).upholds
  · exact (State.Guards.refl s).upholds

theorem State.mctp_upholds (typ : Nat) (m : List Byte) : s.Upholds (s.mctp p typ m) := by
  unfold State.mctp
  split
  · exact (State.Guards.of_kept (s.controlMessage_kept p m)).upholds
  · exact (s.pldmMessage_guards p m).upholds
  · exact (State.Guards.of_kept (s.spdm_kept p false fun t => spdmAny_kept t p m)).upholds
  · exact (State.Guards.of_kept (s.securedMessage_kept p m)).upholds
  · exact s.vendorMessage_upholds p m
  · exact (State.Guards.refl s).upholds

theorem State.setMbx_guards (x : Mailbox) : s.Guards { s with sec := { s.sec with mbx := x } } := .of_root s.d id rfl

theorem State.Upholds.ite {c : Prop} [Decidable c] {s a b : State} (ha : s.Upholds a) (hb : s.Upholds b) : s.Upholds (if c then a else b) := by
  split
  · exact ha
  · exact hb

theorem State.mbxSend_upholds : s.Upholds s.mbxSend :=
  .ite (State.Guards.refl s).upholds (.ite (s.setMbx_guards _).upholds
    (.ite ((s.setMbx_guards _).upholds.trans (State.mctp_upholds _ _ _ _)) (s.setMbx_guards _).upholds))

theorem State.mbxCtrl_upholds (val en : Nat) : s.Upholds (s.mbxCtrl val en) := by
  have hack (t : State) (h : s.Upholds t) : s.Upholds t.mbxAck := h.trans (State.Guards.of_kept t.mbxAck_kept).upholds
  have hctrl (y : Mailbox) (send ack : Bool) :
      s.Upholds (let s1 : State := { s with sec := { s.sec with mbx := y } }
        let s2 := if send then s1.mbxSend else s1
        if ack then s2.mbxAck else s2) := by
    have hset := (s.setMbx_guards y).upholds
    have hsend := State.Upholds.ite (c := send = true) (hset.trans (State.mbxSend_upholds _)) hset
    exact .ite (hack _ hsend) hsend
  exact hctrl _ _ _

theorem cleared_lt {old : Nat} (val en : Nat) (h : old < 256) : cleared old val en < 256 :=
  Nat.xor_lt_two_pow (n := 8) h (lt_of_le_of_lt Nat.and_le_left h)

theorem State.writePwr_guards (o val en : Nat) : s.Guards (s.writePwr o val en) := by
  unfold State.writePwr
  split
  · have hset : s.Guards { s with pwr := capOff { s.pwr with
        capEnable := bitAt (merge (b2n s.pwr.capEnable + 256 * s.pwr.qualify) val en) 0
        qualify := slice (merge (b2n s.pwr.capEnable + 256 * s.pwr.qualify) val en) 15 8 } } := by
      refine .of_pwr s.d fun h => capOff_ok ?_
      rw [Pwr.ok_iff] at h ⊢
      obtain ⟨h1, h2, h3, h4, h5, h6, h7, -, hrest⟩ := h
      exact ⟨h1, h2, h3, h4, h5, h6, h7, Nat.mod_lt _ (by decide), hrest⟩
    have haux := State.Guards.ite (c := bitAt (val &&& en) 1 = true) (fun _ => hset.trans (State.forceAux_guards _)) fun _ => hset
    exact .ite (fun _ => haux.trans (State.forceReturn_guards _)) fun _ => haux
  · refine .of_pwr s.d fun h => ?_
    rw [Pwr.ok_iff] at h ⊢
    obtain ⟨h1, h2, h3, h4, h5, -, hrest⟩ := h
    exact ⟨h1, h2, h3, h4, h5, Nat.mod_lt _ (by decide), hrest⟩
  · refine .of_pwr s.d fun h => ?_
    rw [Pwr.ok_iff] at h ⊢
    obtain ⟨h1, h2, h3, h4, h5, h6, -, hrest⟩ := h
    exact ⟨h1, h2, h3, h4, h5, h6, Nat.mod_lt _ (by decide), hrest⟩
  · refine .of_pwr s.d fun h => ?_
    rw [Pwr.ok_iff] at h ⊢
    obtain ⟨h1, h2, h3, h4, h5, hrest⟩ := h
    exact ⟨h1, h2, h3, h4, cleared_lt val en h5, hrest⟩
  · exact .refl s

theorem State.writeMbx_upholds (o val en : Nat) : s.Upholds (s.writeMbx o val en) :=
  .ite (s.mbxCtrl_upholds val en) (.ite (s.setMbx_guards _).upholds (State.Guards.refl s).upholds)

theorem State.regWrite_upholds (off val en : Nat) : s.Upholds (s.regWrite off val en) := by
  have hdev (f : Dev → Dev) : s.Upholds { s with d := f s.d } := (State.Guards.planes s _).upholds
  have hrefl := (State.Guards.refl s).upholds
  unfold State.regWrite
  simp only
  split
  · exact hrefl
  split
  · exact hdev fun d => d.writeGlobal _ val en
  split
  · exact hdev fun d => d.writeControl _ val en
  split
  · exact hdev fun d => d.writeMdie _ _ _ val en
  split
  · exact hdev fun d => d.writePortReg _ _ val en
  split
  · exact (s.writePwr_guards _ _ _).upholds
  split
  · exact .ite s.relock_guards.upholds hrefl
  split
  · exact s.writeMbx_upholds _ _ _
  · exact hrefl

/-- A write that does not reach the registers touches the planes alone. -/
theorem State.barWrite_guards (off : Nat) (tlp : Tlp) (bad : Bool) {f : State → State} (hf : s.Guards (f s)) : s.Guards (s.barWrite off tlp bad f) := by
  unfold State.barWrite
  split
  · exact .refl s
  split
  · exact .planes s _
  split
  · exact .planes s _
  split
  · exact .planes s _
  · exact hf

theorem State.barWrite_upholds (off : Nat) (tlp : Tlp) (bad : Bool) {f : State → State} (hf : s.Upholds (f s)) :
    s.Upholds (s.barWrite off tlp bad f) := by
  unfold State.barWrite
  split
  · exact (State.Guards.refl s).upholds
  split
  · exact (State.Guards.planes s _).upholds
  split
  · exact (State.Guards.planes s _).upholds
  split
  · exact (State.Guards.planes s _).upholds
  · exact hf

theorem State.regSet_guards (off : Nat) (f : Dev → Dev) : s.Guards (s.regSet off f) :=
  s.barWrite_guards off _ _ (.ite (fun _ => .planes s _) fun _ => .refl s)

/-! ### One command -/

/-- What command `c` may do between `s` and `u`: keep the ranges and let no version fall, leave at most one final record, touch keys and
debug only where it can bring a record, and leave the planes' work where it speaks with the management core alone. -/
structure State.Effect (c : Instr) (s u : State) : Prop where
  pwr : s.pwr.ok = true → u.pwr.ok = true
  sec : s.sec.ok = true → u.sec.ok = true
  otp : s.sec.otpVersion ≤ u.sec.otpVersion
  seq : s.sec.keySeq ≤ u.sec.keySeq
  finals : ∃ fresh, u.sec.finals = fresh ++ s.sec.finals ∧ fresh.length ≤ 1
  keys : bringsRecord c = false → u.sec.keys = s.sec.keys ∧ (u.sec.debugOn = true → s.sec.debugOn = true)
  work : managementOnly c = true → u.d.work = s.d.work

variable {s} {c : Instr} {t u : State}

theorem State.Upholds.effect (h : s.Upholds u) (hc : bringsRecord c = true) (hwork : managementOnly c = true → u.d.work = s.d.work) :
    State.Effect c s u :=
  ⟨h.pwr, h.sec, h.otp, h.seq, ⟨[], h.finals, Nat.zero_le _⟩, fun hb => absurd hb (by simp [hc]), hwork⟩

theorem State.Guards.effect_of_work (h : s.Guards u) (hwork : u.d.work = s.d.work) : State.Effect c s u :=
  ⟨h.pwr, h.sec, h.otp, h.upholds.seq, ⟨[], h.finals, Nat.zero_le _⟩, fun _ => ⟨h.keys, h.debug⟩, fun _ => hwork⟩

theorem State.Guards.effect (h : s.Guards u) (hc : managementOnly c = false) : State.Effect c s u :=
  ⟨h.pwr, h.sec, h.otp, h.upholds.seq, ⟨[], h.finals, Nat.zero_le _⟩, fun _ => ⟨h.keys, h.debug⟩, fun hm => absurd hm (by simp [hc])⟩

theorem State.work_of_kept (h : u.kept = s.kept) : u.d.work = s.d.work := congrArg (fun k => k.2.2) h

theorem State.effect_of_kept (h : u.kept = s.kept) : State.Effect c s u := (State.Guards.of_kept h).effect_of_work (State.work_of_kept h)

/-- A loss of power leaves one final record, and flash and OTP as they are. -/
theorem State.Guards.effect_powerOff (h : s.Guards t) (hc : managementOnly c = false) (cause : Nat) (opened trip : Bool) (mv av : Nat) :
    State.Effect c s (t.powerOff cause opened trip mv av) := by
  unfold State.powerOff
  split
  · exact h.effect hc
  · have hsec : t.sec.ok = true → Sec.ok (Sec.cold { t.sec with finals := (t.d.stepNo, t.d.ctl.state, cause) :: t.sec.finals }) = true :=
      fun h => Sec.cold_ok h
    exact ⟨fun _ => Pwr.reset_ok, hsec ∘ h.sec, h.otp, h.upholds.seq, ⟨[_], congrArg _ h.finals, le_rfl⟩,
      fun _ => ⟨h.keys, fun hon => absurd hon (by simp [Sec.cold, Sec.reset])⟩, fun hm => absurd hm (by simp [hc])⟩

/-! ### Every command -/

/-- A command that acts on the planes alone. -/
theorem effect_of_nextD {o : Host.Outcome State Fault Refusal} {f : Dev → Dev} (h : o = nextD s f) (hc : managementOnly c = false) :
    ∃ u, o = .next (s.went u) ∧ State.Effect c s u :=
  ⟨{ s with d := f s.d }, h, (State.Guards.planes s _).effect hc⟩

theorem effect_of_nextS {o : Host.Outcome State Fault Refusal} {f : State → State} (h : o = nextS s f) (hf : State.Effect c s (f s)) :
    ∃ u, o = .next (s.went u) ∧ State.Effect c s u := ⟨f s, h, hf⟩

theorem effect_of_nextS_kept {o : Host.Outcome State Fault Refusal} {f : State → State} (h : o = nextS s f) (hf : (f s).kept = s.kept) :
    ∃ u, o = .next (s.went u) ∧ State.Effect c s u := effect_of_nextS h (State.effect_of_kept hf)

theorem effect_of_nextS_guards {o : Host.Outcome State Fault Refusal} {f : State → State} (h : o = nextS s f) (hf : s.Guards (f s))
    (hc : managementOnly c = false) : ∃ u, o = .next (s.went u) ∧ State.Effect c s u := effect_of_nextS h (hf.effect hc)

end Sys2Proof.Machine
end

section
/-! SUPPORT. The commands one by one: what each does to the power path, the security root and the planes' work; and the statements that
follow for every step. -/
namespace Sys2Proof.Machine
open Sys2Proof

variable (s : State)

/-! ### The commands of the power path -/

theorem execSwatchEnd_guards (r : SwatchResult) : ∃ f, execSwatchEnd r s = nextS s f ∧ s.Guards (f s) :=
  ⟨_, rfl, .ite (fun _ => .refl s) fun _ => .of_pwr _ id⟩

theorem execMainQualified_guards : ∃ f, execMainQualified s = nextS s f ∧ s.Guards (f s) := by
  refine ⟨_, rfl, .ite (fun _ => .refl s) fun _ => ?_⟩
  have hset : s.Guards { s with pwr := { s.pwr with qualified := true, mainWas := false } } := .of_pwr s.d id
  have hback := State.Guards.ite (c := s.pwr.mainWas = true) (fun _ => hset.trans (State.supply_guards _ (bits := 2) (by decide))) fun _ => hset
  have hmain (t : State) := State.Guards.ite (c := t.d.ctl.onAux = true) (fun _ => t.toMain_guards) fun _ => .refl t
  exact .ite (fun _ => .ite (fun _ => (hback.trans (hmain _)).trans (State.enterSwatch_guards _)) fun _ => hback) fun _ =>
    .ite (fun _ => hback.trans (State.returnMain_guards _)) fun _ => hback.trans (State.drawMain_guards _)

theorem execHoldEntry_guards : ∃ f, execHoldEntry s = nextS s f ∧ s.Guards (f s) := by
  refine ⟨_, rfl, .ite (fun _ => .refl s) fun _ => ?_⟩
  have hplanes (d : Dev) : s.Guards { s.beginHold with d := d } := s.beginHold_guards.trans (.planes _ d)
  have hhold (n : Nat) (d : Dev) : s.Guards { s.beginHold with pwr := { s.beginHold.pwr with switchStage := 0, holdReturn := n }, d := d } :=
    s.beginHold_guards.trans (.of_pwr d id)
  exact .ite (fun _ => hplanes _) fun _ => .ite (fun _ => (hhold _ _).trans (State.returnMain_guards _)) fun _ => hhold _ _

theorem execAuxReturned_guards (cv : Nat) : ∃ f, execAuxReturned cv s = nextS s f ∧ s.Guards (f s) := by
  refine ⟨_, rfl, .ite (fun _ => .refl s) fun _ => ?_⟩
  have hset : s.Guards { s with pwr := { s.pwr with auxCv := cv, auxOk := true, auxOpen := false } } := .of_pwr s.d id
  exact .ite (fun _ => hset) fun _ => hset.trans (State.supply_guards _ (by decide))

theorem execInputOverVoltage_guards (main : Bool) (cv : Nat) : ∃ f, execInputOverVoltage main cv s = nextS s f ∧ s.Guards (f s) := by
  refine ⟨_, rfl, .ite (fun _ => .refl s) fun _ => ?_⟩
  have hopen : s.Guards { s with pwr := if main then { s.pwr with mainCv := cv, mainOpen := true, mainOk := false, qualified := false }
                                        else { s.pwr with auxCv := cv, auxOpen := true, auxOk := false } } := by
    refine .of_pwr s.d fun h => ?_
    cases main <;> exact h
  exact (hopen.trans (State.supply_guards _ (bits := 16) (by decide))).trans (State.health_guards _ 16)

theorem execInputOutsideInRangeBand_guards (main : Bool) (cv : Nat) :
    ∃ f, execInputOutsideInRangeBand main cv s = nextS s f ∧ s.Guards (f s) := by
  refine ⟨_, rfl, s.drawMain_guards.trans (.ite (fun _ => .refl _) fun _ => ?_)⟩
  exact .ite (fun _ => .of_pwr _ id) fun _ => .of_pwr _ id

theorem execCapLoopTick_guards (slow fast : Nat) :
    ∃ f, execCapLoopTick slow fast s = nextS s f ∧ s.Guards (f s) ∧ (f s).d.work = s.d.work := by
  refine ⟨_, rfl, .ite (fun _ => .refl s) fun _ => ?_, ?_⟩
  · have hset : s.Guards { s with pwr := { s.pwr with mainPower := slow } } := .of_pwr s.d id
    have hstep : s.Guards { s with pwr := capStep { s.pwr with mainPower := slow } slow fast } :=
      .of_pwr s.d fun h => capStep_ok (p := { s.pwr with mainPower := slow }) slow fast h
    exact .ite (fun _ => hset) fun _ => .ite
      (fun _ => (hstep.trans (State.supply_guards _ (bits := 32) (by decide))).trans (State.health_guards _ 16)) fun _ => hstep
  · simp only
    split
    · rfl
    split
    · rfl
    split
    · exact Dev.logEv_work s.d 2 0x0040 0xFFFF _ 0
    · rfl

theorem execThermalTick_guards (ts : List Nat) :
    ∃ f, execThermalTick ts s = nextS s f ∧ s.Guards (f s) ∧ (f s).d.work = s.d.work := by
  refine ⟨_, rfl, .ite (fun _ => .refl s) fun _ => ?_, ?_⟩
  · have hset (x : List Bool) (c : Prop) [Decidable c] : s.Guards { s with
        pwr := { s.pwr with nThermal := thermalStep s.pwr.nThermal ts, events := if c then s.pwr.events ||| 64 else s.pwr.events }
        sec := { s.sec with tcrit := x } } := by
      refine .of_root s.d (fun h => ?_) rfl
      split
      · exact Pwr.ok_thermal ts 64 (by decide) h
      · simpa using Pwr.ok_thermal ts 0 (by decide) h
    exact .ite (fun _ => ((hset _ _).trans (State.health_guards _ _)).trans (.planes _ _)) fun _ => (hset _ _).trans (State.health_guards _ _)
  · simp only
    split
    · rfl
    split
    · exact Dev.logEv_work _ 2 0x0041 0xFFFF _ 0
    · rfl

theorem execSensorSample_guards (rs : List Nat) :
    ∃ f, execSensorSample rs s = nextS s f ∧ s.Guards (f s) ∧ (f s).d.work = s.d.work := by
  refine ⟨_, rfl, .ite (fun _ => .refl s) fun _ => ?_, ?_⟩
  · refine State.Guards.trans ?_ (.of_kept (State.sweepAttest_kept _))
    exact .of_root _ id rfl
  · simp only
    split
    · rfl
    · refine (State.work_of_kept (State.sweepAttest_kept _)).trans ?_
      simp only
      split <;> rfl

theorem execHealthTick_guards : ∃ f, execHealthTick s = nextS s f ∧ s.Guards (f s) ∧ (f s).d.work = s.d.work := by
  refine ⟨_, rfl, .ite (fun _ => .refl s) fun _ => ?_, ?_⟩
  · refine ⟨id, fun h => ?_, le_rfl, rfl, rfl, id⟩
    rw [Sec.ok_iff] at h ⊢
    obtain ⟨-, -, hrest⟩ := h
    obtain ⟨hscore, hhealth⟩ := healthTick_range s.sec.score s.d.points s.floors
    exact ⟨hscore, hhealth, hrest⟩
  · simp only
    split <;> rfl

theorem execConventionalReset_guards : ∃ f, execConventionalReset s = nextS s f ∧ s.Guards (f s) := by
  refine ⟨_, rfl, .ite (fun _ => .refl s) fun _ => ?_⟩
  refine State.Guards.trans ?_ (State.startUp_guards _)
  exact s.cold_guards _ _ Pwr.reset_ok

theorem execFlr_guards : ∃ f, execFlr s = nextS s f ∧ s.Guards (f s) :=
  ⟨_, rfl, .ite (fun _ => .refl s) fun _ => .ite (fun _ => .planes s _) fun _ => .ite (fun _ => .of_pwr _ id) fun _ => .planes s _⟩

theorem execPowerOn_guards (mv av : Nat) : ∃ f, execPowerOn mv av s = nextS s f ∧ s.Guards (f s) := by
  refine ⟨_, rfl, .ite (fun _ => ?_) fun _ => .refl s⟩
  refine State.Guards.trans ?_ (State.startUp_guards _)
  exact .of_pwr s.d id

theorem execMainInRange_guards (cv : Nat) : ∃ f, execMainInRange cv s = nextS s f ∧ s.Guards (f s) :=
  ⟨_, rfl, .ite (fun _ => .refl s) fun _ => .of_pwr s.d id⟩

theorem execTripRelease_guards (mv av : Nat) : ∃ f, execTripRelease mv av s = nextS s f ∧ s.Guards (f s) :=
  ⟨_, rfl, .ite (fun _ => .of_pwr s.d id) fun _ => .refl s⟩

theorem execPllLockLoss_guards (die : Nat) : ∃ f, execPllLockLoss die s = nextS s f ∧ s.Guards (f s) :=
  ⟨_, rfl, .ite (fun _ => .refl s) fun _ => .of_pwr _ id⟩

theorem execHostLinkUp_guards (v w : Nat) : ∃ f, execHostLinkUp v w s = nextS s f ∧ s.Guards (f s) :=
  ⟨_, rfl, .ite (fun _ => .refl s) fun _ => .planes s _⟩

theorem State.Effect.ite {c : Instr} {s a b : State} {q : Prop} [Decidable q] (ha : State.Effect c s a) (hb : State.Effect c s b) :
    State.Effect c s (if q then a else b) := by
  split
  · exact ha
  · exact hb

theorem execMainLost_effect (cv : Nat) : ∃ f, execMainLost cv s = nextS s f ∧ State.Effect (.mainLost cv) s (f s) := by
  refine ⟨_, rfl, .ite (s.drawMain_guards.effect rfl) ?_⟩
  have hset : s.Guards { s.drawMain with pwr := { s.drawMain.pwr with mainCv := cv, mainOk := false, qualified := false, mainWas := true } } :=
    s.drawMain_guards.trans (.of_pwr _ id)
  have hlost := (hset.trans (State.supply_guards _ (bits := 1) (by decide))).trans (State.health_guards _ 64)
  exact .ite ((hlost.trans (State.mainGone_guards _)).effect rfl) (hlost.effect_powerOff rfl _ _ _ _ _)

theorem execAuxLost_effect (cv : Nat) : ∃ f, execAuxLost cv s = nextS s f ∧ State.Effect (.auxLost cv) s (f s) := by
  refine ⟨_, rfl, .ite ((State.Guards.refl s).effect rfl) ?_⟩
  have hset : s.Guards { s with pwr := { s.pwr with auxCv := cv, auxOk := false } } := .of_pwr _ id
  have hlost := (hset.trans (State.supply_guards _ (bits := 4) (by decide))).trans (State.health_guards _ 32)
  exact .ite (hlost.effect_powerOff rfl _ _ _ _ _) (.ite ((hlost.trans (State.returnMain_guards _)).effect rfl)
    (.ite ((hlost.trans (State.toMain_guards _)).effect rfl) (hlost.effect rfl)))

theorem execBothInputsLost_effect (cv : Nat) : ∃ f, execBothInputsLost cv s = nextS s f ∧ State.Effect (.bothInputsLost cv) s (f s) :=
  ⟨_, rfl, .ite ((State.Guards.refl s).effect_powerOff rfl _ _ _ _ _) ((State.Guards.refl s).effect rfl)⟩

/-! ### The commands of a load or a moult change the planes alone -/

theorem State.finishLoad_planes (l : Loading) : ∃ d, s.finishLoad l = { s with d := d } := by
  unfold State.finishLoad
  simp only
  split <;> exact ⟨_, rfl⟩

theorem State.runLoad_planes : ∃ d, s.runLoad = { s with d := d } := by
  unfold State.runLoad
  split
  · split
    · exact s.finishLoad_planes _
    · exact ⟨s.d, rfl⟩
  · exact ⟨s.d, rfl⟩

theorem State.finishMoult_planes (l : Loading) : ∃ d, s.finishMoult l = { s with d := d } := by
  unfold State.finishMoult
  simp only
  split
  · exact ⟨_, rfl⟩
  split
  · exact ⟨_, rfl⟩
  split <;> exact ⟨_, rfl⟩

theorem State.runMoult_planes : ∃ d, s.runMoult = { s with d := d } := by
  unfold State.runMoult
  split
  · split
    · exact s.finishMoult_planes _
    · exact ⟨s.d, rfl⟩
  · exact ⟨s.d, rfl⟩

theorem execPatternLoad_planes : ∃ f, execPatternLoad s = nextS s f ∧ ∃ d, f s = { s with d := d } := by
  refine ⟨_, rfl, ?_⟩
  split
  · exact ⟨s.d, rfl⟩
  split
  · split
    · exact s.runLoad_planes
    · exact ⟨_, rfl⟩
  · obtain ⟨d, h⟩ := State.runLoad_planes { s with d := s.d.askLoad }
    exact ⟨d, h⟩

theorem execFenceMoult_planes : ∃ f, execFenceMoult s = nextS s f ∧ ∃ d, f s = { s with d := d } := by
  refine ⟨_, rfl, ?_⟩
  split
  · exact s.runMoult_planes
  · obtain ⟨d, h⟩ := State.runMoult_planes { s with d := s.d.issue 0 0x0A false s.d.moultHead }
    exact ⟨d, h⟩

theorem effect_of_planes {c : Instr} {o : Host.Outcome State Fault Refusal} (h : ∃ f, o = nextS s f ∧ ∃ d, f s = { s with d := d }) (hc : managementOnly c = false) :
    ∃ u, o = .next (s.went u) ∧ State.Effect c s u := by
  obtain ⟨f, hf, d, hd⟩ := h
  exact ⟨f s, hf, (hd ▸ State.Guards.planes s d).effect hc⟩

theorem effect_of_ex_guards {c : Instr} {o : Host.Outcome State Fault Refusal} (h : ∃ f, o = nextS s f ∧ s.Guards (f s)) (hc : managementOnly c = false) :
    ∃ u, o = .next (s.went u) ∧ State.Effect c s u := by
  obtain ⟨f, hf, hg⟩ := h
  exact effect_of_nextS_guards hf hg hc

theorem effect_of_ex_effect {c : Instr} {o : Host.Outcome State Fault Refusal} (h : ∃ f, o = nextS s f ∧ State.Effect c s (f s)) :
    ∃ u, o = .next (s.went u) ∧ State.Effect c s u := by
  obtain ⟨f, hf, he⟩ := h
  exact ⟨f s, hf, he⟩

theorem effect_of_ex_work {c : Instr} {o : Host.Outcome State Fault Refusal} (h : ∃ f, o = nextS s f ∧ s.Guards (f s) ∧ (f s).d.work = s.d.work) :
    ∃ u, o = .next (s.went u) ∧ State.Effect c s u := by
  obtain ⟨f, hf, hg, hwork⟩ := h
  exact ⟨f s, hf, hg.effect_of_work hwork⟩

/-! ### Every command -/

theorem keyRecordOp_work (p : Path) (b : List Byte) : (keyRecordOp p b s).1.d.work = s.d.work := by
  unfold keyRecordOp
  simp only
  split
  · exact Dev.logEv_work s.d 2 0x0060 0xFFFF _ 0
  · rfl

theorem tokenOp_work (b : List Byte) : (tokenOp b s).1.d.work = s.d.work := by
  unfold tokenOp
  simp only
  split
  · exact Dev.logEv_work s.d 2 0x0061 0xFFFF _ 0
  · rfl

theorem State.relock_work : s.relock.d.work = s.d.work := by
  unfold State.relock
  split
  · exact Dev.logEv_work s.d 2 0x0061 0xFFFF _ 0
  · rfl

theorem State.vendor_work (p : Path) (code : Nat) {f : State → State × List Byte} (hf : (f s).1.d.work = s.d.work) :
    (s.vendor p code f).d.work = s.d.work := by
  unfold State.vendor
  split
  · exact (State.work_of_kept (State.respond_kept _ p 0x7F _)).trans hf
  · rfl

theorem State.barWrite_work (off : Nat) (tlp : Tlp) (bad : Bool) {f : State → State} (hf : (f s).d.work = s.d.work) :
    (s.barWrite off tlp bad f).d.work = s.d.work := by
  unfold State.barWrite
  split
  · rfl
  split
  · simp
  split
  · simp
  split
  · simp
  · exact hf

/-! ### The other commands that reach the power path or the management plane -/

theorem execThermalTrip_effect (sensor : Nat) : ∃ f, execThermalTrip sensor s = nextS s f ∧ State.Effect (.thermalTrip sensor) s (f s) :=
  ⟨_, rfl, (State.Guards.refl s).effect_powerOff rfl _ _ _ _ _⟩

theorem execForceOff_effect : ∃ f, execForceOff s = nextS s f ∧ State.Effect .forceOff s (f s) :=
  ⟨_, rfl, (State.Guards.refl s).effect_powerOff rfl _ _ _ _ _⟩

theorem execPresenceBreak_effect : ∃ f, execPresenceBreak s = nextS s f ∧ State.Effect .presenceBreak s (f s) :=
  ⟨_, rfl, (State.Guards.refl s).effect_powerOff rfl _ _ _ _ _⟩

theorem execBar0RsRead_kept (tag off : Nat) (req : Request) : ∃ f, execBar0RsRead tag off req s = nextS s f ∧ (f s).kept = s.kept := by
  unfold execBar0RsRead
  refine ⟨_, rfl, ?_⟩
  cases req with
  | core => exact s.kept_planes (s.latch_work true off)
  | bar0 dws tlp => exact s.barRead_kept tag off tlp _ (s.kept_planes (s.latch_work false off))
  | bar4 tlp => exact s.barRead_kept tag off tlp false (s.kept_planes rfl)

theorem execRegisterWrite_effect (off val be : Nat) (req : Request) :
    ∃ f, execRegisterWrite off val be req s = nextS s f ∧ State.Effect (.registerWrite off val be req) s (f s) := by
  refine ⟨_, rfl, State.Upholds.effect ?_ rfl fun h => absurd h (by simp [managementOnly])⟩
  cases req with
  | core => exact s.regWrite_upholds off val _
  | bar0 dws tlp => exact s.barWrite_upholds off tlp _ (s.regWrite_upholds off val _)
  | bar4 tlp => exact s.barWrite_upholds off tlp false (State.Guards.refl s).upholds

theorem execIrqUnmask_guards (source : Nat) : ∃ f, execIrqUnmask source s = nextS s f ∧ s.Guards (f s) := ⟨_, rfl, s.regSet_guards _ _⟩

theorem execDoorbell_guards (ring val be : Nat) (tlp : Tlp) : ∃ f, execDoorbell ring val be tlp s = nextS s f ∧ s.Guards (f s) :=
  ⟨_, rfl, s.barWrite_guards _ tlp false (.ite (fun _ => .planes s _) fun _ => .refl s)⟩

theorem execRingEnable_guards (ring val : Nat) : ∃ f, execRingEnable ring val s = nextS s f ∧ s.Guards (f s) :=
  ⟨_, rfl, s.regSet_guards _ _⟩

theorem execRingDisable_guards (ring val : Nat) : ∃ f, execRingDisable ring val s = nextS s f ∧ s.Guards (f s) :=
  ⟨_, rfl, s.regSet_guards _ _⟩

theorem execRingResume_guards (ring : Nat) : ∃ f, execRingResume ring s = nextS s f ∧ s.Guards (f s) := ⟨_, rfl, s.regSet_guards _ _⟩

theorem execRingHeadWrite_guards (ring val : Nat) : ∃ f, execRingHeadWrite ring val s = nextS s f ∧ s.Guards (f s) :=
  ⟨_, rfl, s.regSet_guards _ _⟩

theorem execCommit_guards : ∃ f, execCommit s = nextS s f ∧ s.Guards (f s) := ⟨_, rfl, .planes s _⟩

theorem execMgmtMctp_guards (m : Rx) : ∃ f, execMgmtMctp m s = nextS s f ∧ s.Guards (f s) :=
  ⟨_, rfl, .ite (fun _ => (State.Guards.planes s _).trans (.of_kept (State.fromPeer_kept _ _ _ _))) fun _ => .planes s _⟩

theorem execMbxSend_effect (val : Nat) : ∃ f, execMbxSend val s = nextS s f ∧ State.Effect (.mbxSend val) s (f s) :=
  ⟨_, rfl, (s.barWrite_upholds _ .good false (s.mbxCtrl_upholds val _)).effect rfl fun h => absurd h (by simp [managementOnly])⟩

theorem execMbxAck_kept : ∃ f, execMbxAck s = nextS s f ∧ (f s).kept = s.kept := ⟨_, rfl, s.barWrite_kept _ .good false s.mbxAck_kept⟩

theorem execEntdaa_kept (addr : Nat) : ∃ f, execEntdaa addr s = nextS s f ∧ (f s).kept = s.kept := by
  refine ⟨_, rfl, ?_⟩
  simp only
  split <;> rfl

theorem execUpdateComponent_kept (p : Path) (comp size : Nat) : ∃ f, execUpdateComponent p comp size s = nextS s f ∧ (f s).kept = s.kept := by
  refine ⟨_, rfl, (State.exchange_kept _ p fun t => ?_).trans (s.pldm_kept p _ _ _ fun t => componentUpdate_kept t comp size)⟩
  split
  · exact t.askData_kept p
  · rfl

theorem execDebugRelock_effect (p : Option Path) : ∃ f, execDebugRelock p s = nextS s f ∧ State.Effect (.debugRelock p) s (f s) := by
  refine ⟨_, rfl, ?_⟩
  cases p with
  | none => exact (s.barWrite_guards _ .good false s.relock_guards).effect_of_work (s.barWrite_work _ .good false s.relock_work)
  | some p => exact (s.vendor_guards p 4 (f := relockOp) s.relock_guards).effect_of_work (s.vendor_work p 4 (f := relockOp) s.relock_work)

theorem execPeerAttest_kept (p : Path) (body : List Byte) : ∃ f, execPeerAttest p body s = nextS s f ∧ (f s).kept = s.kept :=
  ⟨_, rfl, s.peerAttest_kept p body⟩

theorem effect_of_ex_kept {c : Instr} {o : Host.Outcome State Fault Refusal} (h : ∃ f, o = nextS s f ∧ (f s).kept = s.kept) :
    ∃ u, o = .next (s.went u) ∧ State.Effect c s u := by
  obtain ⟨f, hf, hk⟩ := h
  exact effect_of_nextS_kept hf hk

theorem exec_effect (c : Instr) (s : State) : ∃ u, exec c s = .next (s.went u) ∧ State.Effect c s u := by
  cases c
  all_goals unfold exec
  case powerOn mv av => exact effect_of_ex_guards s (execPowerOn_guards s mv av) rfl
  case swatchEnd r => exact effect_of_ex_guards s (execSwatchEnd_guards s r) rfl
  case conventionalReset => exact effect_of_ex_guards s (execConventionalReset_guards s) rfl
  case flr => exact effect_of_ex_guards s (execFlr_guards s) rfl
  case hostLinkUp v w => exact effect_of_ex_guards s (execHostLinkUp_guards s v w) rfl
  case mainInRange cv => exact effect_of_ex_guards s (execMainInRange_guards s cv) rfl
  case mainQualified => exact effect_of_ex_guards s (execMainQualified_guards s) rfl
  case holdEntry => exact effect_of_ex_guards s (execHoldEntry_guards s) rfl
  case auxReturned cv => exact effect_of_ex_guards s (execAuxReturned_guards s cv) rfl
  case inputOverVoltage main cv => exact effect_of_ex_guards s (execInputOverVoltage_guards s main cv) rfl
  case inputOutsideInRangeBand main cv => exact effect_of_ex_guards s (execInputOutsideInRangeBand_guards s main cv) rfl
  case tripRelease mv av => exact effect_of_ex_guards s (execTripRelease_guards s mv av) rfl
  case forceAux => exact effect_of_nextS_guards rfl s.forceAux_guards rfl
  case forceReturn => exact effect_of_nextS_guards rfl s.forceReturn_guards rfl
  case pllLockLoss die => exact effect_of_ex_guards s (execPllLockLoss_guards s die) rfl
  case mainLost cv => exact effect_of_ex_effect s (execMainLost_effect s cv)
  case auxLost cv => exact effect_of_ex_effect s (execAuxLost_effect s cv)
  case bothInputsLost cv => exact effect_of_ex_effect s (execBothInputsLost_effect s cv)
  case thermalTrip sensor => exact effect_of_ex_effect s (execThermalTrip_effect s sensor)
  case forceOff => exact effect_of_ex_effect s (execForceOff_effect s)
  case presenceBreak => exact effect_of_ex_effect s (execPresenceBreak_effect s)
  case capLoopTick slow fast => exact effect_of_ex_work s (execCapLoopTick_guards s slow fast)
  case thermalTick ts => exact effect_of_ex_work s (execThermalTick_guards s ts)
  case sensorSample rs => exact effect_of_ex_work s (execSensorSample_guards s rs)
  case healthTick => exact effect_of_ex_work s (execHealthTick_guards s)
  case bar0RsRead tag off req => exact effect_of_ex_kept s (execBar0RsRead_kept s tag off req)
  case registerWrite off val be req => exact effect_of_ex_effect s (execRegisterWrite_effect s off val be req)
  case irqUnmask source => exact effect_of_ex_guards s (execIrqUnmask_guards s source) rfl
  case doorbell ring val be tlp => exact effect_of_ex_guards s (execDoorbell_guards s ring val be tlp) rfl
  case ringEnable ring val => exact effect_of_ex_guards s (execRingEnable_guards s ring val) rfl
  case ringDisable ring val => exact effect_of_ex_guards s (execRingDisable_guards s ring val) rfl
  case ringResume ring => exact effect_of_ex_guards s (execRingResume_guards s ring) rfl
  case ringHeadWrite ring val => exact effect_of_ex_guards s (execRingHeadWrite_guards s ring val) rfl
  case patternLoad => exact effect_of_planes s (execPatternLoad_planes s) rfl
  case fenceMoult => exact effect_of_planes s (execFenceMoult_planes s) rfl
  case commit => exact effect_of_ex_guards s (execCommit_guards s) rfl
  case portRetrain port => exact effect_of_nextS_guards rfl (.ite (fun _ => .planes s _) fun _ => .refl s) rfl
  case doeDiscovery index =>
    refine ⟨{ s with d := if !s.d.host.linkUp then s.d else _ }, rfl, State.effect_of_kept (s.kept_planes ?_)⟩
    split <;> rfl
  case mgmtMctp m => exact effect_of_ex_guards s (execMgmtMctp_guards s m) rfl
  case mbxSend val => exact effect_of_ex_effect s (execMbxSend_effect s val)
  case mbxAck => exact effect_of_ex_kept s (execMbxAck_kept s)
  case entdaa addr => exact effect_of_ex_kept s (execEntdaa_kept s addr)
  case setEndpointId p op eid => exact effect_of_nextS_kept rfl (s.control_kept p _ _ fun t => setEid_kept t p op eid)
  case getEndpointId p => exact effect_of_nextS_kept rfl (s.control_kept p _ _ fun _ => rfl)
  case getEndpointUuid p => exact effect_of_nextS_kept rfl (s.control_kept p _ _ fun _ => rfl)
  case getMctpVersionSupport p typ => exact effect_of_nextS_kept rfl (s.control_kept p _ _ fun t => getVersions_kept t typ)
  case getMessageTypeSupport p => exact effect_of_nextS_kept rfl (s.control_kept p _ _ fun _ => rfl)
  case getTid p => exact effect_of_nextS_kept rfl (s.pldm_kept p _ _ _ fun _ => rfl)
  case setTid p tid => exact effect_of_nextS_kept rfl (s.pldm_kept p _ _ _ fun t => tidSet_kept t tid)
  case getPldmVersion p typ => exact effect_of_nextS_kept rfl (s.pldm_kept p _ _ _ fun t => pldmVersionGet_kept t typ)
  case getPldmTypes p => exact effect_of_nextS_kept rfl (s.pldm_kept p _ _ _ fun _ => rfl)
  case getPldmCommands p typ => exact effect_of_nextS_kept rfl (s.pldm_kept p _ _ _ fun t => pldmCommandsGet_kept t typ)
  case getPdrRepositoryInfo p => exact effect_of_nextS_kept rfl (s.pldm_kept p _ _ _ fun _ => rfl)
  case getPdr p handle => exact effect_of_nextS_kept rfl (s.pldm_kept p _ _ _ fun t => pdrGet_kept t handle)
  case getSensorReading p sensor => exact effect_of_nextS_kept rfl (s.pldm_kept p _ _ _ fun t => sensorGet_kept t sensor)
  case getStateSensorReadings p sensor => exact effect_of_nextS_kept rfl (s.pldm_kept p _ _ _ fun t => stateSensorGet_kept t sensor)
  case setNumericEffecterValue p id v => exact effect_of_nextS_guards rfl (s.pldm_guards p _ _ _ (effecterSet_guards s id v)) rfl
  case getNumericEffecterValue p id => exact effect_of_nextS_kept rfl (s.pldm_kept p _ _ _ fun t => effecterGet_kept t id)
  case setEventReceiver p mode eid => exact effect_of_nextS_kept rfl (s.pldm_kept p _ _ _ fun t => receiverSet_kept t mode eid)
  case queryDeviceIdentifiers p => exact effect_of_nextS_kept rfl (s.pldm_kept p _ _ _ fun _ => rfl)
  case getFirmwareParameters p => exact effect_of_nextS_kept rfl (s.pldm_kept p _ _ _ fun _ => rfl)
  case requestUpdate p maxSize n => exact effect_of_nextS_kept rfl (s.pldm_kept p _ _ _ fun t => updateRequest_kept t maxSize n)
  case passComponentTable p comp flag => exact effect_of_nextS_kept rfl (s.pldm_kept p _ _ _ fun t => passTable_kept t comp flag)
  case updateComponent p comp size => exact effect_of_ex_kept s (execUpdateComponent_kept s p comp size)
  case requestFirmwareData p data => exact effect_of_nextS_kept rfl (s.exchange_kept p fun t => t.takeData_kept p data)
  case transferComplete p => exact effect_of_nextS_kept (f := fun s => s.exchange p fun s => s.transferred p) rfl (s.exchange_kept p fun t => t.transferred_kept p)
  case verifyComplete p => exact effect_of_nextS_kept rfl (s.exchange_kept p fun t => t.verified_kept p)
  case applyComplete p => exact effect_of_nextS_kept rfl (s.exchange_kept p fun t => t.applied_kept p)
  case activateFirmware p selfContained => exact effect_of_nextS_guards rfl (s.pldm_guards p _ _ _ (activate_guards s selfContained)) rfl
  case getStatus p => exact effect_of_nextS_kept rfl (s.pldm_kept p _ _ _ fun _ => rfl)
  case cancelUpdateComponent p => exact effect_of_nextS_kept rfl (s.pldm_kept p _ _ _ fun t => cancelComponent_kept t)
  case cancelUpdate p => exact effect_of_nextS_kept rfl (s.pldm_kept p _ _ _ fun t => cancelAll_kept t)
  case keyRecord p b =>
    exact effect_of_nextS rfl ((s.vendor_upholds p 1 (keyRecordOp_upholds s p b)).effect rfl fun _ => s.vendor_work p 1 (keyRecordOp_work s p b))
  case debugChallenge p => exact effect_of_nextS_kept rfl (s.vendor_kept p 2 fun _ => rfl)
  case debugToken p b =>
    exact effect_of_nextS rfl ((s.vendor_upholds p 3 (tokenOp_upholds s b)).effect rfl fun _ => s.vendor_work p 3 (tokenOp_work s b))
  case debugRelock p => exact effect_of_ex_effect s (execDebugRelock_effect s p)
  case peerAttest p body => exact effect_of_ex_kept s (execPeerAttest_kept s p body)
  case readFlashRecords p => exact effect_of_nextS_kept rfl (s.vendor_kept p 6 fun _ => rfl)
  case spdmGetVersion p => exact effect_of_nextS_kept rfl (s.spdm_kept p _ fun _ => rfl)
  case spdmGetCapabilities p req => exact effect_of_nextS_kept rfl (s.spdm_kept p _ fun t => spdmCapabilities_kept t p req)
  case spdmNegotiateAlgorithms p req => exact effect_of_nextS_kept rfl (s.spdm_kept p _ fun t => spdmAlgorithms_kept t p req)
  case spdmGetDigests p => exact effect_of_nextS_kept rfl (s.spdm_kept p _ fun t => spdmDigests_kept t p)
  case spdmGetCertificate p slot off len => exact effect_of_nextS_kept rfl (s.spdm_kept p _ fun t => spdmCertificate_kept t p slot off len)
  case spdmChallenge p req => exact effect_of_nextS_kept rfl (s.spdm_kept p _ fun t => spdmChallenge_kept t p req)
  case spdmGetMeasurements p req => exact effect_of_nextS_kept rfl (s.spdm_kept p _ fun t => spdmMeasurements_kept t p req)
  case spdmKeyExchange p req => exact effect_of_nextS_kept rfl (s.spdm_kept p _ fun t => spdmKeyExchange_kept t p req)
  case spdmFinish p req => exact effect_of_nextS_kept rfl (s.spdm_kept p _ fun t => spdmFinish_kept t p req)
  case spdmEndSession p sid => exact effect_of_nextS_kept rfl (s.spdm_kept p _ fun t => spdmEnd_kept t p sid)
  case spdmHeartbeat p sid => exact effect_of_nextS_kept rfl (s.spdm_kept p _ fun t => spdmHeartbeat_kept t p sid)
  case spdmKeyUpdate p sid op tag => exact effect_of_nextS_kept rfl (s.spdm_kept p _ fun t => spdmKeyUpdate_kept t p sid op tag)
  case spdmChunkSend p req => exact effect_of_nextS_kept rfl (s.spdm_kept p _ fun t => spdmChunkSend_kept t p req)
  case spdmChunkGet p handle seq => exact effect_of_nextS_kept rfl (s.spdm_kept p _ fun t => spdmChunkGet_kept t p handle seq)
  case spdmVendorDefinedRequest p sid req => exact effect_of_nextS_kept rfl (s.spdm_kept p _ fun t => spdmVendor_kept t p sid req)
  case spdmRespondIfReady p code token => exact effect_of_nextS_kept rfl (s.spdm_kept p _ fun _ => rfl)
  all_goals exact effect_of_nextD rfl rfl

end Sys2Proof.Machine
end

section
/-! SUPPORT. What holds of every step, read off the effect of its command. -/
namespace Sys2Proof.Machine
open Sys2Proof

variable {s t : State} {c : Instr}

theorem State.effect_of_exec (h : exec c s = .next t) : ∃ u, t = s.went u ∧ State.Effect c s u := by
  obtain ⟨u, hu, heff⟩ := exec_effect c s
  rw [hu] at h
  exact ⟨u, (Host.Outcome.next.inj h).symm, heff⟩

/-- With no command waiting, ticks change the gauges and the count of free values alone. -/
theorem State.tick_eq (s : State) : ∃ g n, s.tick = { s with d := { s.d with gauges := g, free := n } } := by
  unfold State.tick
  simp only
  split
  · exact ⟨s.d.gauges, s.d.free, rfl⟩
  · generalize (List.range 8).filter _ = ks
    suffices h : ∀ (e : Dev), (∃ g, e = { s.d with gauges := g }) → ∃ g, ks.foldl (fun (d : Dev) k => { d with
        gauges := tset d.gauges (16 * k + s.d.gaugePhase k) (((tget (0, 0) d.gauges (16 * k + s.d.gaugePhase k)).1 + Config.timing k s.d.free) % 2 ^ 64,
          if decide (s.aclkN < 16) then ((tget (0, 0) d.gauges (16 * k + s.d.gaugePhase k)).2 + Config.timing k s.d.free) % 2 ^ 64
          else (tget (0, 0) d.gauges (16 * k + s.d.gaugePhase k)).2) }) e = { s.d with gauges := g } by
      obtain ⟨g, hg⟩ := h s.d ⟨s.d.gauges, rfl⟩
      rw [hg]
      exact ⟨g, s.d.free + 1, rfl⟩
    induction ks with
    | nil => exact fun e he => he
    | cons k ks ih =>
      rintro e ⟨g, rfl⟩
      exact ih _ ⟨_, rfl⟩

theorem step_of_cons {rest : List Instr} (h : s.pending = c :: rest) : step s = exec c { s with pending := rest } := by
  simp only [step, h]

theorem step_of_nil (h : s.pending = []) : step s = .next s.tick := by simp only [step, h]

/-- Where a step goes: a tick, or the effect of the front command. -/
theorem step_cases (h : step s = .next t) :
    (s.pending = [] ∧ t = s.tick) ∨ ∃ c rest u, s.pending = c :: rest ∧ t = State.went { s with pending := rest } u ∧ State.Effect c s u := by
  cases hq : s.pending with
  | nil =>
    rw [step_of_nil hq] at h
    exact .inl ⟨rfl, (Host.Outcome.next.inj h).symm⟩
  | cons c rest =>
    rw [step_of_cons hq] at h
    obtain ⟨u, hu, heff⟩ := State.effect_of_exec h
    exact .inr ⟨c, rest, u, rfl, hu, heff.pwr, heff.sec, heff.otp, heff.seq, heff.finals, heff.keys, heff.work⟩

theorem keyRecordOp_keys (p : Path) (b : List Byte) (s : State) : (keyRecordOp p b s).1.sec.keys = s.sec.keys ∨
    s.sec.keySeq < (keyRecordOp p b s).1.sec.keySeq ∧ (keyRecordOp p b s).1.sec.keySeq = field b 16 8 := by
  unfold keyRecordOp
  simp only
  split
  case isTrue hst => exact .inr ⟨s.keySeq_lt_of_keyStatus hst, rfl⟩
  case isFalse => exact .inl rfl

theorem State.vendor_keys (p : Path) (code : Nat) (f : State → State × List Byte) :
    (s.vendor p code f).sec.keys = s.sec.keys ∨ (s.vendor p code f).sec.keys = (f s).1.sec.keys := by
  unfold State.vendor
  split
  · exact .inr (State.Guards.of_kept (State.respond_kept _ p 0x7F _)).keys
  · exact .inl rfl

end Sys2Proof.Machine

open Sys2Proof Sys2Proof.Machine

/-- Settles O1: it is what a step is. -/
theorem stepRunsFrontCommand : Obligations.StepRunsFrontCommand := fun _ _ _ => rfl

/-- Settles O2: every command ends in a next state that keeps the rest of the queue, and a tick keeps the queue. -/
theorem stepConsumesFrontCommand : Obligations.StepConsumesFrontCommand := by
  refine ⟨fun s => ?_, fun s hq => ⟨step_of_nil hq, s.tick_eq⟩, fun s hp => ?_⟩
  · cases hq : s.pending with
    | nil =>
      obtain ⟨g, n, htick⟩ := s.tick_eq
      exact ⟨s.tick, step_of_nil hq, htick ▸ hq⟩
    | cons c rest =>
      obtain ⟨u, hu, -⟩ := exec_effect c { s with pending := rest }
      exact ⟨_, (step_of_cons hq).trans hu, rfl⟩
  · unfold State.tick
    rw [hp]

/-- Settles O41: ticks leave both records, and every command keeps their ranges. -/
theorem stepKeepsRanges : Obligations.StepKeepsRanges := by
  intro s t hok h
  rw [State.ok_iff] at hok ⊢
  obtain ⟨hpwr, hsec⟩ := hok
  obtain ⟨-, rfl⟩ | ⟨c, rest, u, -, rfl, heff⟩ := step_cases h
  · obtain ⟨g, n, htick⟩ := s.tick_eq
    rw [htick]
    exact ⟨hpwr, hsec⟩
  · exact ⟨heff.pwr hpwr, heff.sec hsec⟩

/-- Settles O43: every value is that of the reset state. -/
theorem resetMeetsRanges : Obligations.ResetMeetsRanges := by
  refine ⟨?_, rfl, rfl, rfl, rfl, rfl, rfl, rfl, rfl, rfl, rfl, rfl, rfl, rfl⟩
  decide

/-- Settles O44: no command lets a version fall, and a loss of power alone adds a final record, one. -/
theorem storedVersionsNeverFall : Obligations.StoredVersionsNeverFall := by
  intro s t h
  obtain ⟨-, rfl⟩ | ⟨c, rest, u, -, rfl, heff⟩ := step_cases h
  · obtain ⟨g, n, htick⟩ := s.tick_eq
    rw [htick]
    exact ⟨le_rfl, le_rfl, [], rfl, Nat.zero_le _⟩
  · exact ⟨heff.otp, heff.seq, heff.finals⟩

/-- Settles O45: the planes' work stands, and with no descriptor fetched no head is completed. -/
theorem managementLeavesThePlanes : Obligations.ManagementLeavesThePlanes := by
  intro c s t hc hhead h
  obtain ⟨u, rfl, heff⟩ := State.effect_of_exec h
  have hwork : u.d.work = s.d.work := heff.work hc
  obtain ⟨hmem, hmdies, htiles, hrings, hacts, hretired, hctl⟩ : u.d.mem = s.d.mem ∧ u.d.mdies = s.d.mdies ∧ u.d.tiles = s.d.tiles ∧
      u.d.rings = s.d.rings ∧ u.d.acts = s.d.acts ∧ u.d.retired = s.d.retired ∧ u.d.ctl = s.d.ctl := by
    simpa only [Dev.work, Prod.mk.injEq] using hwork
  have hsettle : (s.went u).d = u.d := Dev.settle_of_noHead ((Dev.noHead_congr hrings).trans hhead)
  rw [hsettle]
  exact ⟨hmem, hmdies, htiles, hrings, hacts, hretired, hctl⟩

/-- Settles O46: the other commands leave keys and lock, and a key record is applied with a sequence above the stored one. -/
theorem keysChangeOnlyByRecords : Obligations.KeysChangeOnlyByRecords := by
  refine ⟨fun c s t hc h => ?_, fun p b s t h => ?_⟩
  · obtain ⟨u, rfl, heff⟩ := State.effect_of_exec h
    obtain ⟨hkeys, hdebug⟩ := heff.keys hc
    obtain ⟨hslots, hseq, hzero⟩ : u.sec.slots = s.sec.slots ∧ u.sec.keySeq = s.sec.keySeq ∧ u.sec.slot0Disabled = s.sec.slot0Disabled := by
      simpa only [Sec.keys, Prod.mk.injEq] using hkeys
    exact ⟨hslots, hseq, hzero, hdebug⟩
  · obtain rfl : s.went (s.vendor p 1 (keyRecordOp p b)) = t := Host.Outcome.next.inj h
    have hcases : (s.vendor p 1 (keyRecordOp p b)).sec.keys = s.sec.keys ∨
        s.sec.keySeq < (s.vendor p 1 (keyRecordOp p b)).sec.keySeq ∧ (s.vendor p 1 (keyRecordOp p b)).sec.keySeq = field b 16 8 := by
      rcases s.vendor_keys p 1 (keyRecordOp p b) with hkeys | hkeys
      · exact .inl hkeys
      · have hseq : (s.vendor p 1 (keyRecordOp p b)).sec.keySeq = (keyRecordOp p b s).1.sec.keySeq := congrArg (fun k => k.2.1) hkeys
        rw [hkeys, hseq]
        exact keyRecordOp_keys p b s
    simp only [Sec.keys, Prod.mk.injEq] at hcases
    exact hcases
end

section
/-! SUPPORT. What an access to memory leaves: everything but memory, its M-dies and tiles, the granules noted as written, the dropped-write
count, the event log and the host port. -/
namespace Sys2Proof.Machine
open Sys2Proof

/-- The control plane without what a write to memory notes in it. -/
def Ctl.apart (c : Ctl) : Ctl := { c with written := [], dropped := (0, 0) }

/-- The planes without what an access to memory may change. -/
def Dev.still (d : Dev) : Dev :=
  { d with mem := ⟨[], [], 0⟩, mdies := [], tiles := [], ctl := d.ctl.apart, confirms := [], points := 0, log := [], logSeq := 0,
           host := State.reset.d.host, alerts := [] }

variable (d : Dev)

@[simp] theorem Dev.setMdie_still (m : Nat) (f : MDie → MDie) : (d.setMdie m f).still = d.still := rfl
@[simp] theorem Dev.setTile_still (p : Nat) (f : Tile → Tile) : (d.setTile p f).still = d.still := rfl
@[simp] theorem Dev.setHost_still (f : HostPort → HostPort) : (d.setHost f).still = d.still := rfl
@[simp] theorem Dev.health_still (n : Nat) : (d.health n).still = d.still := rfl
@[simp] theorem Dev.setMem_still (m : Mem) : Dev.still { d with mem := m } = d.still := rfl

@[simp] theorem Dev.deliver_still (src : Nat) : (d.deliver src).still = d.still := by
  unfold Dev.deliver
  simp only
  split <;> (try split) <;> (try split) <;> simp

@[simp] theorem Dev.irq_still (src : Nat) : (d.irq src).still = d.still := by
  unfold Dev.irq
  split <;> simp

@[simp] theorem Dev.toHost_still (x : HostOut) : (d.toHost x).still = d.still := by
  unfold Dev.toHost
  split <;> (try split) <;> simp

@[simp] theorem Dev.logEv_still (pl co un : Nat) (pay : List Byte) (a : Nat) : (d.logEv pl co un pay a).still = d.still := by
  unfold Dev.logEv
  rw [Dev.irq_still]
  split <;> (try split) <;> rfl

/-! ### Reads and writes of sectors -/

@[simp] theorem Dev.touch_still (b : Nat) (w : Bool) : (d.touch b w).still = d.still := by
  unfold Dev.touch
  simp only
  split <;> (try split) <;> simp

@[simp] theorem Dev.countParity_still (b a f : Nat) : (d.countParity b a f).still = d.still := by
  unfold Dev.countParity
  split <;> simp

@[simp] theorem Dev.countPoison_still (b : Nat) : (d.countPoison b).still = d.still := by
  unfold Dev.countPoison
  split <;> simp

@[simp] theorem Dev.sramEvent_still (u f a : Nat) : (d.sramEvent u f a).still = d.still := by simp [Dev.sramEvent]

@[simp] theorem Dev.parityEvent_still (a b f : Nat) (s : Sector) : (d.parityEvent a b f s).still = d.still := by
  have hcount := Dev.countParity_still { d with mem := d.mem.store b ⟨s.data, allFail⟩ } b a f
  unfold Dev.parityEvent
  simp only
  split
  · exact hcount
  · rw [Dev.sramEvent_still, hcount, Dev.setMem_still]

@[simp] theorem Dev.dropEntry_still (b : Nat) : (d.dropEntry b).still = d.still := by
  unfold Dev.dropEntry
  split <;> (try split) <;> simp

@[simp] theorem Dev.writeFull_still (b : Nat) (data : List Byte) (p : Bool) : (d.writeFull b data p).still = d.still := by simp [Dev.writeFull]

@[simp] theorem Dev.badEntry_still (e : MEntry) : (d.badEntry e).still = d.still := by
  unfold Dev.badEntry
  rw [Dev.writeFull_still]
  split <;> simp

@[simp] theorem Dev.mergeStore_still (a b : Nat) (e : MEntry) : (d.mergeStore a b e).still = d.still := by
  have hparity (f : Nat) (s : Sector) (c : Prop) [Decidable c] :
      ((if c then d.touch b true else (d.touch b true).parityEvent a b f s).countPoison b).still = d.still := by
    rw [Dev.countPoison_still]
    split <;> simp
  unfold Dev.mergeStore
  simp only
  split
  · simp
  · split
    · rw [Dev.setMdie_still, Dev.setMem_still, hparity]
    · rw [Dev.setMem_still, hparity]

@[simp] theorem Dev.flushEntry_still (m : Nat) (e : MEntry) : (d.flushEntry m e).still = d.still := by
  unfold Dev.flushEntry
  simp only
  split
  · simp
  · split <;> simp

@[simp] theorem Dev.flushAll_still : d.flushAll.still = d.still :=
  foldl_keeps Dev.still _ (fun e m => foldl_keeps Dev.still _ (fun e x => e.flushEntry_still m x) _ e) _ d

@[simp] theorem Dev.writePart_still (a b o : Nat) (bs : List Byte) : (d.writePart a b o bs).still = d.still := by
  unfold Dev.writePart
  simp only
  split
  · simp
  · split
    · split <;> simp
    · rw [Dev.setMdie_still]
      split
      · split <;> simp
      · rfl

@[simp] theorem Dev.writeIn_still (a b o : Nat) (bs : List PB) : (d.writeIn a b o bs).still = d.still := by
  unfold Dev.writeIn
  split
  · simp
  · split <;> simp

@[simp] theorem Dev.readKey_still (a b : Nat) : (d.readKey a b).2.still = d.still := by
  unfold Dev.readKey
  simp only
  split
  · simp
  · split
    · simp
    · rw [Dev.countPoison_still, Dev.touch_still]
      split <;> simp

@[simp] theorem Dev.readSec_still (w : Bool) (a : Nat) : (d.readSec w a).2.still = d.still := by
  unfold Dev.readSec
  split
  · exact d.readKey_still _ _
  · rfl

theorem Dev.readSecs_still (w : Bool) (n a : Nat) : (d.readSecs w n a).2.still = d.still := by
  induction n generalizing d a with
  | zero => rfl
  | succ n ih => exact (ih _ _).trans (d.readSec_still w a)

@[simp] theorem Dev.readRange_still (w : Bool) (a n : Nat) : (d.readRange w a n).2.still = d.still := d.readSecs_still _ _ _

@[simp] theorem Dev.read_still (a n : Nat) : (d.read a n).2.still = d.still := by
  unfold Dev.read
  split
  · rfl
  · exact d.readRange_still _ _ _

/-! ### Writes of ranges -/

@[simp] theorem Dev.setWritten_still (r o : Nat) : (d.setWritten r o).still = d.still := by
  unfold Dev.setWritten
  split <;> rfl

@[simp] theorem Dev.freeRemaps_still (p o n u : Nat) : (d.freeRemaps p o n u).still = d.still := by
  unfold Dev.freeRemaps
  simp only
  split <;> simp

@[simp] theorem Dev.writeSec_still (m : WMode) (u a : Nat) (bs : List PB) : (d.writeSec m u a bs).2.still = d.still := by
  unfold Dev.writeSec
  simp only
  split
  · split
    · rfl
    · split
      · simp only
        split <;> simp
      · rfl
  · split
    · rw [Dev.writeIn_still]
      split <;> simp
    · rfl

theorem Dev.writeSecs_still (m : WMode) (u k a : Nat) (bs : List PB) : (d.writeSecs m u k a bs).2.still = d.still := by
  induction k generalizing d a bs with
  | zero => rfl
  | succ k ih =>
    unfold Dev.writeSecs
    split
    · rfl
    · exact (ih _ _ _).trans (d.writeSec_still _ _ _ _)

@[simp] theorem Dev.dropEvent_still (src a : Nat) : (d.dropEvent src a).still = d.still := by
  unfold Dev.dropEvent
  refine (apply_ite Dev.still _ _ _).trans ?_
  rw [Dev.logEv_still]
  exact ite_self d.still

@[simp] theorem Dev.writeAs_still (m : WMode) (u a : Nat) (bs : List PB) : (d.writeAs m u a bs).still = d.still := by
  unfold Dev.writeAs
  simp only
  split <;> simp [Dev.writeSecs_still]

@[simp] theorem Dev.write_still (src a : Nat) (bs : List PB) : (d.write src a bs).still = d.still := d.writeAs_still _ _ _ _

/-! ### What planes that agree so have in common -/

variable {d} {e : Dev}

theorem Dev.apart_of_still (h : d.still = e.still) : d.ctl.apart = e.ctl.apart := congrArg Dev.ctl h
theorem Dev.rings_of_still (h : d.still = e.still) : d.rings = e.rings := (congrArg Dev.rings h : d.still.rings = e.still.rings)
theorem Dev.acts_of_still (h : d.still = e.still) : d.acts = e.acts := (congrArg Dev.acts h : d.still.acts = e.still.acts)

/-- A field of the control plane that a write to memory leaves. -/
theorem Ctl.field_of_apart {α : Type} (g : Ctl → α) (hg : ∀ c, g c.apart = g c) {c c' : Ctl} (h : c.apart = c'.apart) : g c = g c' := by
  rw [← hg c, h, hg c']

/-! ### Completions leave the control plane -/

variable (d)

@[simp] theorem Dev.haltRing_ctl (r place code : Nat) : (d.haltRing r place code).ctl = d.ctl := by simp [Dev.haltRing]

theorem Dev.complete_apart (r place : Nat) (b : List Byte) (status detail : Nat) (old : Bool) :
    (d.complete r place b status detail old).ctl.apart = d.ctl.apart := by
  have hhalt (e : Dev) (c lost : Bool) (code : Nat) (h : e.ctl.apart = d.ctl.apart) :
      (if lost then (e.logEv 0 Config.lostRecordEvent r [] 0).haltRing r place 3 else if c then e.haltRing r place code else e).ctl.apart
        = d.ctl.apart := by
    split
    · simpa using h
    · split
      · simpa using h
      · exact h
  have hirq (e : Dev) (c : Bool) (src : Nat) : (if c then e.irq src else e).ctl = e.ctl := by split <;> simp
  unfold Dev.complete
  refine hhalt _ _ _ _ ?_
  rw [hirq, hirq]
  have hmark : (if old then d else d.setRing r fun y => { y with
      retired := (retireRun ((d.ring r).done.length + 1) (d.ring r).retired (place :: (d.ring r).done)).1,
      done := (retireRun ((d.ring r).done.length + 1) (d.ring r).retired (place :: (d.ring r).done)).2 }).ctl = d.ctl := by
    split <;> rfl
  split
  · split
    · rw [hmark]
    · rw [Dev.apart_of_still (Dev.write_still _ _ _ _), hmark]
  · rw [Dev.toHost_ctl, hmark]

theorem Dev.finish_apart (uid status : Nat) (detail : Option Nat) : (d.finish uid status detail).ctl.apart = d.ctl.apart := by
  unfold Dev.finish
  split
  · rfl
  · exact Dev.complete_apart _ _ _ _ _ _ _

theorem Dev.refuseHead_apart (r status detail : Nat) : (d.refuseHead r status detail).ctl.apart = d.ctl.apart := by
  unfold Dev.refuseHead
  split
  · rfl
  · exact (Dev.complete_apart _ _ _ _ _ _ _).trans rfl

end Sys2Proof.Machine
end

section
/-! SUPPORT. The abort of a step (R344, R345) and quorum (R328). -/
namespace Sys2Proof.Machine
open Sys2Proof

variable (d : Dev)

/-- The control plane as an abort leaves it (R345 order 1). -/
def Ctl.abortedBy (c : Ctl) (cause origin : Nat) : Ctl :=
  { c with abortCause := cause, abortOrigin := origin, abortCount := satAdd 16 c.abortCount 1, abortStep := c.committed + 1,
           written := [], buckets := [], early := c.early.filter (fun m => m.2.step != c.committed + 1), routes := [], sems := [], nextSetup := [],
           txn := c.txn.map fun t => { t with aborted := true, cause := cause, origin := origin, rsent := [], rrecv := [] } }

/-- What follows order 1 leaves the control plane but for what completion records note in it. -/
theorem Dev.abortStep_apart (cause origin : Nat) : (d.abortStep cause origin).ctl.apart = (d.ctl.abortedBy cause origin).apart := by
  have hfold (l : List Nat) (e : Dev) : (l.foldl (fun d u => d.finish u 0x11 (some (cause + 256 * origin))) e).ctl.apart = e.ctl.apart :=
    foldl_keeps (·.ctl.apart) _ (fun e u => e.finish_apart u _ _) l e
  have hflush (e : Dev) : e.flushAll.ctl.apart = e.ctl.apart := Dev.apart_of_still e.flushAll_still
  unfold Dev.abortStep
  simp only
  rw [hfold, hflush, Dev.irq_ctl, Dev.logEv_ctl]
  rfl

/-- A field that neither an abort nor a write notes anything in stands. -/
theorem Dev.abortStep_field {α : Type} (g : Ctl → α) (hg : ∀ c, g c.apart = g c) (cause origin : Nat) :
    g (d.abortStep cause origin).ctl = g (d.ctl.abortedBy cause origin) := Ctl.field_of_apart g hg (d.abortStep_apart cause origin)

theorem Dev.abortStep_stepOpen (cause origin : Nat) : (d.abortStep cause origin).stepOpen = false := by
  have htxn := d.abortStep_field (·.txn) (fun _ => rfl) cause origin
  unfold Dev.stepOpen
  rw [htxn]
  unfold Ctl.abortedBy
  cases d.ctl.txn <;> rfl

theorem Dev.raise_open {t : Txn} (h : d.ctl.txn = some t) (hopen : t.aborted = false) {cause : Nat}
    (hc : t.pledged = false ∨ pledgedCause cause = true) (origin : Nat) : d.raise cause origin = d.abortStep cause origin := by
  unfold Dev.raise
  simp only [h]
  rw [if_neg (by simp [hopen]), if_neg]
  rcases hc with hc | hc <;> simp [hc]

/-- A change of the module's state, but to LOADED, changes nothing else of the control plane. -/
theorem Dev.setState_ctl_eq {st : Nat} (h : st ≠ 4) : (d.setState st).ctl = { d.ctl with state := st } := by
  unfold Dev.setState
  split
  case isTrue hst =>
    rw [← hst]
  case isFalse => simp

/-! ### Quorum -/

theorem Dev.mem_reachable (a : Nat) :
    a ∈ d.reachable ↔ a ∈ d.members' ∧ (a = d.ctl.address ∨ ((d.peer a).state = 3 ∧ (d.peer a).stranded = false)) := by
  simp [Dev.reachable]

theorem Dev.members'_of_pattern {p : Pattern} (h : d.ctl.pattern = some p) : d.members' = List.range p.members.length := by
  simp [Dev.members', h]

theorem Dev.quorum_iff {p : Pattern} (h : d.ctl.pattern = some p) :
    d.quorum = true ↔ p.members.length < 2 * d.reachable.length ∨ (2 * d.reachable.length = p.members.length ∧ p.anchor ∈ d.reachable) := by
  simp [Dev.quorum, d.members'_of_pattern h, h]

/-- Modules that reach no member in common reach together at most as many members as there are. -/
theorem Dev.reachable_length_add {e : Dev} {p : Pattern} (hd : d.ctl.pattern = some p) (he : e.ctl.pattern = some p)
    (h : ∀ a, a ∈ d.reachable → a ∉ e.reachable) : d.reachable.length + e.reachable.length ≤ p.members.length := by
  have hsub (x : Dev) (hx : x.ctl.pattern = some p) : x.reachable ⊆ List.range p.members.length ∧ x.reachable.Nodup := by
    refine ⟨fun a ha => ?_, ?_⟩
    · rw [← x.members'_of_pattern hx]
      exact ((x.mem_reachable a).mp ha).1
    · unfold Dev.reachable
      rw [x.members'_of_pattern hx]
      exact List.Nodup.filter _ List.nodup_range
  obtain ⟨hdsub, hdnodup⟩ := hsub d hd
  obtain ⟨hesub, henodup⟩ := hsub e he
  have hnodup : (d.reachable ++ e.reachable).Nodup := hdnodup.append henodup fun a => h a
  simpa using (hnodup.subperm (List.append_subset.mpr ⟨hdsub, hesub⟩)).length_le

end Sys2Proof.Machine

open Sys2Proof Sys2Proof.Machine

/-- Settles O60: an abort sets the record of order 1, and only completion records touch the control plane after it. -/
theorem abortsKeepTheCommittedView : Obligations.AbortsKeepTheCommittedView := by
  refine fun d t cause origin ht => ⟨fun h => ?_, fun hopen hc => ?_, fun hopen hpledged hcause => ?_⟩
  · simp [Dev.raise, ht, h]
  · rw [d.raise_open ht hopen hc]
    exact ⟨d.abortStep_field (·.committed) (fun _ => rfl) _ _, d.abortStep_field (·.visible) (fun _ => rfl) _ _,
      d.abortStep_field (·.pattern) (fun _ => rfl) _ _, d.abortStep_field (·.abortCause) (fun _ => rfl) _ _,
      d.abortStep_field (·.abortOrigin) (fun _ => rfl) _ _, d.abortStep_field (·.abortCount) (fun _ => rfl) _ _,
      d.abortStep_field (·.abortStep) (fun _ => rfl) _ _, d.abortStep_stepOpen _ _⟩
  · simp [Dev.raise, ht, hopen, hpledged, hcause]

/-- Settles O57: disjoint reachable sets fit in the member list together, so that two halves at most meet, and the anchor is in one. -/
theorem quorumIsExclusive : Obligations.QuorumIsExclusive := by
  refine ⟨Dev.mem_reachable, fun d p => d.quorum_iff, fun d e p hd he hdisj => ?_, fun d t own hq => ?_⟩
  · rintro ⟨hdq, heq⟩
    rw [d.quorum_iff hd] at hdq
    rw [e.quorum_iff he] at heq
    have hsum := d.reachable_length_add hd he hdisj
    rcases hdq with hdmore | ⟨hdhalf, hdanchor⟩
    · omega
    · rcases heq with hemore | ⟨-, heanchor⟩
      · omega
      · exact hdisj _ hdanchor heanchor
  · have hcommit : d.commitStep t own = ((d.abortStep 8 0).setState 8).sendState := by
      simp [Dev.commitStep, hq, Dev.partition, Dev.strand]
    rw [hcommit]
    have hctl : (((d.abortStep 8 0).setState 8).sendState).ctl = { (d.abortStep 8 0).ctl with state := 8 } := by
      rw [Dev.sendState_ctl]
      exact Dev.setState_ctl_eq _ (by decide)
    rw [hctl]
    exact ⟨rfl, rfl, d.abortStep_field (·.abortCause) (fun _ => rfl) _ _, d.abortStep_field (·.committed) (fun _ => rfl) _ _⟩
end

section
/-! SUPPORT. Heads that do not start, halted rings, and messages that are out of order (R284, R406 to R408). -/
namespace Sys2Proof.Machine
open Sys2Proof

/-! ### Completions and halts -/

variable (d : Dev)

@[simp] theorem Dev.ring_setRing (r q : Nat) (f : Ring → Ring) : (d.setRing r f).ring q = if r = q then f (d.ring q) else d.ring q := by
  simp only [Dev.ring, Dev.setRing, tget_tmod]
  split
  case isTrue h => rw [h]
  case isFalse => rfl

theorem Dev.ring_congr {d e : Dev} (h : d.rings = e.rings) (r : Nat) : d.ring r = e.ring r := by simp [Dev.ring, h]

@[simp] theorem Dev.irq_ring (src q : Nat) : (d.irq src).ring q = d.ring q := Dev.ring_congr (d.irq_rings src) q

@[simp] theorem Dev.haltRing_ring (r place code q : Nat) : (d.haltRing r place code).ring q =
    if r = q then { d.ring q with halted := true, haltCode := code, haltAt := place, queue := [], fetchAt := (d.ring q).head } else d.ring q := by
  simp [Dev.haltRing]

/-- The ring as a completion leaves it before any halt (R392). -/
def Ring.retire (x : Ring) (place : Nat) : Ring :=
  { x with retired := (retireRun (x.done.length + 1) x.retired (place :: x.done)).1, done := (retireRun (x.done.length + 1) x.retired (place :: x.done)).2 }

/-- A completion writes its record and raises its events; then the ring halts where the code says so or the record is lost (R392, R408). -/
theorem Dev.complete_shape (r place : Nat) (b : List Byte) (status detail : Nat) : ∃ e : Dev,
    (∀ q, e.ring q = if r = q then (d.ring q).retire place else d.ring q) ∧ e.acts = d.acts ∧
    d.complete r place b status detail =
      if (d.ring r).sCplDev && !d.mapped (((d.ring r).sCpl + 16 * (place % (d.ring r).sSize)) % 2 ^ 40) 16
      then (e.logEv 0 Config.lostRecordEvent r [] 0).haltRing r place 0x03
      else if halts status then e.haltRing r place status else e := by
  refine ⟨_, ?_, ?_, rfl⟩
  case refine_1 =>
    intro q
    have hirq (e : Dev) (c : Bool) (src : Nat) : (if c then e.irq src else e).ring q = e.ring q := by split <;> simp
    have hrecord (e : Dev) (src a : Nat) (bs : List PB) (o : HostOut) (c lost : Bool) :
        (if c then (if lost then e else e.write src a bs) else e.toHost o).ring q = e.ring q := by
      split
      · split
        · rfl
        · exact Dev.ring_congr (Dev.rings_of_still (e.write_still _ _ _)) q
      · exact Dev.ring_congr (e.toHost_rings _) q
    rw [hirq, hirq, hrecord, if_neg (by simp), Dev.ring_setRing]
    split
    case isTrue h =>
      subst h
      rfl
    case isFalse => rfl
  case refine_2 =>
    have hirq (e : Dev) (c : Bool) (src : Nat) : (if c then e.irq src else e).acts = e.acts := by split <;> simp
    have hrecord (e : Dev) (src a : Nat) (bs : List PB) (o : HostOut) (c lost : Bool) :
        (if c then (if lost then e else e.write src a bs) else e.toHost o).acts = e.acts := by
      split
      · split
        · rfl
        · exact Dev.acts_of_still (e.write_still _ _ _)
      · exact e.toHost_acts _
    rw [hirq, hirq, hrecord]
    rfl

theorem Dev.refuseHead_acts (r status detail : Nat) : (d.refuseHead r status detail).acts = d.acts := by
  unfold Dev.refuseHead
  split
  · rfl
  · obtain ⟨e, -, hacts, h⟩ := (d.popHead r).complete_shape r _ _ status detail
    rw [h]
    split
    · simpa [Dev.haltRing] using hacts
    · split
      · simpa [Dev.haltRing] using hacts
      · exact hacts

/-- A code that halts halts the ring, whether or not the record reaches the host (R403, R408). -/
theorem Dev.refuseHead_halted {r status : Nat} {x : Desc} {rest : List Desc} (hq : (d.ring r).queue = x :: rest) (hs : halts status = true)
    (detail : Nat) : ((d.refuseHead r status detail).ring r).halted = true := by
  unfold Dev.refuseHead
  rw [hq]
  obtain ⟨e, -, -, h⟩ := (d.popHead r).complete_shape r x.place x.bytes status detail
  simp only [h]
  split
  · simp
  · simp

theorem Dev.queue_of_head {r : Nat} {x : Desc} (h : d.head r = some x) : ∃ rest, (d.ring r).queue = x :: rest := by
  unfold Dev.head at h
  simp only at h
  split at h
  · exact List.head?_eq_some_iff.mp h
  · simp at h

/-! ### Commands that start a descriptor -/

/-- Each command that starts a descriptor issues the head of its ring with its kind. -/
theorem exec_of_startingCommands {r k : Nat} {c : Instr} (h : (k, c) ∈ startingCommands r) (s : State) :
    ∃ f : Dev → Desc → Dev, exec c s = nextD s fun d => d.issue r k false (f d) := by
  unfold startingCommands at h
  simp only [List.mem_append, List.mem_cons, List.not_mem_nil, or_false, Prod.mk.injEq] at h
  rcases h with h | h
  · rcases h with ⟨rfl, rfl⟩ | ⟨rfl, rfl⟩ | ⟨rfl, rfl⟩ | ⟨rfl, rfl⟩ | ⟨rfl, rfl⟩ | ⟨rfl, rfl⟩ | ⟨rfl, rfl⟩ | ⟨rfl, rfl⟩ | ⟨rfl, rfl⟩ | ⟨rfl, rfl⟩
    all_goals unfold exec; exact ⟨_, rfl⟩
  · split at h
    case isTrue hr =>
      subst hr
      simp only [List.mem_cons, List.not_mem_nil, or_false, Prod.mk.injEq] at h
      rcases h with ⟨rfl, rfl⟩ | ⟨rfl, rfl⟩ | ⟨rfl, rfl⟩ | ⟨rfl, rfl⟩
      all_goals unfold exec; exact ⟨_, rfl⟩
    case isFalse => simp at h

/-! ### Messages that are out of order -/

/-- The planes once a message out of order has been seen (R284). -/
def Dev.passedOver (d : Dev) (typ : Nat) (m : Rx) : Dev :=
  if ((d.peer m.src).rx.getD m.cls 0 + 2 ^ 32 - m.seq) % 2 ^ 32 < 2 ^ 31 then
    (d.takeMessage typ m).setPeer m.src fun x => { x with ackDue := true }
  else d.takeMessage typ m

theorem Dev.accept_outOfOrder {typ : Nat} {m : Rx} (ready : Bool) (h : d.arrived typ m = true) (hs : m.sequenced = true)
    (h3 : (d.peer m.src).state = 3) (hclean : (peerSectors m.src).all d.tableClean = true) (hne : m.seq ≠ (d.peer m.src).rx.getD m.cls 0)
    (f : Dev → Dev) : d.accept typ m ready f = d.passedOver typ m := by
  simp [Dev.accept, Dev.withTables_clean hclean, Dev.accepted_outOfOrder ready h hs h3 hne, Dev.passedOver]

theorem Dev.permuteMessage_outOfOrder {typ : Nat} {m : Rx} (h : d.arrived typ m = true) (hs : m.sequenced = true)
    (h3 : (d.peer m.src).state = 3) (hclean : (peerSectors m.src).all d.tableClean = true) (hne : m.seq ≠ (d.peer m.src).rx.getD m.cls 0)
    (f : Dev → Dev) : d.permuteMessage typ m f = d.passedOver typ m := by
  have haccept (g : Dev → Dev) := d.accept_outOfOrder true h hs h3 hclean hne g
  have haccepted : (d.accepted typ m false).1 = d.passedOver typ m := congrArg Prod.fst (Dev.accepted_outOfOrder false h hs h3 hne)
  unfold Dev.permuteMessage
  simp only [haccept, haccepted]
  split
  · rfl
  split
  · rfl
  split
  · rfl
  · rw [beq_eq_false_iff_ne.mpr hne, Bool.and_false, if_neg (by simp)]

/-- Each command of a sequenced message takes it up by the rules of its class; those of a PERMUTE and a message for the core on their
own. -/
theorem exec_of_sequencedCommands {typ : Nat} {c : Rx → Instr} (h : (typ, c) ∈ sequencedCommands) (s : State) (m : Rx) :
    (∃ (ready : Dev → Bool) (f : Dev → Dev → Dev), exec (c m) s = nextD s fun d => d.accept typ m (ready d) (f d)) ∨
    (∃ f : Dev → Dev → Dev, exec (c m) s = nextD s fun d => d.permuteMessage typ m (f d)) ∨ (typ = 0xA0 ∧ c = .mgmtMctp) := by
  simp only [sequencedCommands, List.mem_cons, List.not_mem_nil, or_false, Prod.mk.injEq] at h
  rcases h with ⟨rfl, rfl⟩ | ⟨rfl, rfl⟩ | ⟨rfl, rfl⟩ | ⟨rfl, rfl⟩ | ⟨rfl, rfl⟩ | ⟨rfl, rfl⟩ | ⟨rfl, rfl⟩ | ⟨rfl, rfl⟩ | ⟨rfl, rfl⟩ | ⟨rfl, rfl⟩ |
    ⟨rfl, rfl⟩ | ⟨rfl, rfl⟩ | ⟨rfl, rfl⟩ | ⟨rfl, rfl⟩ | ⟨rfl, rfl⟩ | ⟨rfl, rfl⟩ | ⟨rfl, rfl⟩ | ⟨rfl, rfl⟩ | ⟨rfl, rfl⟩ | ⟨rfl, rfl⟩ | ⟨rfl, rfl⟩ |
    ⟨rfl, rfl⟩ | ⟨rfl, rfl⟩ | ⟨rfl, rfl⟩ | ⟨rfl, rfl⟩
  on_goal 25 => exact .inr (.inr ⟨rfl, rfl⟩)
  on_goal 11 => exact .inr (.inl ⟨_, by unfold exec; rfl⟩)
  on_goal 11 => exact .inr (.inl ⟨_, by unfold exec; rfl⟩)
  all_goals
    refine .inl ?_
    unfold exec
    exact ⟨_, _, rfl⟩

end Sys2Proof.Machine

open Sys2Proof Sys2Proof.Machine

/-- Settles O54: the head is refused with a code that halts, and a completion leaves the control plane and the started descriptors. -/
theorem illegalStateHasNoEffect : Obligations.IllegalStateHasNoEffect := by
  intro s r k c x hc hhead hk hfetch hended hj
  obtain ⟨f, hexec⟩ := exec_of_startingCommands hc s
  obtain ⟨rest, hq⟩ := s.d.queue_of_head hhead
  have hapart := s.d.refuseHead_apart r 1 0
  refine ⟨?_, Ctl.field_of_apart (·.nextIota) (fun _ => rfl) hapart, Ctl.field_of_apart (·.rlog) (fun _ => rfl) hapart, s.d.refuseHead_acts r 1 0,
    s.d.refuseHead_halted hq (by decide) 0⟩
  rw [hexec, nextD_eq, Dev.issue_illegal hhead hk hfetch hended hj]

/-- Settles O55: a completion halts its own ring; a halted ring has no head and fetches nothing; and the two writes test the halt first. -/
theorem haltedRingsWait : Obligations.HaltedRingsWait := by
  refine ⟨fun d r status detail x rest hq hs hdev => ?_, fun s r hh => ⟨fun bytes st => ?_, fun k c hc => ?_⟩, fun x hx => ⟨?_, fun slot => ?_⟩,
    fun x hx => ?_⟩
  · have hrefuse : d.refuseHead r status detail = (d.popHead r).complete r x.place x.bytes status detail := by
      unfold Dev.refuseHead
      rw [hq]
    obtain ⟨e, hring, -, h⟩ := (d.popHead r).complete_shape r x.place x.bytes status detail
    have hpop (q : Nat) : (d.popHead r).ring q =
        if r = q then { d.ring q with head := (d.ring q).head + 1, queue := (d.ring q).queue.drop 1 } else d.ring q := by
      simp [Dev.popHead]
    have hlost : ((d.popHead r).ring r).sCplDev = false := by simp [hpop, hdev]
    rw [hlost, Bool.false_and, if_neg (by simp), if_pos hs] at h
    rw [hrefuse, h]
    simp only [Dev.haltRing_ring, if_true, true_and]
    intro q hqr
    rw [if_neg (Ne.symm hqr), hring, if_neg (Ne.symm hqr), hpop, if_neg (Ne.symm hqr)]
  · have hexec : exec (.descriptorFetch r bytes st) s = execDescriptorFetch r bytes st s := rfl
    rw [hexec, execDescriptorFetch, nextD_eq]
    simp [hh]
  · obtain ⟨f, hexec⟩ := exec_of_startingCommands hc s
    rw [hexec, nextD_eq, Dev.issue_none (Dev.head_halted hh)]
  · simp [resumedRing, hx]
  · simp [headWritten, hx]
  · simp [resumedRing, hx]

/-- Settles O56: the number is compared before the message acts, by the rules of its class or by the core. -/
theorem sequencedMessagesActOnce : Obligations.SequencedMessagesActOnce := by
  intro s typ c m hc harrived hseq h3 hclean hne
  have hexec : exec (c m) s = .next (s.settled (s.d.passedOver typ m)) := by
    rcases exec_of_sequencedCommands hc s m with ⟨ready, f, h⟩ | ⟨f, h⟩ | ⟨rfl, rfl⟩
    · rw [h, nextD_eq, s.d.accept_outOfOrder _ harrived hseq h3 hclean hne]
    · rw [h, nextD_eq, s.d.permuteMessage_outOfOrder harrived hseq h3 hclean hne]
    · have hcore : exec (.mgmtMctp m) s = execMgmtMctp m s := rfl
      rw [hcore, execMgmtMctp, nextS_eq]
      simp only [Dev.accepted_outOfOrder true harrived hseq h3 hne, Bool.false_eq_true, if_false]
      rfl
  rw [hexec]
  refine ⟨fun hdup => ?_, fun hahead => ?_⟩
  · rw [Dev.passedOver, if_pos hdup]
  · rw [Dev.passedOver, if_neg (by omega)]
end

section
/-! SUPPORT. Ports that go down, and what reads and writes of sectors leave of the M-dies (R223 to R249). -/
namespace Sys2Proof.Machine
open Sys2Proof

section
variable {d e : Dev}

theorem Dev.repairs_of_still (h : d.still = e.still) : d.repairs = e.repairs := (congrArg Dev.repairs h : d.still.repairs = e.still.repairs)
theorem Dev.retires_of_still (h : d.still = e.still) : d.retires = e.retires := (congrArg Dev.retires h : d.still.retires = e.still.retires)
theorem Dev.retired_of_still (h : d.still = e.still) : d.retired = e.retired := (congrArg Dev.retired h : d.still.retired = e.still.retired)
end

variable (d : Dev)

/-! ### Ports -/

@[simp] theorem Dev.port_setPort (p q : Nat) (f : Port → Port) : (d.setPort p f).port q = if p = q then f (d.port q) else d.port q := by
  simp only [Dev.port, Dev.setPort, tget_tmod]
  split
  case isTrue h => rw [h]
  case isFalse => rfl

theorem Dev.port_congr {d e : Dev} (h : d.ports = e.ports) (p : Nat) : d.port p = e.port p := by simp [Dev.port, h]

variable {d} in
theorem Dev.portDown_of_alone {p : Nat} (hup : d.up p = true) (hjoined : d.joined = []) (cause event : Nat) :
    d.portDown p cause event = ((d.setPort p (downPort cause)).logEv 0 0x0030 p (natLE 1 event) 0).health 16 := by
  have hnone : (((d.setPort p (downPort cause)).logEv 0 0x0030 p (natLE 1 event) 0).health 16).joined = [] := by
    simpa [Dev.joined, Dev.health] using hjoined
  simp [Dev.portDown, hup, hnone]

/-! ### M-dies -/

/-- An M-die without what an access to memory notes in it: its buffers, its cache and its counts of failures. -/
def MDie.plain (x : MDie) : MDie :=
  { x with merge := [], cache := [], parityCnt := 0, poisonReads := 0, errAddr := 0, errFails := 0, poisonedMerges := 0 }

/-- The plain M-dies and the tiles. -/
def Dev.units (d : Dev) : (Nat → MDie) × Tab Tile := (fun m => (d.mdie m).plain, d.tiles)

@[simp] theorem Dev.mdie_setMdie (m n : Nat) (f : MDie → MDie) : (d.setMdie m f).mdie n = if m = n then f (d.mdie n) else d.mdie n := by
  simp only [Dev.mdie, Dev.setMdie, tget_tmod]
  split
  case isTrue h => rw [h]
  case isFalse => rfl

theorem Dev.setMdie_units (m : Nat) {f : MDie → MDie} (hf : ∀ x, (f x).plain = x.plain) : (d.setMdie m f).units = d.units := by
  refine Prod.ext (funext fun n => ?_) rfl
  simp only [Dev.units, Dev.mdie_setMdie]
  split
  · exact hf _
  · rfl

theorem Dev.units_congr {d e : Dev} (hmdies : d.mdies = e.mdies) (htiles : d.tiles = e.tiles) : d.units = e.units := by
  simp [Dev.units, Dev.mdie, hmdies, htiles]

theorem Dev.units_mdie {d e : Dev} (h : d.units = e.units) (m : Nat) : (d.mdie m).plain = (e.mdie m).plain := congrFun (congrArg Prod.fst h) m

theorem Dev.units_tiles {d e : Dev} (h : d.units = e.units) : d.tiles = e.tiles := congrArg Prod.snd h

@[simp] theorem Dev.logEv_units (pl co un : Nat) (pay : List Byte) (a : Nat) : (d.logEv pl co un pay a).units = d.units :=
  Dev.units_congr (by simp) (by simp)

@[simp] theorem Dev.setMem_units (m : Mem) : Dev.units { d with mem := m } = d.units := rfl

@[simp] theorem Dev.touch_units (b : Nat) (w : Bool) : (d.touch b w).units = d.units := by
  unfold Dev.touch
  simp only
  split
  · split
    · rfl
    · exact d.setMdie_units _ fun _ => rfl
  · rfl

@[simp] theorem Dev.countParity_units (b a f : Nat) : (d.countParity b a f).units = d.units := by
  unfold Dev.countParity
  split
  · exact d.setMdie_units _ fun _ => rfl
  · rfl

@[simp] theorem Dev.countPoison_units (b : Nat) : (d.countPoison b).units = d.units := by
  unfold Dev.countPoison
  split
  · exact d.setMdie_units _ fun _ => rfl
  · rfl

@[simp] theorem Dev.sramEvent_units (u f a : Nat) : (d.sramEvent u f a).units = d.units := d.logEv_units _ _ _ _ _

@[simp] theorem Dev.parityEvent_units (a b f : Nat) (s : Sector) : (d.parityEvent a b f s).units = d.units := by
  have hcount := Dev.countParity_units { d with mem := d.mem.store b ⟨s.data, allFail⟩ } b a f
  unfold Dev.parityEvent
  simp only
  split
  · exact hcount
  · rw [Dev.sramEvent_units, hcount, Dev.setMem_units]

@[simp] theorem Dev.dropEntry_units (b : Nat) : (d.dropEntry b).units = d.units := by
  unfold Dev.dropEntry
  split
  · split
    · exact d.setMdie_units _ fun _ => rfl
    · rfl
  · rfl

@[simp] theorem Dev.writeFull_units (b : Nat) (data : List Byte) (p : Bool) : (d.writeFull b data p).units = d.units := by simp [Dev.writeFull]

@[simp] theorem Dev.badEntry_units (e : MEntry) : (d.badEntry e).units = d.units := by
  unfold Dev.badEntry
  rw [Dev.writeFull_units]
  split <;> simp

@[simp] theorem Dev.readKey_units (a b : Nat) : (d.readKey a b).2.units = d.units := by
  unfold Dev.readKey
  simp only
  split
  · simp
  · split
    · simp
    · rw [Dev.countPoison_units, Dev.touch_units]
      split <;> simp

@[simp] theorem Dev.scrubAt_units (k : Nat) : (d.scrubAt k).units = d.units := by
  unfold Dev.scrubAt
  split
  · rfl
  · exact d.readKey_units _ _

@[simp] theorem Dev.scrubAt_still (k : Nat) : (d.scrubAt k).still = d.still := by
  unfold Dev.scrubAt
  split
  · rfl
  · exact d.readKey_still _ _

theorem Dev.upset_eq_setMem (k mask : Nat) : ∃ m, d.upset k mask = { d with mem := m } := by
  unfold Dev.upset
  split
  · exact ⟨d.mem, rfl⟩
  · exact ⟨_, rfl⟩

theorem Dev.upsetRead_units (k mask : Nat) : (d.upsetRead k mask).units = d.units := by
  have hupset : (d.upset k mask).units = d.units := by
    obtain ⟨m, h⟩ := d.upset_eq_setMem k mask
    rw [h, Dev.setMem_units]
  unfold Dev.upsetRead
  split
  · rfl
  split
  · split
    · exact hupset
    · exact d.setMdie_units _ fun _ => rfl
  · exact hupset

theorem Dev.upsetRead_retired (k mask : Nat) : (d.upsetRead k mask).retired = d.retired := by
  have hupset : (d.upset k mask).retired = d.retired := by
    obtain ⟨m, h⟩ := d.upset_eq_setMem k mask
    rw [h]
  unfold Dev.upsetRead
  split
  · rfl
  split
  · split
    · exact hupset
    · rfl
  · exact hupset

theorem Dev.strike_keeps (x : Strike) : (d.strike x).units = d.units ∧ (d.strike x).retired = d.retired := by
  cases x with
  | table k i mask => exact ⟨rfl, rfl⟩
  | merge b mask =>
    unfold Dev.strike
    simp only
    split
    · exact ⟨d.setMdie_units _ fun _ => rfl, rfl⟩
    · exact ⟨rfl, rfl⟩
  | stored k mask =>
    unfold Dev.strike
    simp only
    split
    · obtain ⟨m, h⟩ := d.upset_eq_setMem k mask
      rw [h]
      exact ⟨rfl, rfl⟩
    · exact ⟨rfl, rfl⟩

theorem Dev.mdie_congr {d e : Dev} (h : d.mdies = e.mdies) (m : Nat) : d.mdie m = e.mdie m := by simp [Dev.mdie, h]

@[simp] theorem Dev.mdie_logEv (pl co un : Nat) (pay : List Byte) (a m : Nat) : (d.logEv pl co un pay a).mdie m = d.mdie m :=
  Dev.mdie_congr (d.logEv_mdies _ _ _ _ _) m

@[simp] theorem Dev.mdie_health (n m : Nat) : (d.health n).mdie m = d.mdie m := rfl

theorem Dev.readRow_units (l : List Nat) : (l.foldl (fun d k => (d.readKey (d.deviceOf k) k).2) d).units = d.units :=
  foldl_keeps Dev.units _ (fun e k => e.readKey_units _ k) l d

theorem Dev.readRow_still (l : List Nat) : (l.foldl (fun d k => (d.readKey (d.deviceOf k) k).2) d).still = d.still :=
  foldl_keeps Dev.still _ (fun e k => e.readKey_still _ k) l d

theorem MDie.field_of_plain {α : Type} (g : MDie → α) (hg : ∀ x, g x.plain = g x) {x y : MDie} (h : x.plain = y.plain) : g x = g y := by
  rw [← hg x, h, hg y]

/-- The planes once bits of SRAM have been struck, where they are. -/
def Dev.struck (d : Dev) (x : Option Strike) : Dev := match x with | some x => d.strike x | none => d

theorem Dev.struck_keeps (x : Option Strike) : (d.struck x).units = d.units ∧ (d.struck x).retired = d.retired := by
  cases x with
  | none => exact ⟨rfl, rfl⟩
  | some x => exact d.strike_keeps x

/-- One read of the scrubber (R244). -/
def Dev.scrubOnce (d : Dev) (m up : Nat) : Dev :=
  let x := d.mdie m
  if !x.scrubEnable || !x.trained then d
  else
    let k := placeAddr (scrubPlace m x.scrubPos)
    let d1 := (d.upsetRead k up).scrubAt k
    let d2 := if x.scrubCount = 255 ∧ x.scrubLlm then d1.scrubAt (0xA000000000 + m * 0x10000000 + 64 * x.llmPos) else d1
    d2.setMdie m fun y =>
      { y with scrubPos := (x.scrubPos + 1) % stackSectors, scrubCount := (x.scrubCount + 1) % 256,
               llmPos := if x.scrubCount = 255 ∧ x.scrubLlm then (x.llmPos + 1) % sliceSectors else x.llmPos }

variable {d} in
theorem Dev.scrubOnce_keeps {m : Nat} (up : Nat) (hen : (d.mdie m).scrubEnable = true) (htr : (d.mdie m).trained = true) :
    ((d.scrubOnce m up).mdie m).scrubPos = ((d.mdie m).scrubPos + 1) % stackSectors ∧
    ((d.scrubOnce m up).mdie m).scrubCount = ((d.mdie m).scrubCount + 1) % 256 ∧ (d.scrubOnce m up).tiles = d.tiles ∧
    (d.scrubOnce m up).retired = d.retired := by
  have hread (k : Nat) : ((d.upsetRead k up).scrubAt k).tiles = d.tiles :=
    Dev.units_tiles ((Dev.scrubAt_units _ k).trans (d.upsetRead_units k up))
  have hretired (k : Nat) : ((d.upsetRead k up).scrubAt k).retired = d.retired :=
    (Dev.retired_of_still (Dev.scrubAt_still (d.upsetRead k up) k)).trans (d.upsetRead_retired k up)
  unfold Dev.scrubOnce
  simp only [hen, htr, Bool.not_true, Bool.or_self, Bool.false_eq_true, if_false, Dev.mdie_setMdie, if_true, Dev.setMdie_tiles, Dev.setMdie_retired,
    true_and]
  split
  · exact ⟨(Dev.units_tiles (Dev.scrubAt_units _ _)).trans (hread _), (Dev.retired_of_still (Dev.scrubAt_still _ _)).trans (hretired _)⟩
  · exact ⟨hread _, hretired _⟩

/-- The event of a full retirement list (R249). -/
def Dev.noteDegraded (d : Dev) : Dev := if d.degraded then d.degrade else d

theorem Dev.noteDegraded_keeps {α : Type} (g : Dev → α) (hg : ∀ e : Dev, g e.degrade = g e) : g d.noteDegraded = g d := by
  unfold Dev.noteDegraded
  split
  · exact hg d
  · rfl

theorem Dev.moveSector_still (src dst : Nat) : (d.moveSector src dst).still = d.still :=
  (Dev.writeFull_still _ _ _ _).trans (d.readKey_still _ _)

theorem Dev.dropLines_keeps {α : Type} (g : Dev → α) (hg : ∀ (e : Dev) (m : Nat) (f : MDie → MDie), g (e.setMdie m f) = g e) (n : Nat) :
    g (d.dropLines n) = g d := foldl_keeps g _ (fun e m => hg e m _) _ d

theorem exec_rowRepair_keeps {s : State} {m : Nat} {c : Row × Nat} {rest : List (Row × Nat)}
    (h : takeFirst (fun c : Row × Nat => c.1.mdie == m) s.d.repairs = (some c, rest)) :
    ∃ d, exec (.rowRepair m) s = .next (s.settled d) ∧ (d.mdie m).repaired = (s.d.mdie m).repaired ++ [c.1] ∧ d.repairs = rest ∧
      d.retired = s.d.retired := by
  have hexec : exec (.rowRepair m) s = execRowRepair m s := rfl
  rw [hexec, execRowRepair, nextD_eq]
  simp only [h]
  refine ⟨_, rfl, ?_, ?_, ?_⟩
  · have hrepaired := MDie.field_of_plain (·.repaired) (fun _ => rfl) (Dev.units_mdie (Dev.readRow_units { s.d with repairs := rest } (rowSectors c.1)) m)
    rw [Dev.mdie_health, Dev.mdie_logEv, Dev.mdie_setMdie, if_pos rfl]
    exact congrArg (· ++ [c.1]) hrepaired
  · rw [Dev.health_repairs, Dev.logEv_repairs, Dev.setMdie_repairs]
    generalize rowSectors c.1 = l
    exact (Dev.repairs_of_still (Dev.readRow_still { s.d with repairs := rest } l)).trans rfl
  · rw [Dev.health_retired, Dev.logEv_retired, Dev.setMdie_retired]
    exact (Dev.retired_of_still (Dev.readRow_still { s.d with repairs := rest } (rowSectors c.1))).trans rfl

/-- Sectors of a granule move to its pool granule (R248). -/
def Dev.moveGranule (d : Dev) (old pool : Nat) : Dev :=
  (List.range 1024).foldl (fun d i => d.moveSector (old + 64 * i) (poolBase pool + 64 * i))
    ((List.range 8).foldl (fun d m => ((d.mdie m).merge.filter fun e => e.sector / 65536 == old / 65536).foldl (fun d e => d.flushEntry m e) d) d)

theorem Dev.moveGranule_still (old pool : Nat) : (d.moveGranule old pool).still = d.still := by
  unfold Dev.moveGranule
  rw [foldl_keeps Dev.still _ (fun e i => e.moveSector_still _ _)]
  exact foldl_keeps Dev.still _ (fun e m => foldl_keeps Dev.still _ (fun e x => e.flushEntry_still m x) _ e) _ d

/-- A granule and its pool granule join the retirement list, with an event and its points. -/
def Dev.listGranule (d : Dev) (c : Row × Nat) (pool : Nat) : Dev :=
  (({ d with retired := d.retired ++ [(c.2 / 65536, pool)] } : Dev).logEv 1 0x0023 c.1.mdie (rowPayload c.1) (c.2 / 65536 * 65536)).health 32

/-- The granule at fault goes to the next pool granule (R248). -/
def Dev.retireGranule (d : Dev) (c : Row × Nat) : Dev :=
  (((d.moveGranule (d.redirect (c.2 / 65536 * 65536)) d.retired.length).listGranule c d.retired.length).dropLines
    (d.redirect (c.2 / 65536 * 65536) / 65536)).noteDegraded

theorem Dev.listGranule_keeps (c : Row × Nat) (pool : Nat) : (d.listGranule c pool).retired = d.retired ++ [(c.2 / 65536, pool)] ∧
    (d.listGranule c pool).retires = d.retires ∧ (d.listGranule c pool).repairs = d.repairs :=
  ⟨Dev.logEv_retired _ _ _ _ _ _, Dev.logEv_retires _ _ _ _ _ _, Dev.logEv_repairs _ _ _ _ _ _⟩

theorem Dev.retireGranule_keeps (c : Row × Nat) : (d.retireGranule c).retired = d.retired ++ [(c.2 / 65536, d.retired.length)] ∧
    (d.retireGranule c).retires = d.retires ∧ (d.retireGranule c).repairs = d.repairs := by
  have hstill := d.moveGranule_still (d.redirect (c.2 / 65536 * 65536)) d.retired.length
  unfold Dev.retireGranule
  generalize d.moveGranule (d.redirect (c.2 / 65536 * 65536)) d.retired.length = e at hstill
  obtain ⟨hretired, hretires, hrepairs⟩ := e.listGranule_keeps c d.retired.length
  refine ⟨?_, ?_, ?_⟩
  · rw [Dev.noteDegraded_keeps _ Dev.retired (fun e => e.logEv_retired _ _ _ _ _), Dev.dropLines_keeps _ Dev.retired (fun _ _ _ => rfl),
      hretired, Dev.retired_of_still hstill]
  · rw [Dev.noteDegraded_keeps _ Dev.retires (fun e => e.logEv_retires _ _ _ _ _), Dev.dropLines_keeps _ Dev.retires (fun _ _ _ => rfl),
      hretires, Dev.retires_of_still hstill]
  · rw [Dev.noteDegraded_keeps _ Dev.repairs (fun e => e.logEv_repairs _ _ _ _ _), Dev.dropLines_keeps _ Dev.repairs (fun _ _ _ => rfl),
      hrepairs, Dev.repairs_of_still hstill]

theorem exec_granuleRetirement_of_cons {s : State} {c : Row × Nat} {rest : List (Row × Nat)} (h : s.d.retires = c :: rest)
    (hlen : s.d.retired.length < 8192) :
    exec .granuleRetirement s = .next (s.settled (Dev.retireGranule { s.d with retires := rest } c)) := by
  have hexec : exec .granuleRetirement s = execGranuleRetirement s := rfl
  rw [hexec, execGranuleRetirement, nextD_eq]
  simp only [h]
  rw [if_neg (by simpa [Dev.degraded] using hlen)]
  rfl

theorem exec_scrubRead_keeps {s : State} {m : Nat} (up : Nat) (strike : Option Strike) (hen : (s.d.mdie m).scrubEnable = true)
    (htr : (s.d.mdie m).trained = true) :
    ∃ d, exec (.scrubRead m up strike) s = .next (s.settled d) ∧ (d.mdie m).scrubPos = ((s.d.mdie m).scrubPos + 1) % stackSectors ∧
      (d.mdie m).scrubCount = ((s.d.mdie m).scrubCount + 1) % 256 ∧ d.retired = s.d.retired ∧ d.tiles = s.d.tiles := by
  have hexec : exec (.scrubRead m up strike) s = nextD s fun d => (d.struck strike).scrubOnce m up := rfl
  obtain ⟨hunits, hretired⟩ := s.d.struck_keeps strike
  have hplain := Dev.units_mdie hunits m
  obtain ⟨hpos, hcount, htiles, hret⟩ := Dev.scrubOnce_keeps (d := s.d.struck strike) up
    ((MDie.field_of_plain (·.scrubEnable) (fun _ => rfl) hplain).trans hen) ((MDie.field_of_plain (·.trained) (fun _ => rfl) hplain).trans htr)
  rw [hexec, nextD_eq]
  rw [MDie.field_of_plain (·.scrubPos) (fun _ => rfl) hplain] at hpos
  rw [MDie.field_of_plain (·.scrubCount) (fun _ => rfl) hplain] at hcount
  exact ⟨_, rfl, hpos, hcount, hret.trans hretired, htiles.trans (Dev.units_tiles hunits)⟩

end Sys2Proof.Machine

open Sys2Proof Sys2Proof.Machine

/-- Settles O20: with no JOINED peer nothing departs, and the port's own record is that of a port that goes down. -/
theorem linkDownEmptiesThePort : Obligations.LinkDownEmptiesThePort := by
  intro d p cause event hup hjoined
  have hdown := Dev.portDown_of_alone hup hjoined cause event
  have hport (q : Nat) : (d.portDown p cause event).port q = if p = q then downPort cause (d.port q) else d.port q := by
    rw [hdown, ← Dev.port_setPort]
    exact Dev.port_congr (by simp [Dev.health]) q
  have hown : (d.portDown p cause event).port p = downPort cause (d.port p) := by rw [hport, if_pos rfl]
  refine ⟨hdown, by rw [hown]; rfl, by rw [hown]; rfl, by rw [hown]; rfl, by rw [hown]; rfl, by rw [hown]; rfl, ?_, fun q hq => ?_⟩
  · unfold Dev.up
    rw [hown]
    unfold downPort
    simp only
    split <;> rfl
  · rw [hport, if_neg (Ne.symm hq)]

/-- Settles O18: what lies between a fault and its record reads and writes sectors, which leaves the lists and the records of the M-dies. -/
theorem rowFaultFlow : Obligations.RowFaultFlow := by
  refine fun s => ⟨fun m c rest h => ⟨?_, ?_⟩, fun m c rest h => exec_rowRepair_keeps h, fun c rest h hlen => ⟨_, exec_granuleRetirement_of_cons h hlen, Dev.retireGranule_keeps _ c⟩,
    fun m up strike hen htr => exec_scrubRead_keeps up strike hen htr⟩
  · have hexec : exec (.confirmationRead m true) s = execConfirmationRead m true s := rfl
    rw [hexec, execConfirmationRead, nextD_eq]
    simp [h]
  · have hexec : exec (.confirmationRead m false) s = execConfirmationRead m false s := rfl
    rw [hexec, execConfirmationRead, nextD_eq]
    simp [h]
end

section
/-! SUPPORT. Power-off, start-up and the supply (R456 to R475, R506, R509). -/
namespace Sys2Proof.Machine
open Sys2Proof

/-! ### Power-off -/

/-- `t` is `s` after a power-off: a final record is added, flash and OTP stand, and everything else is at its reset values. -/
def State.PoweredOff (s t : State) : Prop :=
  ∃ cause, t.pending = s.pending ∧ t.d.ctl = { Ctl.reset with state := 0, moduleId := s.d.ctl.moduleId } ∧
    t.d.mem = ⟨[], [], s.d.mem.losses + 1⟩ ∧ t.d.retired = s.d.retired ∧ t.d.rings = [] ∧ t.d.acts = [] ∧ t.d.peers = [] ∧
    t.d.tiles = [] ∧ t.d.ports = [] ∧ t.sec.finals = (s.d.ctl.committed + 1, s.d.ctl.state, cause) :: s.sec.finals ∧
    t.sec.copyA = s.sec.copyA ∧ t.sec.copyB = s.sec.copyB ∧ t.sec.otpVersion = s.sec.otpVersion ∧ t.sec.slots = s.sec.slots ∧
    t.sec.slot0Disabled = s.sec.slot0Disabled ∧ t.sec.keySeq = s.sec.keySeq ∧ t.pwr.pwrgd = false ∧ t.pwr.qualified = false

/-- What a power-off reads of the state before it. -/
def State.flash (s : State) := (s.d.ctl.moduleId, s.d.ctl.committed, s.d.ctl.state, s.d.mem, s.d.retired, s.sec)

theorem State.powerOff_poweredOff {s u : State} (h : u.flash = s.flash) (hon : s.d.ctl.state ≠ 0) (cause : Nat) (opened trip : Bool) (mv av : Nat) :
    s.PoweredOff (s.went (u.powerOff cause opened trip mv av)) := by
  simp only [State.flash, Prod.mk.injEq] at h
  obtain ⟨hid, hcommitted, hstate, hmem, hretired, hsec⟩ := h
  have hcold : (s.went (u.powerOff cause opened trip mv av)).d = u.d.cold := by
    simp only [State.went, State.powerOff, State.become_d, hstate, if_neg hon]
    exact Dev.settle_of_noHead u.d.cold_noHead
  have hroot : (s.went (u.powerOff cause opened trip mv av)).sec = Sec.cold { s.sec with finals := (s.d.ctl.committed + 1, s.d.ctl.state, cause) :: s.sec.finals } := by
    simp only [State.went, State.powerOff, State.become_sec, hstate, if_neg hon, hsec, Dev.stepNo, hcommitted]
  have hpwr : (s.went (u.powerOff cause opened trip mv av)).pwr.pwrgd = false ∧ (s.went (u.powerOff cause opened trip mv av)).pwr.qualified = false := by
    simp only [State.went, State.powerOff, State.become_pwr, hstate, if_neg hon]
    exact ⟨rfl, rfl⟩
  refine ⟨cause, rfl, ?_⟩
  rw [hcold, hroot, ← hid, ← hmem, ← hretired]
  exact ⟨rfl, rfl, rfl, rfl, rfl, rfl, rfl, rfl, rfl, rfl, rfl, rfl, rfl, rfl, rfl, hpwr.1, hpwr.2⟩

theorem State.drawMain_flash (s : State) : s.drawMain.flash = s.flash := by
  unfold State.drawMain
  split <;> rfl

theorem State.supply_flash (s : State) (bits : Nat) : (s.supply bits).flash = s.flash := by
  simp [State.flash, State.supply]

theorem State.health_flash (s : State) (n : Nat) : (s.health n).flash = s.flash := rfl

theorem State.setPwr_flash (s : State) (p : Pwr) : State.flash { s with pwr := p } = s.flash := rfl

theorem State.drawMain_auxThere (s : State) : s.drawMain.pwr.auxThere = s.pwr.auxThere := by
  unfold State.drawMain
  split <;> rfl

end Sys2Proof.Machine

open Sys2Proof Sys2Proof.Machine

/-- Settles O4: each of these commands powers the module off, after what it records of the inputs. -/
theorem powerOffKeepsFlashAlone : Obligations.PowerOffKeepsFlashAlone := by
  intro s n hon c hc
  suffices h : ∃ t, exec c s = .next t ∧ s.PoweredOff t by
    obtain ⟨t, ht, cause, hoff⟩ := h
    exact ⟨t, cause, ht, hoff⟩
  rcases hc with ⟨rfl, hn⟩ | rfl | rfl | rfl | ⟨rfl, hn, haux⟩ | ⟨rfl, hn, hmain⟩
  · have hexec : exec (.bothInputsLost n) s = .next (s.went (s.powerOff 0 false false n n)) := by
      change execBothInputsLost n s = _
      simp only [execBothInputsLost, nextS_eq, hn, if_true]
      rfl
    exact ⟨_, hexec, State.powerOff_poweredOff rfl hon _ _ _ _ _⟩
  · exact ⟨_, rfl, State.powerOff_poweredOff rfl hon _ _ _ _ _⟩
  · exact ⟨_, rfl, State.powerOff_poweredOff rfl hon _ _ _ _ _⟩
  · exact ⟨_, rfl, State.powerOff_poweredOff rfl hon _ _ _ _ _⟩
  · have hstate : s.drawMain.d.ctl.state ≠ 0 := by
      rw [show s.drawMain.d.ctl.state = s.d.ctl.state from congrArg (·.2.2.1) s.drawMain_flash]
      exact hon
    have hexec : exec (.mainLost n) s = .next (s.went (((State.supply { s.drawMain with
        pwr := { s.drawMain.pwr with mainCv := n, mainOk := false, qualified := false, mainWas := true } } 1).health 64).powerOff 0 false false n
          s.drawMain.pwr.auxCv)) := by
      change execMainLost n s = _
      simp only [execMainLost, nextS_eq, hn, hstate, s.drawMain_auxThere, haux, Bool.false_eq_true, Bool.true_eq_false, or_self, if_false]
      rfl
    exact ⟨_, hexec, State.powerOff_poweredOff (by rw [State.health_flash, State.supply_flash, State.setPwr_flash, s.drawMain_flash]) hon _ _ _ _ _⟩
  · have hexec : exec (.auxLost n) s = .next (s.went (((State.supply { s with pwr := { s.pwr with auxCv := n, auxOk := false } } 4).health 32).powerOff
        0 false false s.pwr.mainCv n)) := by
      change execAuxLost n s = _
      simp only [execAuxLost, nextS_eq, hn, hon, hmain, Bool.true_eq_false, or_self, if_false, if_true]
      rfl
    exact ⟨_, hexec, State.powerOff_poweredOff (by rw [State.health_flash, State.supply_flash, State.setPwr_flash]) hon _ _ _ _ _⟩
end

section
/-! SUPPORT. The inputs, the start-up, the switch-over and the periodic loops (R456 to R487). -/
namespace Sys2Proof.Machine
open Sys2Proof

variable (s : State)

theorem State.drawMain_of_off (h : s.d.ctl.onAux = false) : s.drawMain = s := by simp [State.drawMain, h]

theorem State.drawMain_sec : s.drawMain.sec = s.sec := by
  unfold State.drawMain
  split <;> rfl

theorem State.drawMain_state : s.drawMain.d.ctl.state = s.d.ctl.state := congrArg (·.2.2.1) s.drawMain_flash

theorem holdable_ne {st n : Nat} (h : holdable st = true) (hn : holdable n = false) : st ≠ n := by
  rintro rfl
  simp [h] at hn

theorem inBand_of_le {cv : Nat} (hlow : 4400 ≤ cv) (hhigh : cv ≤ 5900) : inBand cv = true := by simp [inBand, hlow, hhigh]

theorem outsideLoss_iff (cv : Nat) : outsideLoss cv = true ↔ cv < 4200 ∨ 6000 < cv := by simp [outsideLoss]

/-! ### Start-up -/

/-- The planes in BOOT. -/
def Dev.inBoot (d : Dev) : Dev := if d.ctl.state = 1 then d else d.setState 1

theorem Dev.inBoot_keeps (d : Dev) : d.inBoot.ctl.state = 1 ∧ d.inBoot.mem = d.mem ∧ d.inBoot.rings = d.rings := by
  unfold Dev.inBoot
  split
  case isTrue h => exact ⟨h, rfl, rfl⟩
  case isFalse => exact ⟨d.setState_state 1, d.setState_mem 1, d.setState_rings 1⟩

theorem State.startUp_of_unqualified (h : s.pwr.qualified = false) :
    s.startUp = { s with pwr := { s.pwr with bootOrder := 2 }, sec := s.sec.boot, d := if s.sec.boot.recovery then s.d.inBoot.setState 9 else s.d.inBoot } := by
  unfold State.startUp
  simp only [h, Bool.false_eq_true, if_false]
  split <;> rfl

theorem Dev.fillSram_tiles (d : Dev) : d.fillSram.tiles = d.tiles := by
  simp only [Dev.fillSram, Dev.allMdies_tiles]

theorem Dev.fillSram_ctl (d : Dev) : d.fillSram.ctl = d.ctl := by
  simp only [Dev.fillSram, Dev.allMdies_ctl]

theorem Dev.fillSram_mem (d : Dev) : d.fillSram.mem = d.mem.fillSram := rfl

theorem Dev.fillSram_mdie (d : Dev) {m : Nat} (h : m < 8) : d.fillSram.mdie m = { d.mdie m with merge := [], cache := [], fillDone := true } := by
  have hmdies : d.fillSram.mdies = (d.allMdies fun x => { x with merge := [], cache := [], fillDone := true }).mdies := rfl
  rw [Dev.mdie_congr hmdies, Dev.mdie_allMdies _ _ h]

/-- The planes in SWATCH, the stacks trained and the SRAM filled. -/
theorem State.enterSwatch_planes : s.enterSwatch.d.ctl.state = 2 ∧ s.enterSwatch.d.ctl.onAux = s.d.ctl.onAux ∧
    s.enterSwatch.d.mem = s.d.mem.fillSram ∧ ∀ m < 8, (s.enterSwatch.d.mdie m).trained = true ∧ (s.enterSwatch.d.mdie m).fillDone = true := by
  obtain ⟨e, he, hstate, haux, hmem⟩ : ∃ e : Dev, s.enterSwatch.d = (e.allMdies fun x => { x with trained := true }).fillSram ∧
      e.ctl.state = 2 ∧ e.ctl.onAux = s.d.ctl.onAux ∧ e.mem = s.d.mem := by
    refine ⟨if s.d.ctl.state = 2 then s.d else s.d.setState 2, rfl, ?_⟩
    split
    case isTrue h => exact ⟨h, rfl, rfl⟩
    case isFalse => exact ⟨s.d.setState_state 2, s.d.setState_onAux 2, s.d.setState_mem 2⟩
  rw [he, Dev.fillSram_ctl, Dev.allMdies_ctl, Dev.fillSram_mem, Dev.allMdies_mem]
  refine ⟨hstate, haux, by rw [hmem], fun m hm => ?_⟩
  rw [Dev.fillSram_mdie _ hm, Dev.mdie_allMdies _ _ hm]
  exact ⟨rfl, rfl⟩

/-- The state once MAIN is qualified: its return is logged where it had been lost, and it carries the module (R475). -/
def State.mainBack (s : State) : State :=
  let s1 : State := { s with pwr := { s.pwr with qualified := true, mainWas := false } }
  let s2 := if s.pwr.mainWas then s1.supply 2 else s1
  if s2.d.ctl.onAux then s2.toMain else s2

theorem State.mainBack_keeps : s.mainBack.d.mem = s.d.mem ∧ s.mainBack.d.ctl.onAux = false ∧ s.mainBack.sec = s.sec ∧ s.mainBack.pwr =
    { s.pwr with qualified := true, mainWas := false, events := if s.pwr.mainWas then s.pwr.events ||| 2 else s.pwr.events,
                 returns := if s.d.ctl.onAux then satAdd 16 s.pwr.returns 1 else s.pwr.returns, forced := s.pwr.forced && !s.d.ctl.onAux,
                 switchStage := if s.d.ctl.onAux then 0 else s.pwr.switchStage } := by
  unfold State.mainBack
  cases hwas : s.pwr.mainWas <;> cases haux : s.d.ctl.onAux <;> simp [State.supply, State.toMain, haux]

/-! ### Units after SWATCH -/

@[simp] theorem Dev.tile_setTile (d : Dev) (p q : Nat) (f : Tile → Tile) : (d.setTile p f).tile q = if p = q then f (d.tile q) else d.tile q := by
  simp only [Dev.tile, Dev.setTile, tget_tmod]
  split
  case isTrue h => rw [h]
  case isFalse => rfl

theorem Dev.tile_congr {d e : Dev} (h : d.tiles = e.tiles) (p : Nat) : d.tile p = e.tile p := by simp [Dev.tile, h]

/-- A change of the first `n` tiles changes each of them. -/
theorem Dev.tile_allTiles (d : Dev) (f : Nat → Tile → Tile) (n p : Nat) :
    ((List.range n).foldl (fun d p => d.setTile p (f p)) d).tile p = if p < n then f p (d.tile p) else d.tile p := by
  induction n with
  | zero => rfl
  | succ n ih =>
    rw [List.range_succ, List.foldl_append, List.foldl_cons, List.foldl_nil, Dev.tile_setTile, ih]
    rcases Nat.lt_trichotomy n p with h | rfl | h
    · rw [if_neg (by omega), if_neg (by omega), if_neg (by omega)]
    · rw [if_pos rfl, if_neg (by omega), if_pos (by omega)]
    · rw [if_neg (by omega), if_pos (by omega), if_pos (by omega)]

theorem Dev.setTiles_mem (f : Nat → Tile → Tile) (l : List Nat) (d : Dev) : (l.foldl (fun d p => d.setTile p (f p)) d).mem = d.mem :=
  foldl_keeps Dev.mem (fun d p => d.setTile p (f p)) (fun _ _ => rfl) l d

theorem Dev.setMdies_keeps (f : Nat → MDie → MDie) (l : List Nat) (d : Dev) :
    (l.foldl (fun d m => d.setMdie m (f m)) d).mem = d.mem ∧ (l.foldl (fun d m => d.setMdie m (f m)) d).tiles = d.tiles :=
  ⟨foldl_keeps Dev.mem (fun d m => d.setMdie m (f m)) (fun _ _ => rfl) l d, foldl_keeps Dev.tiles (fun d m => d.setMdie m (f m)) (fun _ _ => rfl) l d⟩

theorem Dev.logEvs_keeps {α : Type} (code : Nat) (unit : α → Nat) (f : α → List Byte) (l : List α) (d : Dev) :
    (l.foldl (fun d u => d.logEv 2 code (unit u) (f u) 0) d).mem = d.mem ∧ (l.foldl (fun d u => d.logEv 2 code (unit u) (f u) 0) d).tiles = d.tiles :=
  ⟨foldl_keeps Dev.mem _ (fun e _ => e.logEv_mem _ _ _ _ _) l d, foldl_keeps Dev.tiles _ (fun e _ => e.logEv_tiles _ _ _ _ _) l d⟩

/-- The units as the tests of SWATCH mark them, with the failures logged (R472). -/
def Dev.tested (d : Dev) (r : SwatchResult) : Dev :=
  (swatchFailures r).foldl (fun d u => d.logEv 2 0x0002 u.2 (natLE 1 u.1 ++ natLE 1 (Config.swatchTest u.1 u.2)) 0)
    ((List.range 8).foldl (fun d m => d.setMdie m fun x =>
      { x with selfDone := true, selfPass := firstFail r m == 0xFF, selfFirst := firstFail r m })
      ((List.range 104).foldl (fun d p => d.setTile p fun t => { t with failed := (badTiles r).contains p, fenced := false }) d))

theorem Dev.tested_keeps (d : Dev) (r : SwatchResult) : (d.tested r).mem = d.mem ∧
    ∀ p < 104, ((d.tested r).tile p).failed = (badTiles r).contains p := by
  unfold Dev.tested
  refine ⟨?_, fun p hp => ?_⟩
  · rw [(Dev.logEvs_keeps 2 Prod.snd (fun u => natLE 1 u.1 ++ natLE 1 (Config.swatchTest u.1 u.2)) _ _).1,
      (Dev.setMdies_keeps (fun m x => { x with selfDone := true, selfPass := firstFail r m == 0xFF, selfFirst := firstFail r m }) _ _).1,
      Dev.setTiles_mem fun p t => { t with failed := (badTiles r).contains p, fenced := false }]
  · rw [Dev.tile_congr (Dev.logEvs_keeps 2 Prod.snd (fun u => natLE 1 u.1 ++ natLE 1 (Config.swatchTest u.1 u.2)) _ _).2,
      Dev.tile_congr (Dev.setMdies_keeps (fun m x => { x with selfDone := true, selfPass := firstFail r m == 0xFF, selfFirst := firstFail r m }) _ _).2,
      Dev.tile_allTiles d (fun p t => { t with failed := (badTiles r).contains p, fenced := false }) 104 p, if_pos hp]

/-- The planes as SWATCH leaves them before the module goes on (R472). -/
def Dev.swatched (d : Dev) (r : SwatchResult) : Dev :=
  (((d.tested r).logEv 2 0x0001 0xFFFF (natLE 1 (b2n (decide (8192 ≤ (d.tested r).retired.length))) ++
      ((List.range 4).map fun c => natLE 1 ((d.tested r).unusableOn c)).flatten ++
      zeros 3 ++ natLE 4 (((List.range 32).map fun p => if r.ports.contains p then 2 ^ p else 0).sum)) 0).fillSram).allPorts
    fun p x => if r.ports.contains p then { x with link := 4, held := true } else { x with link := if x.enable then 1 else 4, held := false }

theorem Dev.swatched_keeps (d : Dev) (r : SwatchResult) : (d.swatched r).mem = d.mem.fillSram ∧
    ∀ p < 104, ((d.swatched r).tile p).failed = (badTiles r).contains p := by
  obtain ⟨hmem, htile⟩ := d.tested_keeps r
  unfold Dev.swatched
  refine ⟨?_, fun p hp => ?_⟩
  · rw [Dev.allPorts_mem, Dev.fillSram_mem, Dev.logEv_mem, hmem]
  · rw [← htile p hp]
    refine congrArg Tile.failed (Dev.tile_congr ?_ p)
    rw [Dev.allPorts_tiles, Dev.fillSram_tiles, Dev.logEv_tiles]

end Sys2Proof.Machine

open Sys2Proof Sys2Proof.Machine

/-- Settles O5: the state is BOOT before the firmware decides. -/
theorem powerOnBootsTheFirmware : Obligations.PowerOnBootsTheFirmware := by
  intro s mv av hstate hboot htrip hband
  have hin : (inBand mv || inBand av) = true := by simpa [inBand] using hband
  have hexec : exec (.powerOn mv av) s = execPowerOn mv av s := rfl
  rw [hexec, execPowerOn, nextS_eq, if_pos ⟨hstate, hboot, htrip, hin⟩, State.startUp_of_unqualified _ rfl]
  obtain ⟨hone, hmem, hrings⟩ := s.d.inBoot_keeps
  refine ⟨_, rfl, ?_, ?_, ?_⟩
  all_goals simp only
  · split
    · simp
    · exact hone
  · split
    · simpa using hmem
    · exact hmem
  · split
    · simpa using hrings
    · exact hrings

/-- Settles O6: whatever MAIN brings back, the module enters SWATCH; and what the end of SWATCH does to units leaves memory filled. -/
theorem startUpReachesBare : Obligations.StartUpReachesBare := by
  refine ⟨fun s hstate hboot hok hq => ?_, fun s r hstate hboot hstopped hfault => ?_⟩
  · have hexec : exec .mainQualified s = execMainQualified s := rfl
    have hzero : s.d.ctl.state ≠ 0 := by omega
    obtain ⟨hmem, haux, hsec, hpwr⟩ := s.mainBack_keeps
    obtain ⟨hentered, hon, hfilled, hdies⟩ := s.mainBack.enterSwatch_planes
    rw [haux] at hon
    rw [hmem] at hfilled
    refine ⟨s.mainBack.enterSwatch.d, ?_, hentered, hon, hfilled, hdies⟩
    have hstart : exec .mainQualified s = .next (s.become s.mainBack.enterSwatch.pwr s.mainBack.enterSwatch.sec s.mainBack.enterSwatch.d) := by
      rw [hexec, execMainQualified, nextS_eq]
      simp only [if_neg (show ¬ (s.d.ctl.state = 0 ∨ s.pwr.mainOk = false ∨ s.pwr.qualified = true) by simp [hzero, hok, hq]), if_pos hstate, if_pos hboot]
      rfl
    have hsec' : s.mainBack.enterSwatch.sec = s.sec := hsec
    have hpwr' : s.mainBack.enterSwatch.pwr = { s.mainBack.pwr with bootOrder := 7, stopped := false, pwrgd := true } := rfl
    rw [hstart, hsec', hpwr', hpwr]
  · have hexec : exec (.swatchEnd r) s = .next (s.become { s.pwr with bootOrder := 10 } s.sec ((s.d.swatched r).setState 3)) := by
      change execSwatchEnd r s = _
      rw [execSwatchEnd, nextS_eq]
      simp only [hstate, hboot, hstopped, hfault, ne_eq, not_true_eq_false, Bool.false_eq_true, or_self, if_false]
      rfl
    obtain ⟨hmem, htile⟩ := s.d.swatched_keeps r
    refine ⟨_, hexec, Dev.setState_state _ 3, (Dev.setState_mem _ 3).trans hmem, fun p hp => ?_⟩
    rw [Dev.tile_congr (Dev.setState_tiles _ 3), htile p hp]
end

section
/-! SUPPORT. The supply's events, HOLD and the periodic loops, command by command. -/
namespace Sys2Proof.Machine
open Sys2Proof

variable (s : State)

/-- The readings of the sensors, which no answer of the core changes. -/
theorem State.respond_readings (p : Path) (typ : Nat) (msg : List Byte) : (s.respond p typ msg).sec.readings = s.sec.readings := by
  unfold State.respond
  split <;> rfl

theorem State.sweepAttest_readings : s.sweepAttest.sec.readings = s.sec.readings := by
  have hfold (l : List (Nat × Path)) (u : State) :
      (l.foldl (fun s w => s.respond w.2 0x7F (natLE 4 enterprise ++ natLE 1 5 ++ natLE 1 8)) u).sec.readings = u.sec.readings := by
    induction l generalizing u with
    | nil => rfl
    | cons w l ih => rw [List.foldl_cons, ih, State.respond_readings]
  exact hfold _ _

theorem State.sweepAttest_pwr : s.sweepAttest.pwr = s.pwr := congrArg Prod.fst s.sweepAttest_kept

/-- A switch-over of a module that can hold its state (R465, R466). -/
theorem State.switchOver_of_holdable (h : holdable s.d.ctl.state = true) : s.switchOver =
    { s with pwr := { s.pwr with toAux := satAdd 16 s.pwr.toAux 1, switchStage := 1 },
             d := (s.d.abandonLoad.raise 11).setCtl fun c => { c with onAux := true } } := by
  simp only [State.switchOver, h, if_true]

/-! ### The events of the inputs -/

theorem exec_mainInRange_of_inBand {cv : Nat} (hon : s.d.ctl.state ≠ 0) (hin : inBand cv = true) :
    exec (.mainInRange cv) s = .next (s.become { s.pwr with mainCv := cv, mainOk := true, mainOpen := false } s.sec s.d) := by
  change execMainInRange cv s = _
  rw [execMainInRange, nextS_eq, if_neg (by simp [hon, hin])]

theorem exec_auxReturned_of_ok {cv : Nat} (hon : s.d.ctl.state ≠ 0) (hin : inBand cv = true) (hok : s.pwr.auxOk = true) :
    exec (.auxReturned cv) s = .next (s.become { s.pwr with auxCv := cv, auxOk := true, auxOpen := false } s.sec s.d) := by
  change execAuxReturned cv s = _
  rw [execAuxReturned, nextS_eq, if_neg (by simp [hon, hin])]
  simp only [if_pos hok]

theorem exec_auxReturned_of_lost {cv : Nat} (hon : s.d.ctl.state ≠ 0) (hin : inBand cv = true) (hok : s.pwr.auxOk = false) :
    exec (.auxReturned cv) s = .next (s.become { s.pwr with auxCv := cv, auxOk := true, auxOpen := false, events := s.pwr.events ||| 8 } s.sec
      (s.d.logEv 2 0x0040 0xFFFF (natLE 1 8) 0)) := by
  change execAuxReturned cv s = _
  rw [execAuxReturned, nextS_eq, if_neg (by simp [hon, hin])]
  simp only [if_neg (show ¬ s.pwr.auxOk = true by simp [hok])]
  rfl

theorem exec_inputOutside (hon : s.d.ctl.state ≠ 0) {cv : Nat} (hout : 4200 ≤ cv ∧ cv < 4400 ∨ 5900 < cv ∧ cv ≤ 6000) :
    exec (.inputOutsideInRangeBand true cv) s =
      .next (s.become { s.drawMain.pwr with mainCv := cv, mainOk := false, qualified := false } s.sec s.drawMain.d) ∧
    exec (.inputOutsideInRangeBand false cv) s = .next (s.become { s.drawMain.pwr with auxCv := cv, auxOk := false } s.sec s.drawMain.d) := by
  have hband : inBand cv = false := by
    simp only [inBand, Bool.and_eq_false_iff, decide_eq_false_iff_not]
    omega
  have hloss : outsideLoss cv = false := by
    simp only [outsideLoss, Bool.or_eq_false_iff, decide_eq_false_iff_not]
    omega
  have hskip : ¬ (s.drawMain.d.ctl.state = 0 ∨ inBand cv = true ∨ outsideLoss cv = true) := by simp [s.drawMain_state, hon, hband, hloss]
  refine ⟨?_, ?_⟩
  · change execInputOutsideInRangeBand true cv s = _
    rw [execInputOutsideInRangeBand, nextS_eq]
    simp only [if_neg hskip, if_true, s.drawMain_sec]
  · change execInputOutsideInRangeBand false cv s = _
    rw [execInputOutsideInRangeBand, nextS_eq]
    simp only [if_neg hskip, Bool.false_eq_true, if_false, s.drawMain_sec]

end Sys2Proof.Machine

open Sys2Proof Sys2Proof.Machine

/-- Settles O3: each event passes the tests of its command. -/
theorem inputEventsAreRecorded : Obligations.InputEventsAreRecorded := by
  refine ⟨fun s cv hon => ⟨fun hl hh => exec_mainInRange_of_inBand s hon (inBand_of_le hl hh), fun hl hh hok => exec_auxReturned_of_ok s hon (inBand_of_le hl hh) hok,
      fun hl hh hok => exec_auxReturned_of_lost s hon (inBand_of_le hl hh) hok, ?_⟩, fun s cv => ⟨fun hon hcv => ?_, fun hon hcv => ?_, ?_, ?_, ?_⟩⟩
  · rintro u rfl hout
    exact exec_inputOutside s hon hout
  · change execInputOverVoltage true cv s = _
    rw [execInputOverVoltage, nextS_eq, if_neg (by simp only [hon, false_or]; omega)]
    rfl
  · change execInputOverVoltage false cv s = _
    rw [execInputOverVoltage, nextS_eq, if_neg (by simp only [hon, false_or]; omega)]
    rfl
  · intro hon hhold hcv hq haux
    change execAuxLost cv s = _
    rw [execAuxLost, nextS_eq, if_neg (by simp [hon, (outsideLoss_iff cv).mpr hcv])]
    simp only [if_neg (show ¬ s.pwr.qualified = false by simp [hq]), if_neg hhold, if_neg (show ¬ s.d.ctl.onAux = true by simp [haux])]
    rfl
  · intro hon hhold hcv hq haux
    change execAuxLost cv s = _
    rw [execAuxLost, nextS_eq, if_neg (by simp [hon, (outsideLoss_iff cv).mpr hcv])]
    simp only [if_neg (show ¬ s.pwr.qualified = false by simp [hq]), if_neg hhold, if_pos haux]
    rfl
  · intro av htrip hcv hav
    change execTripRelease cv av s = _
    rw [execTripRelease, nextS_eq, if_pos ⟨htrip, hcv, hav⟩]

/-- Settles O7: a module that can hold its state draws nothing else first and switches over. -/
theorem switchOverRaisesSupplyCause : Obligations.SwitchOverRaisesSupplyCause := by
  intro s cv hhold haux hthere
  have hon := holdable_ne hhold (n := 0) rfl
  have hboot : ¬ (s.d.ctl.state = 1 ∨ s.d.ctl.state = 2) := by simp [holdable_ne hhold (n := 1) rfl, holdable_ne hhold (n := 2) rfl]
  refine ⟨fun hcv => ?_, fun hq => ?_⟩
  · change execMainLost cv s = _
    rw [execMainLost, nextS_eq]
    simp only [s.drawMain_of_off haux]
    rw [if_neg (by simp [hon, (outsideLoss_iff cv).mpr hcv]), if_pos hthere]
    have hgone (u : State) (hd : u.d.ctl = s.d.ctl) : u.mainGone = u.switchOver := by
      unfold State.mainGone
      simp only [hd]
      rw [if_neg hboot, if_neg (by simp [haux])]
    have hctl (p : Pwr) : ((State.supply { s with pwr := p } 1).health 64).d.ctl = s.d.ctl := Dev.logEv_ctl _ _ _ _ _ _
    rw [hgone _ (hctl _), State.switchOver_of_holdable _ (by rw [hctl]; exact hhold)]
    rfl
  · change execForceAux s = _
    rw [execForceAux, nextS_eq, State.forceAux]
    simp only [s.drawMain_of_off haux]
    rw [if_neg (by simp [hon, hq, hthere]), if_neg (holdable_ne hhold (n := 7) rfl), if_pos hhold, if_neg (by simp [haux])]
    have hctl : (s.supply 128).d.ctl = s.d.ctl := Dev.logEv_ctl _ _ _ _ _ _
    rw [State.switchOver_of_holdable _ (by simp only [hctl]; exact hhold)]
    rfl

/-- Settles O8: HOLD_ENTRY waits for the ports, then enters HOLD; each return brings MAIN back and the ports ask for their widths. -/
theorem holdIsEnteredAndLeft : Obligations.HoldIsEnteredAndLeft := by
  refine ⟨fun s b d hstage hsettled hhold hb hd => ⟨?_, fun hports hstay => ?_⟩, fun s hstate hok hq hwas => ?_, fun s hstate hforced hq => ?_⟩
  · rintro ⟨p, hp, hup, hwide⟩
    have hbegin : s.beginHold = b := by rw [hb]; rfl
    change execHoldEntry s = _
    rw [execHoldEntry, nextS_eq, if_neg (by rcases hstage with h | h <;> simp [h, hsettled, hhold])]
    simp only [hbegin, ← hd]
    rw [if_pos]
    · have hsec : b.sec = s.sec := by
        rw [hb]
        split <;> rfl
      simp only [hsec]
    · rw [List.any_eq_true]
      refine ⟨p, List.mem_range.mpr hp, ?_⟩
      simpa [hup] using hwide
  · have hbegin : s.beginHold = b := by rw [hb]; rfl
    change execHoldEntry s = _
    rw [execHoldEntry, nextS_eq, if_neg (by rcases hstage with h | h <;> simp [h, hsettled, hhold])]
    simp only [hbegin, ← hd]
    have hnarrow : ¬ ((List.range 32).any fun p => (d.port p).isUp && ((d.port p).width != 2 || (d.port p).changing)) = true := by
      rw [List.any_eq_true]
      rintro ⟨p, hp, hwide⟩
      rw [Bool.and_eq_true] at hwide
      obtain ⟨hup, hwide⟩ := hwide
      obtain ⟨hwidth, hchange⟩ := hports p (List.mem_range.mp hp) hup
      simp [hwidth, hchange] at hwide
    have hpwr : b.pwr = { s.pwr with switchStage := b.pwr.switchStage } ∧ b.sec = s.sec := by
      rw [hb]
      split <;> exact ⟨rfl, rfl⟩
    have hheld : ¬ (b.pwr.qualified && !b.pwr.forced) = true := by
      rw [hpwr.1]
      rcases hstay with h | h <;> simp [h]
    rw [if_neg hnarrow, if_neg hheld]
    simp only [hpwr.2]
    rw [hpwr.1]
  · change execMainQualified s = _
    rw [execMainQualified, nextS_eq, if_neg (by simp [hstate, hok, hq])]
    simp only [if_pos hwas, if_neg (show ¬ (s.d.ctl.state = 1 ∨ s.d.ctl.state = 2) by simp [hstate]), if_pos hstate]
    rfl
  · change execForceReturn s = _
    rw [execForceReturn, nextS_eq, State.forceReturn, if_pos (by simp [hforced, hq, hstate])]
    rfl

/-- Settles O9: each loop is one step of its procedure. -/
theorem periodicLoopsStep : Obligations.PeriodicLoopsStep := by
  refine fun s hon => ⟨fun slow fast haux => ?_, fun slow fast haux hlow => ?_, fun slow fast haux hcap hfast => ?_, fun ts => ?_, fun rs hlen => ?_, ?_,
    fun die hdie => ?_⟩
  · change execCapLoopTick slow fast s = _
    rw [execCapLoopTick, nextS_eq, if_neg hon]
    simp only [if_pos haux]
  · change execCapLoopTick slow fast s = _
    rw [execCapLoopTick, nextS_eq, if_neg hon]
    have hlow' : ¬ (s.pwr.capEnable && decide (2400 < fast)) = true := by
      rcases hlow with h | h
      · simp [h]
      · simp [h]
    simp only [haux, Bool.false_eq_true, if_false, if_neg hlow']
  · change execCapLoopTick slow fast s = _
    rw [execCapLoopTick, nextS_eq, if_neg hon]
    simp only [haux, Bool.false_eq_true, if_false, if_pos (show (s.pwr.capEnable && decide (2400 < fast)) = true by simp [hcap, hfast])]
    rfl
  · change ∃ x d, execThermalTick ts s = _ ∧ _
    rw [execThermalTick, nextS_eq, if_neg hon]
    simp only
    split
    · exact ⟨_, _, rfl, rfl, rfl, Dev.logEv_ctl _ _ _ _ _ _, Dev.logEv_mem _ _ _ _ _ _⟩
    · exact ⟨_, _, rfl, rfl, rfl, rfl, rfl⟩
  · have hget (i : Nat) (hi : i < 34) : (rs.take 34 ++ [s.aclkN, s.sec.health]).getD i 0 = rs.getD i 0 := by
      have hi' : i < (rs.take 34).length := by simp [hlen, hi]
      simp [List.getD_eq_getElem?_getD, List.getElem?_append_left hi', List.getElem?_take_of_lt hi]
    change ∃ t, execSensorSample rs s = _ ∧ _
    rw [execSensorSample, nextS_eq, if_neg hon]
    refine ⟨_, rfl, ?_⟩
    simp only [State.become_pwr, State.become_sec, State.sweepAttest_readings, State.sweepAttest_pwr, hget 30 (by decide), hget 31 (by decide),
      hget 32 (by decide), hget 33 (by decide), true_and]
  · change execHealthTick s = _
    rw [execHealthTick, nextS_eq, if_neg hon]
  · change execPllLockLoss die s = _
    rw [execPllLockLoss, nextS_eq, if_neg hon]
    simp only [hdie, Bool.false_eq_true, if_false]
end

section
/-! SUPPORT. The host port, the registers and the rings' registers (R388 to R452). -/
namespace Sys2Proof.Machine
open Sys2Proof

variable {s : State}

theorem State.readable_of_powered {off : Nat} (h : off < 0x100000) (hboot : 4 ≤ s.pwr.bootOrder) (hdead : s.pwr.deadDies.contains 12 = false) :
    s.readable off = true := by
  simp only [s.readable_io (.inl h), State.dieAlive, hboot, hdead, decide_true, Bool.not_false, Bool.and_self]

theorem nextS_of_planes {f : State → State} {d : Dev} (h : f s = { s with d := d }) : nextS s f = .next (s.settled d) := by
  rw [nextS_eq, h]
  rfl

theorem State.barWrite_poisoned (h : s.d.reached = true) (off : Nat) (f : State → State) :
    s.barWrite off .poisoned false f = { s with d := s.d.aer aerPoisoned off } := by
  simp only [Dev.reached, Bool.and_eq_true] at h
  simp [State.barWrite, dropError, h.1, h.2]

theorem State.barWrite_refused (h : s.d.reached = true) (off : Nat) (f : State → State) :
    s.barWrite off .good true f = { s with d := s.d.unsupported none off } := by
  simp only [Dev.reached, Bool.and_eq_true] at h
  simp [State.barWrite, dropError, h.1]

theorem State.barRead_refused (h : s.d.reached = true) (tag off : Nat) (f : State → State) :
    s.barRead tag off .good true f = { s with d := s.d.unsupported (some tag) off } := by
  simp only [Dev.reached, Bool.and_eq_true] at h
  simp [State.barRead, dropError, h.1]

theorem bar0Refused_of {off dws : Nat} (h : dws ≠ 1 ∨ off % 4 ≠ 0 ∨ 0x4000000 ≤ off) : bar0Refused off dws = true := by
  simpa [bar0Refused, or_assoc] using h

theorem regSet_next (h : s.d.reached = true) {off : Nat} (hr : s.readable off = true) (f : Dev → Dev) :
    nextS s (fun s => s.regSet off f) = .next (s.settled (f s.d)) := nextS_of_planes (State.regSet_reached h hr f)

theorem ringReg_lt {r o : Nat} (hr : r ≤ 10) (ho : o < 0x40) : ringReg r o < 0x100000 := by
  unfold ringReg
  omega

end Sys2Proof.Machine

open Sys2Proof Sys2Proof.Machine

/-- Settles O11: each command's own test is met, and an unlisted drain ends none. -/
theorem hostLinkCommands : Obligations.HostLinkCommands := by
  refine fun s => ⟨rfl, rfl, fun on c => rfl, fun hup hdrains => ?_, fun es hup => ?_, fun v w hdown hboot => ?_, fun i hi hup => ?_⟩
  · change execHostLinkDown [] s = _
    rw [execHostLinkDown, nextD_eq]
    simp only [hup, Bool.not_true, Bool.false_eq_true, if_false, List.foldl_nil]
    have hends (f : HostPort → HostPort) : (s.d.setHost f).hostDrainEnds = s.d.setHost f := by simp [Dev.hostDrainEnds, hdrains]
    rw [hends]
    rfl
  · change execHostLinkDown es s = _
    rw [execHostLinkDown, nextD_eq]
    simp only [hup, Bool.not_true, Bool.false_eq_true, if_false]
  · change execHostLinkUp v w s = _
    refine nextS_of_planes ?_
    simp only
    rw [if_neg]
    simp only [hdown, Bool.false_eq_true, or_false]
    omega
  · change execDoeDiscovery i s = _
    rw [execDoeDiscovery, nextD_eq]
    simp only [hup, hi, Bool.not_true, Bool.false_eq_true, if_false, if_true]

/-- Settles O12: the access reaches the registers, or is dropped or refused before it does. -/
theorem registerCommands : Obligations.RegisterCommands := by
  refine fun s => ⟨fun tag off hreached hoff => exec_bar0RsRead_bar0 hreached hoff tag, fun tag off => exec_bar0RsRead_core s tag off,
    fun off val be hreached hoff => exec_registerWrite_bar0 hreached hoff val be, fun off val be => exec_registerWrite_core s off val be,
    fun off val be hreached hoff => ?_, fun tag off val be dws hreached hbad => ⟨?_, ?_⟩, fun tag off val be hreached => ⟨?_, ?_⟩,
    fun src hreached hboot hdead => ?_⟩
  · change execRegisterWrite off val be (.bar0 1 .poisoned) s = _
    refine nextS_of_planes ?_
    simp only [hoff]
    exact State.barWrite_poisoned hreached off _
  · change execBar0RsRead tag off (.bar0 dws .good) s = _
    unfold execBar0RsRead
    refine nextS_of_planes ?_
    simp only [bar0Refused_of hbad]
    exact State.barRead_refused hreached tag off _
  · change execRegisterWrite off val be (.bar0 dws .good) s = _
    refine nextS_of_planes ?_
    simp only [bar0Refused_of hbad]
    exact State.barWrite_refused hreached off _
  · change execBar0RsRead tag off (.bar4 .good) s = _
    unfold execBar0RsRead
    exact nextS_of_planes (State.barRead_reached hreached tag off _)
  · change execRegisterWrite off val be (.bar4 .good) s = _
    exact nextS_of_planes (State.barWrite_reached hreached off _)
  · exact regSet_next hreached (State.readable_of_powered (by decide) hboot hdead) _

/-- Settles O13: the ring's register has power and its clock, so that the write takes effect. -/
theorem ringControlCommands : Obligations.RingControlCommands := by
  intro s r val hr hreached hboot hdead
  have hread {o : Nat} (ho : o < 0x40) := State.readable_of_powered (ringReg_lt hr ho) hboot hdead
  refine ⟨?_, fun be hbe => ?_, fun be => ?_, fun hval => ?_, fun hval => ?_, regSet_next hreached (hread (by decide)) _, regSet_next hreached (hread (by decide)) _⟩
  · change execDoorbell r val 15 .good s = _
    refine nextS_of_planes ((State.barWrite_reached hreached _ _).trans ?_)
    rw [if_pos ⟨rfl, hread (by decide)⟩]
  · change execDoorbell r val be .good s = _
    refine nextS_of_planes ((State.barWrite_reached hreached _ _).trans ?_)
    rw [if_neg fun h => hbe h.1]
  · change execDoorbell r val be .poisoned s = _
    exact nextS_of_planes (State.barWrite_poisoned hreached _ _)
  · have h := regSet_next hreached (hread (o := 0x10) (by decide)) fun d => if bitAt val 0 then d.setRing r (ctrlWritten val) else d
    rwa [if_pos (show bitAt val 0 = true from hval)] at h
  · have h := regSet_next hreached (hread (o := 0x10) (by decide)) fun d => if bitAt val 0 then d else d.setRing r (ctrlWritten val)
    rwa [if_neg (show ¬ bitAt val 0 = true by simpa [bitAt] using hval)] at h

/-- Settles O14: the ring fetches, and the slot comes from where the ring lies. -/
theorem descriptorFetchCompletes : Obligations.DescriptorFetchCompletes := by
  refine fun s r bytes hf he hh hu => ⟨fun hdev hup hready => ?_, ?_⟩
  · change execDescriptorFetch r bytes 0 s = _
    rw [execDescriptorFetch, nextD_eq]
    simp [hf, he, hh, hu, hdev, hup, hready]
  · rintro a rfl hdev hmapped hclean
    change execDescriptorFetch r bytes 0 s = _
    rw [execDescriptorFetch, nextD_eq]
    simp only [hf, he, hh, hdev, hmapped, hclean, beq_eq_false_iff_ne.mpr hu, Bool.not_false, Bool.and_self, Bool.not_true, Bool.or_self,
      Bool.false_eq_true, if_false, if_true]

/-- Settles O17: the access is in reach, so that the read and the write of memory are all that is left. -/
theorem directAccessCompletes : Obligations.DirectAccessCompletes := by
  refine fun s => ⟨fun tag a n hreached hreach => ?_, fun a bytes hreached hreach => ?_, fun a bytes hreached hreach => ?_, fun m k e he => ?_⟩
  · simp only [Dev.reached, Bool.and_eq_true] at hreached
    change execBar2Read tag a n .good s = _
    rw [execBar2Read, nextD_eq]
    simp only [hreached.1, hreached.2, hreach, dropError, Bool.not_true, Bool.or_self, Bool.false_eq_true, if_false]
  · simp only [Dev.reached, Bool.and_eq_true] at hreached
    change execBar2Write a bytes .good s = _
    rw [execBar2Write, nextD_eq]
    simp only [hreached.1, hreached.2, hreach, dropError, Bool.not_true, Bool.or_self, Bool.false_eq_true, if_false]
    rfl
  · simp only [Dev.reached, Bool.and_eq_true] at hreached
    change execBar2Write a bytes .poisoned s = _
    rw [execBar2Write, nextD_eq]
    simp only [hreached.1, hreached.2, hreach, dropError, Bool.not_true, Bool.or_self, Bool.false_eq_true, if_false]
    rfl
  · change execMergeEntryIdle m k s = _
    rw [execMergeEntryIdle, nextD_eq]
    simp only [he]
end

section
/-! SUPPORT. Heads that start (R391, R401, R402), and a whole sector written and read back (R227, R228). -/
namespace Sys2Proof.Machine
open Sys2Proof

/-- A command that issues a head that is ready starts it under the rules of its kind. -/
theorem issue_next {s : State} {r k : Nat} {adopt : Bool} {x : Desc} (h : s.d.ready r k adopt x = true) (f : Dev → Desc → Dev) :
    nextD s (fun d => d.issue r k adopt (f d)) = .next (s.settled (f s.d x)) := by
  rw [nextD_eq, Dev.issue_ready h]

/-! ### Whole sectors -/

theorem allFail_testBit {i : Nat} (h : i < 64) : allFail.testBit i = true := by
  simp only [allFail, Nat.testBit_two_pow_sub_one, h, decide_true]

section
variable {m : Mem} (h : m.canonical = true)
include h

theorem Mem.canonical_rising : m.rising := (Mem.canonical_iff.mp h).1

theorem Mem.store_sector_other {b k : Nat} (s : Sector) (hb : b % 64 = 0) (hk : k % 64 = 0) (hne : k ≠ b) : (m.store b s).sector k = m.sector k := by
  have hrising := Mem.canonical_rising h
  have hout (i : Nat) (hi : i < 64) : ¬ (b ≤ k + i ∧ k + i < b + 64) := by omega
  refine congrArg₂ Sector.mk (List.map_congr_left fun i hi => ?_) (congrArg List.sum (List.map_congr_left fun i hi => ?_))
  · rw [Mem.store_eq, Mem.storeN_byte hrising, if_neg (hout i (List.mem_range.mp hi))]
  · rw [Mem.store_eq, Mem.storeN_fails hrising, if_neg (hout i (List.mem_range.mp hi))]

theorem Mem.store_sector_self (b : Nat) {data : List Byte} (hlen : data.length = 64) (p : Bool) :
    (m.store b ⟨data, if p then allFail else 0⟩).sector b = ⟨data, if p then allFail else 0⟩ := by
  have hrising := Mem.canonical_rising h
  refine congrArg₂ Sector.mk (List.ext_getElem (by simp [hlen]) fun i hi hi' => ?_) ?_
  · have hlt : i < 64 := by simpa using hi
    simp [Mem.store_eq, Mem.storeN_byte hrising, hlt, List.getD_eq_getElem?_getD, List.getElem?_eq_getElem hi']
  · have hbit (i : Nat) (hi : i ∈ List.range 64) :
        (if (m.store b ⟨data, if p then allFail else 0⟩).fails (b + i) then 2 ^ i else 0) = if p then 2 ^ i else 0 := by
      have hlt := List.mem_range.mp hi
      rw [Mem.store_eq, Mem.storeN_fails hrising, if_pos (show b ≤ b + i ∧ b + i < b + 64 by omega), Nat.add_sub_cancel_left]
      cases p with
      | false => simp
      | true => simp [allFail_testBit hlt]
    rw [List.map_congr_left hbit]
    cases p <;> decide
end

theorem Mem.sector_length (m : Mem) (b : Nat) : (m.sector b).data.length = 64 := by simp [Mem.sector]

theorem overlay_length (e : MEntry) (data : List Byte) : (overlay e data).length = data.length := by simp [overlay]

variable (d : Dev)

theorem Dev.mergeEntry_congr {d e : Dev} (h : d.mdies = e.mdies) (b : Nat) : d.mergeEntry b = e.mergeEntry b := by
  simp [Dev.mergeEntry, Dev.mdie, h]

theorem Dev.touch_merge (b : Nat) (w : Bool) (m : Nat) : ((d.touch b w).mdie m).merge = (d.mdie m).merge := by
  unfold Dev.touch
  simp only
  split
  · split
    · rfl
    · rw [Dev.mdie_setMdie]
      split <;> rfl
  · rfl

theorem Dev.touch_mergeEntry (b k : Nat) (w : Bool) : (d.touch b w).mergeEntry k = d.mergeEntry k := by
  unfold Dev.mergeEntry
  split
  · rw [Dev.touch_merge]
  · rfl

theorem find_filter_ne {b k : Nat} (l : List MEntry) :
    (l.filter fun e => e.sector != b).find? (fun e => e.sector == k) = if k = b then none else l.find? fun e => e.sector == k := by
  rw [List.find?_filter]
  split
  case isTrue h =>
    subst h
    simp
  case isFalse h =>
    congr 1
    funext e
    by_cases he : e.sector = k <;> simp [he, h]

theorem find_none_of_any {b : Nat} {l : List MEntry} (h : ¬ (l.any fun e => e.sector == b) = true) : l.find? (fun e => e.sector == b) = none := by
  simpa using h

theorem Dev.dropEntry_mergeEntry (b k : Nat) : (d.dropEntry b).mergeEntry k = if k = b then none else d.mergeEntry k := by
  unfold Dev.dropEntry
  split
  case h_1 m hm =>
    split
    case isTrue =>
      unfold Dev.mergeEntry
      cases hk : mdieOfKey k with
      | none => simp
      | some n =>
        simp only [Dev.mdie_setMdie]
        by_cases hn : m = n
        · rw [if_pos hn]
          exact find_filter_ne _
        · rw [if_neg hn, if_neg]
          rintro rfl
          exact hn (Option.some.inj (hm.symm.trans hk))
    case isFalse hany =>
      split
      case isTrue h =>
        subst h
        simp only [Dev.mergeEntry, hm]
        exact find_none_of_any hany
      case isFalse => rfl
  case h_2 hm =>
    split
    case isTrue h =>
      subst h
      simp [Dev.mergeEntry, hm]
    case isFalse => rfl

theorem Dev.writeFull_mergeEntry (b k : Nat) (data : List Byte) (p : Bool) :
    (d.writeFull b data p).mergeEntry k = if k = b then none else d.mergeEntry k := by
  have hmdies : (d.writeFull b data p).mdies = ((d.touch b true).dropEntry b).mdies := rfl
  rw [Dev.mergeEntry_congr hmdies, Dev.dropEntry_mergeEntry, Dev.touch_mergeEntry]

/-- What a read of a sector delivers: its merge entry over what is stored, poisoned where either fails. -/
theorem Dev.readKey_fst (a b : Nat) : (d.readKey a b).1 =
    ((match d.mergeEntry b with | some e => overlay e (d.mem.sector b).data | none => (d.mem.sector b).data),
      (match d.mergeEntry b with | some e => e.fails != 0 | none => false) || popcount64 (d.mem.sector b).fails != 0) := by
  unfold Dev.readKey
  simp only
  cases hentry : d.mergeEntry b with
  | none =>
    simp only [Option.filter_none]
    split
    case isTrue h => simp [h]
    case isFalse h => simp [h]
  | some e =>
    by_cases hf : e.fails = 0
    · simp only [Option.filter_some, hf]
      split
      · simp_all
      · split
        case isTrue h => simp [h]
        case isFalse h => simp [h]
    · simp [Option.filter_some, hf]

theorem Dev.aer_eq_setHost (e a : Nat) : ∃ f, d.aer e a = d.setHost f := ⟨_, rfl⟩

/-- What a sector reads as rests on its merge entry and what is stored there. -/
theorem Dev.readKey_congr {d e : Dev} {b : Nat} (hentry : d.mergeEntry b = e.mergeEntry b) (hmem : d.mem.sector b = e.mem.sector b) (a : Nat) :
    (d.readKey a b).1 = (e.readKey a b).1 := by
  rw [Dev.readKey_fst, Dev.readKey_fst, hentry, hmem]

section
variable {d} (h : d.mem.canonical = true)
include h

theorem Dev.readKey_writeFull_self (a b : Nat) {data : List Byte} (hlen : data.length = 64) (p : Bool) :
    ((d.writeFull b data p).readKey a b).1 = (data, p) := by
  rw [Dev.readKey_fst, Dev.writeFull_mergeEntry, if_pos rfl, Dev.writeFull_mem, Mem.store_sector_self h b hlen p]
  cases p
  · have h0 : popcount64 0 = 0 := by decide
    simp [h0]
  · have h64 : popcount64 allFail = 64 := by decide
    simp [h64]

theorem Dev.readKey_writeFull_other (a : Nat) {b k : Nat} (data : List Byte) (p : Bool) (hb : b % 64 = 0) (hk : k % 64 = 0) (hne : k ≠ b) :
    ((d.writeFull b data p).readKey a k).1 = (d.readKey a k).1 := by
  refine Dev.readKey_congr ?_ ?_ a
  · rw [Dev.writeFull_mergeEntry, if_neg hne]
  · rw [Dev.writeFull_mem, Mem.store_sector_other h _ hb hk hne]
end

/-- A whole sector of bytes that are all poisoned or all clean. -/
theorem Dev.writeIn_whole (a b : Nat) {bytes : List Byte} (hlen : bytes.length = 64) (p : Bool) :
    d.writeIn a b 0 (bytes.map fun x => (x, p)) = d.writeFull b bytes p := by
  have hfst : (bytes.map fun x => (x, p)).map Prod.fst = bytes := by simp [Function.comp_def]
  unfold Dev.writeIn
  cases p with
  | true =>
    obtain ⟨x, hx⟩ := List.exists_mem_of_ne_nil bytes (by rintro rfl; simp at hlen)
    have hany : (bytes.map fun x => (x, true)).any (fun x => x.2) = true := List.any_eq_true.mpr ⟨(x, true), List.mem_map.mpr ⟨x, hx, rfl⟩, rfl⟩
    rw [if_pos hany]
    simp only [List.take_zero, List.nil_append, List.length_map, hlen, Nat.zero_add, hfst]
    rw [List.drop_eq_nil_of_le, List.append_nil]
    split <;> simp [overlay_length, Mem.sector_length]
  | false => rw [if_neg (by simp), if_pos (by simpa using hlen), hfst]

theorem Dev.redirect_mod {a : Nat} (ha : a % 64 = 0) : d.redirect a % 64 = 0 := by
  unfold Dev.redirect
  split
  · unfold poolBase
    omega
  · exact ha

theorem Dev.physKey_mod {a b : Nat} (hkey : d.physKey a = some b) (ha : a % 64 = 0) (hb : b < 0xB000000000) : b % 64 = 0 := by
  unfold Dev.physKey at hkey
  split at hkey
  · rw [← Option.some.inj hkey]
    exact d.redirect_mod ha
  split at hkey
  · simp only at hkey
    split at hkey
    · rwa [← Option.some.inj hkey]
    · simp at hkey
  split at hkey
  · simp only at hkey
    split at hkey
    · obtain ⟨p, -, rfl⟩ := Option.map_eq_some_iff.mp hkey
      unfold scratchKey at hb
      omega
    · simp at hkey
  · simp at hkey

theorem Dev.key_mod {a b : Nat} (hregion : d.regionOf a = none) (hkey : d.key false a = some b) (ha : a % 64 = 0) (hb : b < 0xB000000000) :
    b % 64 = 0 := by
  unfold Dev.key at hkey
  split at hkey
  · simp at hkey
  · rw [Dev.steer, hregion] at hkey
    exact d.physKey_mod hkey ha hb

/-- A write of a whole sector outside every region. -/
theorem Dev.write_whole {a b : Nat} (hregion : d.regionOf a = none) (hkey : d.key false a = some b) (ha : a % 64 = 0) (hb : b < 0xB000000000)
    {bytes : List Byte} (hlen : bytes.length = 64) (p : Bool) (src : Nat) :
    d.write src a (bytes.map fun x => (x, p)) = d.writeFull b bytes p := by
  have hsec : d.writeSec (.byStep src) 0 a (bytes.map fun x => (x, p)) = (false, d.writeFull b bytes p) := by
    unfold Dev.writeSec
    simp only [hregion, ha, Nat.sub_zero, hkey]
    rw [if_neg (by omega), d.writeIn_whole a b hlen p]
  have hsecs (n : Nat) : d.writeSecs (.byStep src) 0 (n + 2) a (bytes.map fun x => (x, p)) = (none, d.writeFull b bytes p) := by
    have hne : (bytes.map fun x => (x, p)).isEmpty = false := by
      cases bytes with
      | nil => simp at hlen
      | cons x xs => rfl
    have hrest : ((bytes.map fun x => (x, p)).drop 64) = [] := List.drop_eq_nil_of_le (by simp [hlen])
    have hall : ((bytes.map fun x => (x, p)).take 64) = bytes.map fun x => (x, p) := List.take_of_length_le (by simp [hlen])
    rw [Dev.writeSecs]
    simp only [hne, ha, Nat.sub_zero, hall, hsec, hrest, Bool.false_eq_true, if_false]
    simp [Dev.writeSecs]
  unfold Dev.write Dev.writeAs
  simp only [List.length_map, hlen]
  rw [hsecs 1]

end Sys2Proof.Machine

open Sys2Proof Sys2Proof.Machine

/-- Settles O15: each check of the head is passed. -/
theorem fillAndCopyComplete : Obligations.FillAndCopyComplete := by
  refine ⟨?_, ?_⟩
  · rintro s r x dst len rfl rfl hready hclash hfields hmapped
    refine (issue_next hready fun d => d.fillHead r).trans ?_
    simp only [Dev.fillHead, hclash, hfields, hmapped, Bool.not_true, Bool.false_eq_true, if_false]
  · rintro s r x src dst len rfl rfl rfl hready hclash hfields hmapped hapart a d0 v hstart rfl
    refine (issue_next hready fun d => d.copyHead r).trans ?_
    simp only [Dev.copyHead, hclash, hfields, hmapped, hapart, hstart, Bool.not_true, Bool.false_eq_true, if_false]

/-- Settles O16: each check of the head is passed. -/
theorem orderingCommandsComplete : Obligations.OrderingCommandsComplete := by
  refine fun s r x hin => ⟨fun hready hphase hcolony => ?_, fun hready hphase hcolony => ?_, fun hready hsem hreached => ?_, fun hready hsem hidle => ?_,
    fun hready hkind hidle => ?_⟩
  · refine (issue_next hready fun d => d.markHead r).trans ?_
    simp only [Dev.markHead, hphase, hin, hcolony, Bool.not_true, Bool.or_self, Bool.false_eq_true, if_false, if_true]
  · refine (issue_next hready fun d => d.markHead r).trans ?_
    simp only [Dev.markHead, hphase, hin, hcolony, Bool.not_true, Bool.or_self, Bool.false_eq_true, if_false]
  · refine (issue_next hready fun d => d.waitHead r).trans ?_
    simp only [Dev.waitHead, hin, Bool.false_eq_true, or_false, if_neg (Nat.not_le.mpr hsem), if_pos hreached]
  · refine (issue_next hready fun d => d.signalHead r).trans ?_
    simp only [Dev.signalHead, hin, hidle, Bool.not_true, Bool.false_eq_true, or_false, if_false, if_neg (Nat.not_le.mpr hsem)]
  · refine (issue_next hready fun d x => if byteAt x.bytes 16 ≠ 0 ∨ !d.ringIdle r then d else d.refuseHead r (if flagInput x.bytes then 0x02 else 0)).trans ?_
    simp only [hkind, hidle, hin, ne_eq, not_true_eq_false, Bool.not_true, Bool.false_eq_true, or_self, if_false]

/-- Settles O48: the write is one of a whole sector, which drops the merge entry and stores the bytes with all parity failing or none. -/
theorem wholeSectorsReadBack : Obligations.WholeSectorsReadBack := by
  intro s a b bytes tlp hcanonical hreached hhead hreach ha hlen hregion hkey hb htlp
  simp only [Dev.reached, Bool.and_eq_true] at hreached
  have hmod := s.d.key_mod hregion hkey ha hb
  have hpoison (f : HostPort → HostPort) (p : Bool) : ((s.d.setHost f).write 0 a (bytes.map fun x => (x, p))) = (s.d.setHost f).writeFull b bytes p :=
    (s.d.setHost f).write_whole hregion hkey ha hb hlen p 0
  obtain ⟨f, hexec⟩ : ∃ f, exec (.bar2Write a bytes tlp) s = .next (s.settled ((s.d.setHost f).write 0 a (bytes.map fun x => (x, decide (tlp = .poisoned))))) := by
    rcases htlp with rfl | rfl
    · refine ⟨id, ?_⟩
      change execBar2Write a bytes .good s = _
      rw [execBar2Write, nextD_eq]
      simp only [hreached.1, hreached.2, hlen, hreach, dropError, Bool.not_true, Bool.or_self, Bool.false_eq_true, if_false]
      rfl
    · obtain ⟨f, hf⟩ := s.d.aer_eq_setHost aerPoisoned a
      refine ⟨f, ?_⟩
      change execBar2Write a bytes .poisoned s = _
      rw [execBar2Write, nextD_eq]
      simp only [hreached.1, hreached.2, hlen, hreach, dropError, hf, Bool.not_true, Bool.or_self, Bool.false_eq_true, if_false]
      rfl
  rw [hpoison] at hexec
  have hcanonical' : (s.d.setHost f).mem.canonical = true := hcanonical
  have hother (a' k : Nat) : ((s.d.setHost f).readKey a' k).1 = (s.d.readKey a' k).1 := Dev.readKey_congr (Dev.mergeEntry_congr (s.d.setHost_mdies f) k) rfl a'
  have hrings : ((s.d.setHost f).writeFull b bytes (decide (tlp = .poisoned))).rings = s.d.rings :=
    Dev.rings_of_still (Dev.writeFull_still _ _ _ _)
  refine ⟨_, hexec, ?_⟩
  rw [State.settled_d, Dev.settle_of_noHead ((Dev.noHead_congr hrings).trans hhead)]
  exact ⟨Dev.readKey_writeFull_self hcanonical' a b hlen _,
    fun a' k hk hne => (Dev.readKey_writeFull_other hcanonical' a' bytes _ hmod hk hne).trans (hother a' k)⟩
end

section
/-! SUPPORT. The answers of the management core over PLDM and the transfer of a firmware image (R481, R488 to R491). -/
namespace Sys2Proof.Machine
open Sys2Proof

/-- The security root without the answers that it has given. -/
def Sec.unanswered (x : Sec) : Sec := { x with resp := [] }

/-- The paths that carry an answer to the outside alone. -/
def outward (p : Path) : Prop := p = .i3c ∨ p = .vdm

variable {s : State} {p : Path}

theorem State.respond_unanswered (hp : outward p) (s : State) (typ : Nat) (msg : List Byte) : (s.respond p typ msg).sec.unanswered = s.sec.unanswered := by
  rcases hp with rfl | rfl <;> rfl

theorem State.pldmAsk_unanswered (hp : outward p) (s : State) (cmd : Nat) (body : List Byte) :
    (s.pldmAsk p cmd body).sec.unanswered = s.sec.unanswered := State.respond_unanswered hp s 1 _

theorem State.askData_unanswered (hp : outward p) (s : State) : (s.askData p).sec.unanswered = s.sec.unanswered := by
  unfold State.askData
  simp only
  split
  · exact State.pldmAsk_unanswered hp s _ _
  · rfl

theorem State.pldm_answered {typ : Nat} (h : s.answers p (.pldm typ) = true) (inst cmd : Nat) (f : State → State × List Byte) :
    s.pldm p inst typ cmd f = (f s).1.respond p 1 (natLE 1 inst ++ natLE 1 typ ++ natLE 1 cmd ++ (f s).2) := by
  simp [State.pldm, h]

theorem State.exchange_answered (h : s.answers p (.pldm 5) = true) (f : State → State) : s.exchange p f = f s := by
  simp [State.exchange, h]

theorem exchange_next (h : s.answers p (.pldm 5) = true) (f : State → State) : nextS s (fun s => s.exchange p f) = .next (s.went (f s)) := by
  rw [nextS_eq, State.exchange_answered h]
  rfl

theorem pldm_next {typ : Nat} (h : s.answers p (.pldm typ) = true) (inst cmd : Nat) (f : State → State × List Byte) :
    nextS s (fun s => s.pldm p inst typ cmd f) =
      .next (s.went ((f s).1.respond p 1 (natLE 1 inst ++ natLE 1 typ ++ natLE 1 cmd ++ (f s).2))) := by
  rw [nextS_eq, State.pldm_answered h]
  rfl

/-- A field that no answer changes. -/
theorem Sec.field_of_unanswered {α : Type} (g : Sec → α) (hg : ∀ x, g x.unanswered = g x) {x y : Sec} (h : x.unanswered = y.unanswered) : g x = g y := by
  rw [← hg x, h, hg y]

theorem State.componentUpdate_unanswered (hp : outward p) (h : s.answers p (.pldm 5) = true) (hstage : s.sec.upStage = 2) (size : Nat) :
    (s.pldm p 0 5 0x14 (componentUpdate 0 size)).sec.unanswered =
      Sec.unanswered { s.sec with upSize := size, upData := [], upOk := false, upPrev := s.sec.upStage, upStage := 3 } := by
  rw [State.pldm_answered h, State.respond_unanswered hp, componentUpdate, if_neg (not_not_intro hstage), if_neg (by simp)]
  rfl

theorem State.exchange_askData_unanswered (hp : outward p) (s : State) : (s.exchange p fun t => t.askData p).sec.unanswered = s.sec.unanswered := by
  unfold State.exchange
  split
  · exact State.askData_unanswered hp _
  · rfl

theorem State.takeData_unanswered (hp : outward p) (hstage : s.sec.upStage = 3) (data : List Byte) :
    (s.takeData p data).sec.unanswered =
      Sec.unanswered { s.sec with upData := s.sec.upData ++ sub data 0 (min s.sec.upMax (s.sec.upSize - s.sec.upData.length)) } := by
  rw [State.takeData, if_neg (by simpa using hstage)]
  exact State.askData_unanswered hp _

theorem State.transferred_unanswered (hp : outward p) (hstage : s.sec.upStage = 3) (hlen : s.sec.upData.length = s.sec.upSize) :
    (s.transferred p).sec.unanswered = (s.stage 4).sec.unanswered := by
  rw [State.transferred, if_pos ⟨hstage, hlen⟩]
  exact State.pldmAsk_unanswered hp _ _ _

theorem State.verified_unanswered (hp : outward p) (hstage : s.sec.upStage = 4) :
    (s.verified p).sec.unanswered = (if s.sec.imageOk s.sec.upData then s.stage 5 else s).sec.unanswered := by
  rw [State.verified, if_neg (by simpa using hstage)]
  split
  · exact State.pldmAsk_unanswered hp _ _ _
  · exact State.pldmAsk_unanswered hp _ _ _

theorem State.stage_sec (s : State) (n : Nat) : (s.stage n).sec = { s.sec with upPrev := s.sec.upStage, upStage := n } := rfl

theorem Sec.writeOther_upStage (x : Sec) (f : Firmware) : (x.writeOther f).upStage = x.upStage := by
  unfold Sec.writeOther
  split <;> rfl

theorem State.applied_unanswered (hp : outward p) (hstage : s.sec.upStage = 5) :
    (s.applied p).sec.unanswered =
      Sec.unanswered { s.sec.writeOther (firmwareOf s.sec.upData) with upOk := true, upPrev := s.sec.upStage, upStage := 2 } := by
  rw [State.applied, if_neg (by simpa using hstage)]
  refine (State.pldmAsk_unanswered hp _ _ _).trans ?_
  rw [State.stage_sec, Sec.writeOther_upStage]

theorem Sec.writeOther_copyA (x : Sec) (f : Firmware) : (x.writeOther f).copyA = if x.runningB then f else x.copyA := by
  unfold Sec.writeOther
  split <;> rfl

theorem Sec.writeOther_copyB (x : Sec) (f : Firmware) : (x.writeOther f).copyB = if x.runningB then x.copyB else f := by
  unfold Sec.writeOther
  split <;> rfl

theorem activate_unanswered (hp : outward p) (hstage : s.sec.upStage = 2) (hok : s.sec.upOk = true) (hrec : s.sec.recovery = false) (msg : List Byte) :
    ((activate false s).1.respond p 1 msg).sec.unanswered =
      Sec.unanswered { s.sec with
        activeB := !s.sec.runningB, updatePending := true, upPrev := 6, upStage := 0, upSize := 0, upData := [], upOk := false } := by
  rw [State.respond_unanswered hp, activate, if_neg (by simpa using hstage)]
  simp only [hok, hrec, Bool.not_true, Bool.false_eq_true, if_false]
  rfl

end Sys2Proof.Machine

open Sys2Proof Sys2Proof.Machine

/-- Settles O36: each request meets the stage that it asks for. -/
theorem firmwareRequests : Obligations.FirmwareRequests := by
  refine fun s p h => ⟨pldm_next h 0 1 deviceIds, pldm_next h 0 2 firmwareParams, fun n hstage hn => ?_, fun flag hstage hflag => ?_,
    pldm_next h 0 0x1B updateStatus, fun hlow hhigh => ?_, fun hstage => ?_⟩
  · refine (pldm_next h 0 0x10 (updateRequest n 1)).trans ?_
    rw [updateRequest, if_neg (by simpa using hstage), if_neg (by omega)]
  · refine (pldm_next h 0 0x13 (passTable 0 flag)).trans ?_
    rw [passTable, if_neg (by simpa using hstage)]
    simp only [hflag, if_true]
  · refine (pldm_next h 0 0x1C cancelComponent).trans ?_
    rw [cancelComponent, if_pos ⟨hlow, hhigh⟩]
  · refine (pldm_next h 0 0x1D cancelAll).trans ?_
    rw [cancelAll, if_neg hstage]

/-- Settles O37: each exchange meets its stage, and the answers leave what the update has gathered. -/
theorem firmwareTransfer : Obligations.FirmwareTransfer := by
  intro s p hp h
  refine ⟨fun size hstage => ?_, fun data hstage => ?_, fun hstage hlen => ?_, fun hstage => ?_, fun hstage => ?_, fun hstage hok hrec => ?_⟩
  · have hsec := (State.exchange_askData_unanswered hp _).trans (State.componentUpdate_unanswered hp h hstage size)
    change ∃ t, execUpdateComponent p 0 size s = _ ∧ _
    simp only [execUpdateComponent, nextS_eq, if_pos hstage]
    exact ⟨_, rfl, Sec.field_of_unanswered (·.upStage) (fun _ => rfl) hsec, Sec.field_of_unanswered (·.upSize) (fun _ => rfl) hsec,
      Sec.field_of_unanswered (·.upData) (fun _ => rfl) hsec, (Sec.field_of_unanswered (·.upPrev) (fun _ => rfl) hsec).trans hstage⟩
  · have hsec := State.takeData_unanswered hp hstage data
    exact ⟨_, exchange_next h _, (Sec.field_of_unanswered (·.upStage) (fun _ => rfl) hsec).trans hstage,
      Sec.field_of_unanswered (·.upData) (fun _ => rfl) hsec⟩
  · have hsec := State.transferred_unanswered hp hstage hlen
    exact ⟨_, exchange_next h _, (Sec.field_of_unanswered (·.upStage) (fun _ => rfl) hsec).trans rfl,
      (Sec.field_of_unanswered (·.upData) (fun _ => rfl) hsec).trans rfl⟩
  · have hsec := State.verified_unanswered hp hstage
    refine ⟨_, exchange_next h _, (Sec.field_of_unanswered (·.upStage) (fun _ => rfl) hsec).trans ?_,
      (Sec.field_of_unanswered (·.upData) (fun _ => rfl) hsec).trans ?_⟩
    · split
      · rfl
      · exact hstage
    · split <;> rfl
  · have hsec := State.applied_unanswered hp hstage
    exact ⟨_, exchange_next h _, Sec.field_of_unanswered (·.upStage) (fun _ => rfl) hsec, Sec.field_of_unanswered (·.upOk) (fun _ => rfl) hsec,
      (Sec.field_of_unanswered (·.copyA) (fun _ => rfl) hsec).trans (Sec.writeOther_copyA _ _),
      (Sec.field_of_unanswered (·.copyB) (fun _ => rfl) hsec).trans (Sec.writeOther_copyB _ _)⟩
  · have hsec := activate_unanswered hp hstage hok hrec (natLE 1 0 ++ natLE 1 5 ++ natLE 1 0x1A ++ (activate false s).2)
    change ∃ t, execActivateFirmware p false s = _ ∧ _
    simp only [execActivateFirmware, pldm_next h]
    exact ⟨_, rfl, (Sec.field_of_unanswered (·.upStage) (fun _ => rfl) hsec).trans rfl,
      (Sec.field_of_unanswered (·.activeB) (fun _ => rfl) hsec).trans rfl, (Sec.field_of_unanswered (·.updatePending) (fun _ => rfl) hsec).trans rfl,
      (Sec.field_of_unanswered (·.copyA) (fun _ => rfl) hsec).trans rfl, (Sec.field_of_unanswered (·.copyB) (fun _ => rfl) hsec).trans rfl,
      (Sec.field_of_unanswered (·.runningB) (fun _ => rfl) hsec).trans rfl⟩
end

section
/-! SUPPORT. The answers of the management core over MCTP control, PLDM base and monitoring, and the vendor commands (R478, R480, R481, R493,
R499, R500): a request that its path carries is answered with what the operation of its command gives. -/
namespace Sys2Proof.Machine
open Sys2Proof

variable {s t : State} {p : Path} {msg : List Byte}

theorem nextS_of_eq (f : State → State) (h : f s = t) : nextS s f = .next (s.went t) := by
  rw [nextS_eq, h]
  rfl

variable {f : State → State × List Byte}

theorem control_reply (h : s.answers p .control = true) {cmd : Nat} (hf : f s = (t, msg)) :
    nextS s (fun s => s.control p 0 cmd f) = .next (s.went (t.respond p 0 (natLE 1 0 ++ natLE 1 cmd ++ msg))) := by
  rw [nextS_eq, State.control, if_pos h, hf]
  rfl

theorem pldm_reply {typ : Nat} (h : s.answers p (.pldm typ) = true) {cmd : Nat} (hf : f s = (t, msg)) :
    nextS s (fun s => s.pldm p 0 typ cmd f) = .next (s.went (t.respond p 1 (natLE 1 0 ++ natLE 1 typ ++ natLE 1 cmd ++ msg))) := by
  rw [pldm_next h, hf]

theorem vendor_reply (h : s.answers p .vendor = true) {code : Nat} (hf : f s = (t, msg)) :
    nextS s (fun s => s.vendor p code f) = .next (s.went (t.respond p 0x7F (natLE 4 enterprise ++ natLE 1 code ++ msg))) := by
  rw [nextS_eq, State.vendor, if_pos h, hf]
  rfl

theorem setEid_of_assignable {op eid : Nat} (hop : op < 2) (hlow : 1 ≤ eid) (hhigh : eid ≤ 254) :
    setEid p op eid s = ({ s with sec := { s.sec with eids := tset s.sec.eids (pathIndex p) eid } }, zeros 2 ++ natLE 1 eid ++ zeros 1) :=
  if_neg (by omega)

theorem tidSet_of_assignable {tid : Nat} (hlow : 1 ≤ tid) (hhigh : tid ≤ 254) : tidSet tid s = ({ s with sec := { s.sec with tid := tid } }, zeros 1) :=
  if_neg (by omega)

theorem pdrGet_of_record {h : Nat} (hlow : 1 ≤ h) (hhigh : h ≤ 47) :
    pdrGet h s = (s, zeros 1 ++ natLE 4 (if h = 47 then 0 else h + 1) ++ zeros 4 ++ natLE 1 5 ++ natLE 2 (Config.pdr h).length ++ Config.pdr h) := by
  have hzero : ¬ h = 0 := by omega
  have hcount : ¬ pdrCount < h := by simpa [pdrCount] using hhigh
  simp only [pdrGet, if_neg hzero, if_neg hcount]
  rfl

theorem sensorGet_of_sensor {n : Nat} (hlow : 1 ≤ n) (hhigh : n ≤ 36) :
    sensorGet n s = ({ s with d := s.d.drawFree.2 }, (sensorGet n s).2) ∧ (sensorGet n s).2.drop 7 = natLE 2 (s.sec.readings.getD (n - 1) 0) := by
  have hsensor : ¬ (n = 0 ∨ 36 < n) := by omega
  simp only [sensorGet, if_neg hsensor]
  exact ⟨trivial, rfl⟩

theorem stateSensorGet_of_sensor {n v : Nat} (hv : s.stateSensor n = some v) :
    stateSensorGet n s = ({ s with d := s.d.drawFree.2 },
      zeros 1 ++ natLE 1 1 ++ zeros 1 ++ natLE 1 v ++ natLE 1 (Config.previousState n s.d.free) ++ natLE 1 v) := by
  simp only [stateSensorGet, hv]
  rfl

theorem effecterRange_ne_zero {n : Nat} (hlow : 1 ≤ n) (hhigh : n ≤ 8) : effecterRange n ≠ 0 := by
  interval_cases n <;> simp [effecterRange]

theorem effecterSet_of_inRange {n v : Nat} (hv : v < effecterRange n) : effecterSet n v s = (s.setEffecter n v, zeros 1) := by
  rw [effecterSet, if_neg (by omega), if_neg (by omega)]

theorem effecterGet_of_effecter {n : Nat} (hlow : 1 ≤ n) (hhigh : n ≤ 8) :
    effecterGet n s = (s, zeros 1 ++ natLE 1 2 ++ natLE 1 1 ++ natLE 2 (s.getEffecter n) ++ natLE 2 (s.getEffecter n)) :=
  if_neg (effecterRange_ne_zero hlow hhigh)

theorem State.peerAttest_of_joined {body : List Byte} (h : s.answers p .vendor = true) (hbody : byteAt body 3 = 0xE0)
    (hjoined : (s.d.peer (field body 0 2)).state = 3) :
    s.peerAttest p body = { s with
      sec := { s.sec with attestWait := s.sec.attestWait ++ [(field body 0 2, p)] }
      d := s.d.send (field body 0 2) 6 0xA0 0 (natLE 1 5) (clean (body.drop 2)) } := by
  simp only [State.peerAttest, h, hbody, hjoined, Bool.not_true, Bool.false_eq_true, if_false, ne_eq, not_true_eq_false]

end Sys2Proof.Machine

open Sys2Proof Sys2Proof.Machine

/-- Settles O34: each command has its operation, and its path carries the answer. -/
theorem controlAndBaseAnswers : Obligations.ControlAndBaseAnswers :=
  ⟨fun _ _ h => ⟨fun _ _ hop hlow hhigh => control_reply h (setEid_of_assignable hop hlow hhigh), control_reply h rfl, control_reply h rfl,
      fun _ htyp => control_reply h (if_pos htyp), control_reply h rfl⟩,
    fun _ _ h => ⟨fun _ hlow hhigh => pldm_reply h (tidSet_of_assignable hlow hhigh), pldm_reply h rfl, fun _ htyp => pldm_reply h (if_pos htyp),
      pldm_reply h rfl, fun _ htyp => pldm_reply h (if_pos htyp)⟩⟩

/-- Settles O35: the requests answer what the sensors and the effecters hold, and the settings are those of the power path and the root. -/
theorem pldmMonitoringAnswers : Obligations.PldmMonitoringAnswers :=
  ⟨fun _ _ h => ⟨pldm_reply h rfl, fun _ hlow hhigh => pldm_reply h (pdrGet_of_record hlow hhigh),
      fun _ hlow hhigh => ⟨pldm_reply h (sensorGet_of_sensor hlow hhigh).1, (sensorGet_of_sensor hlow hhigh).2⟩,
      fun _ _ hv => pldm_reply h (stateSensorGet_of_sensor hv), fun _ _ hv => pldm_reply h (effecterSet_of_inRange hv),
      fun _ hlow hhigh => pldm_reply h (effecterGet_of_effecter hlow hhigh), fun _ => pldm_reply h rfl⟩,
    fun _ _ => ⟨rfl, rfl, rfl, rfl, rfl, rfl, rfl, rfl, rfl, rfl⟩⟩

/-- Settles O38: each vendor command has its operation, whose status decides what a record or a token changes. -/
theorem vendorCommands : Obligations.VendorCommands := by
  intro s p h
  refine ⟨fun b => ?_, vendor_reply h rfl, fun b => ?_, vendor_reply h rfl,
    fun hreached => nextS_of_eq (·.barWrite 0x1010004 .good false State.relock) (State.barWrite_reached hreached _ _),
    fun body hbody hjoined => nextS_of_eq (·.peerAttest p body) (State.peerAttest_of_joined h hbody hjoined), vendor_reply h rfl⟩
  · split
    case isTrue hst => exact vendor_reply h (if_pos hst)
    case isFalse hst => exact vendor_reply h (if_neg hst)
  · split
    case isTrue hst => exact vendor_reply h (if_pos hst)
    case isFalse hst => exact vendor_reply h (if_neg hst)
end

section
/-! SUPPORT. The SPDM responder (R494 to R497): a request that its path carries is answered with what its operation gives, and the connection of
the path is the one that the operation leaves. -/
namespace Sys2Proof.Machine
open Sys2Proof

variable {s : State} {p : Path}

theorem spdm_next (h : s.answers p .spdm = true) (sealed : Bool) (f : State → State × List Byte) :
    nextS s (fun s => s.spdm p sealed f) = .next (s.went ((f s).1.spdmSend p sealed (s.conn p) (f s).2)) := by
  rw [nextS_eq, State.spdm, if_pos h]
  rfl

theorem spdm_next_sealed (h : s.answers p .spdm = true) {sealed : State → Bool} (hs : sealed s = true) (f : State → State × List Byte) :
    nextS s (fun s => s.spdm p (sealed s) f) = .next (s.went ((f s).1.spdmSend p true (s.conn p) (f s).2)) := by
  rw [nextS_eq, State.spdm, if_pos h, hs]
  rfl

theorem State.conn_path (s : State) (p : Path) : (s.conn p).path = p := by
  unfold State.conn
  cases hfind : s.sec.spdm.find? fun c => c.path == p with
  | none => rfl
  | some c => exact beq_iff_eq.mp (List.find?_some (p := fun c : Spdm => c.path == p) hfind)

theorem State.conn_setConn (s : State) {c : Spdm} (hc : c.path = p) : (s.setConn c).conn p = c := by
  simp [State.conn, State.setConn, hc]

/-! ### The bytes of a response -/

theorem byteAt_rsp_code (code p1 p2 : Nat) (xs : List Byte) : byteAt (rsp code p1 p2 ++ xs) 1 = code % 256 := by
  simp [byteAt, rsp, natLE]

theorem byteAt_rsp_first (code p1 p2 n : Nat) (xs : List Byte) : byteAt (rsp code p1 p2 ++ (natLE 1 n ++ xs)) 4 = n % 256 := by
  simp [byteAt, rsp, natLE]

/-! ### Requests that their connection takes -/

theorem spdmCapabilities_of_asked {req : List Byte} (hstage : (s.conn p).stage = 1) (hsize : 42 ≤ field req 12 4) :
    (spdmCapabilities p req s).2 = rsp 0x61 0 0 ++ zeros 1 ++ natLE 1 15 ++ zeros 2 ++ natLE 4 capabilities ++ natLE 4 4096 ++ natLE 4 65536 := by
  have hsmall : ¬ field req 12 4 < 42 := by omega
  simp only [spdmCapabilities, if_neg (not_not_intro hstage), if_neg hsmall]

theorem spdmAlgorithms_of_offered {req : List Byte} (hstage : (s.conn p).stage = 2) (hoffer : offers req 32 (byteAt req 28) 1 = true) :
    byteAt (spdmAlgorithms p req s).2 1 = 0x63 ∧ ((spdmAlgorithms p req s).1.conn p).stage = 3 := by
  simp only [spdmAlgorithms, if_neg (not_not_intro hstage), hoffer, Bool.not_true, Bool.false_and, Bool.false_eq_true, if_false]
  refine ⟨?_, ?_⟩
  · simp only [List.append_assoc, byteAt_rsp_code]
  · simp only [State.conn_setConn, State.conn_path]

theorem spdmDigests_of_negotiated (hstage : (s.conn p).stage = 3) : (spdmDigests p s).2 = rsp 1 1 1 ++ shake256 s.chain 64 := by
  simp only [spdmDigests, if_neg (not_not_intro hstage)]

theorem spdmCertificate_of_negotiated (off n : Nat) (hstage : (s.conn p).stage = 3) :
    if off < s.chain.length then byteAt (spdmCertificate p 0 off n s).2 1 = 2 ∧
      (spdmCertificate p 0 off n s).2.drop 8 = (s.chain.drop off).take (min n (s.chain.length - off))
    else (spdmCertificate p 0 off n s).2 = errInvalid := by
  simp only [spdmCertificate, if_neg (not_not_intro hstage), ne_eq, not_true_eq_false, false_or]
  split
  case isTrue hoff =>
    rw [if_neg (by omega)]
    exact ⟨by simp only [List.append_assoc, byteAt_rsp_code], rfl⟩
  case isFalse hoff => rw [if_pos (by omega)]

theorem spdmChallenge_of_negotiated {req : List Byte} (hstage : (s.conn p).stage = 3) (hslot : byteAt req 2 = 0) (hsum : byteAt req 3 = 0)
    (hlen : 44 ≤ req.length) (hattest : s.sec.attest = true) : byteAt (spdmChallenge p req s).2 1 = 3 := by
  have hshort : ¬ (byteAt req 2 ≠ 0 ∨ req.length < 44) := by omega
  simp only [spdmChallenge, if_neg (not_not_intro hstage), hsum, State.summary, if_neg hshort, hattest, Bool.not_true, Bool.false_eq_true, if_false]
  simp only [List.append_assoc, byteAt_rsp_code]

theorem spdmMeasurements_of_all {req : List Byte} (hstage : (s.conn p).stage = 3) (hsigned : byteAt req 2 = 0) (hall : byteAt req 3 = 0xFF)
    (hlen : 12 ≤ req.length) : byteAt (spdmMeasurements p req s).2 1 = 0x60 ∧ byteAt (spdmMeasurements p req s).2 4 = 8 := by
  have hplain : bitAt 0 0 = false := rfl
  have hshort : ¬ req.length < 12 := by omega
  simp [spdmMeasurements, hstage, hsigned, hall, hplain, hshort, measureIndexes, byteAt_rsp_code, byteAt_rsp_first]

theorem spdmKeyExchange_of_negotiated {req : List Byte} (hstage : (s.conn p).stage = 3) (hkey : (s.conn p).keyExchange = true)
    (hsession : (s.conn p).session = 0) (hsum : byteAt req 2 = 0) (hslot : byteAt req 3 = 0) (hlen : 138 ≤ req.length) (hattest : s.sec.attest = true) :
    byteAt (spdmKeyExchange p req s).2 1 = 0x64 ∧ ((spdmKeyExchange p req s).1.conn p).session = 1 := by
  have hshort : ¬ (byteAt req 3 ≠ 0 ∨ req.length < 138) := by omega
  have hready : ¬ ((decide ((s.conn p).stage ≠ 3) || !(s.conn p).keyExchange) = true) := by simp [hstage, hkey]
  simp only [spdmKeyExchange, if_neg hready, if_neg (not_not_intro hsession), hsum, State.summary, if_neg hshort, hattest, Bool.not_true,
    Bool.false_eq_true, if_false]
  refine ⟨?_, ?_⟩
  · simp only [List.append_assoc, byteAt_rsp_code]
  · simp only [State.conn_setConn, State.conn_path]

theorem spdmFinish_of_exchanged {req : List Byte} (hsession : (s.conn p).session = 1) (hmutual : bitAt (byteAt req 2) 0 = false) :
    if (req.drop 4).take 64 = verifyData (s.conn p).secret (s.conn p).peerKey false (exchangeHash (s.conn p).keys)
        (shake256 ((s.conn p).keys ++ req.take 4) 64)
    then (spdmFinish p req s).2 = rsp 0x65 0 0 ∧ ((spdmFinish p req s).1.conn p).session = 2
    else (spdmFinish p req s).2 = errDecrypt ∧ ((spdmFinish p req s).1.conn p).session = 0 := by
  simp only [spdmFinish, if_neg (not_not_intro hsession), hmutual, Bool.false_eq_true, if_false, ne_eq, ite_not]
  split <;> simp only [State.conn_setConn, State.conn_path, true_and]

theorem State.sealedBy_of_finished {sid : Nat} (hsession : (s.conn p).session = 2) (hsid : (s.conn p).sessionId = sid) : s.sealedBy p sid = true := by
  simp [State.sealedBy, hsession, hsid]

theorem inSession_of_finished {sid : Nat} (f : Spdm → State → State × List Byte) (hsession : (s.conn p).session = 2) (hsid : (s.conn p).sessionId = sid) :
    inSession p sid f s = f (s.conn p) s := if_pos ⟨hsession, hsid⟩

theorem spdm_next_finished (h : s.answers p .spdm = true) {sid : Nat} (f : Spdm → State → State × List Byte) (hsession : (s.conn p).session = 2)
    (hsid : (s.conn p).sessionId = sid) :
    nextS s (fun s => s.spdm p (s.sealedBy p sid) (inSession p sid f)) =
      .next (s.went ((f (s.conn p) s).1.spdmSend p true (s.conn p) (f (s.conn p) s).2)) := by
  rw [spdm_next_sealed h (sealed := (·.sealedBy p sid)) (State.sealedBy_of_finished hsession hsid), inSession_of_finished f hsession hsid]

theorem spdmVendor_of_ideKm {sid : Nat} {req : List Byte} (hpath : p = .doe) (hreg : field req 4 2 = 3) (hlen : byteAt req 6 = 2) (hvendor : field req 7 2 = 1)
    (hproto : byteAt req 11 = 0) (hsession : (s.conn p).session = 2) (hsid : (s.conn p).sessionId = sid) :
    spdmVendor p sid req s = ideObject (req.drop 12) s := by
  rw [spdmVendor, if_neg (by simp [hpath, hreg, hlen, hvendor, hproto]), inSession_of_finished _ hsession hsid]

/-! ### Chunks -/

theorem spdmChunkSend_of_first {req : List Byte} (hseq : field req 4 2 = 0) (hmore : bitAt (byteAt req 2) 0 = false) (hlow : 1 ≤ field req 12 4)
    (hhigh : field req 12 4 ≤ 65536) (hfits : ((req.drop 16).take (field req 8 4)).length ≤ field req 12 4) :
    ((spdmChunkSend p req s).1.conn p).chunkIn = (req.drop 16).take (field req 8 4) := by
  have hbig : decide (65536 < field req 12 4) = false := by simpa using hhigh
  have hzero : (field req 12 4 == 0) = false := by simp; omega
  have hover : decide (field req 12 4 < ((req.drop 16).take (field req 8 4)).length) = false := decide_eq_false (Nat.not_lt.mpr hfits)
  simp only [spdmChunkSend, hseq, hmore, if_true, List.nil_append, hbig, hzero, hover, beq_self_eq_true, Bool.true_or, Bool.not_true, Bool.or_self,
    Bool.false_and, Bool.false_eq_true, if_false, Bool.not_false, State.conn_setConn, State.conn_path]

/-- A chunk in order, with the bytes `got` that the request then has, is kept, and the last one is answered with the answer of the whole. -/
theorem spdmChunkSend_of_next {req got : List Byte} (hgot : got = (s.conn p).chunkIn ++ (req.drop 12).take (field req 8 4)) (hlow : 1 ≤ (s.conn p).chunkInSize)
    (hhigh : (s.conn p).chunkInSize ≤ 65536) (hhandle : byteAt req 3 = (s.conn p).chunkInHandle) (hseq : field req 4 2 = (s.conn p).chunkInSeq + 1)
    (hfits : got.length ≤ (s.conn p).chunkInSize) (hlast : bitAt (byteAt req 2) 0 = true → got.length = (s.conn p).chunkInSize) :
    spdmChunkSend p req s =
      if bitAt (byteAt req 2) 0 = true then
        let t := spdmRequest p got (s.dropChunks p)
        let w := t.1.fit p ((s.conn p).limit - 6) t.2
        (w.1, rsp 5 0 (byteAt req 3) ++ natLE 2 (field req 4 2) ++ w.2)
      else
        (s.setConn { s.conn p with chunkIn := got, chunkInHandle := byteAt req 3, chunkInSeq := field req 4 2, chunkInSize := (s.conn p).chunkInSize },
          rsp 5 0 (byteAt req 3) ++ natLE 2 (field req 4 2)) := by
  have hq : ¬ field req 4 2 = 0 := by omega
  have hq' : (field req 4 2 == 0) = false := by simpa using hq
  have horder : ((s.conn p).chunkInSize != 0 && byteAt req 3 == (s.conn p).chunkInHandle && field req 4 2 == (s.conn p).chunkInSeq + 1) = true := by
    simp [hhandle, hseq]; omega
  have hbig : decide (65536 < (s.conn p).chunkInSize) = false := by simpa using hhigh
  have hzero : ((s.conn p).chunkInSize == 0) = false := by simp; omega
  have hover : decide ((s.conn p).chunkInSize < got.length) = false := by simpa using hfits
  have hwhole : (bitAt (byteAt req 2) 0 && got.length != (s.conn p).chunkInSize) = false := by
    cases hbit : bitAt (byteAt req 2) 0 with
    | false => rfl
    | true => simp [hlast hbit]
  simp only [spdmChunkSend, if_neg hq, ← hgot, hq', horder, hbig, hzero, hover, hwhole, Bool.false_or, Bool.not_true, Bool.or_self, Bool.false_eq_true,
    if_false, List.append_nil]
  cases bitAt (byteAt req 2) 0 <;> rfl

theorem spdmChunkGet_of_waiting {h q : Nat} (hout : (s.conn p).chunkOut ≠ []) (hhandle : h = (s.conn p).chunkOutHandle) (hseq : q = (s.conn p).chunkOutSeq) :
    byteAt (spdmChunkGet p h q s).2 1 = 6 ∧ ((spdmChunkGet p h q s).1.conn p).chunkOutSeq = q + 1 := by
  have hready : ¬ ((s.conn p).chunkOut.isEmpty = true ∨ h ≠ (s.conn p).chunkOutHandle ∨ q ≠ (s.conn p).chunkOutSeq) := by
    simp [hout, hhandle, hseq]
  simp only [spdmChunkGet, if_neg hready]
  refine ⟨?_, ?_⟩
  · simp only [List.append_assoc, byteAt_rsp_code]
  · simp only [State.conn_setConn, State.conn_path]

end Sys2Proof.Machine

open Sys2Proof Sys2Proof.Machine

/-- Settles O39: each request of the connection's stage is answered, and the next stage follows. -/
theorem spdmConnection : Obligations.SpdmConnection := by
  intro s p h
  refine ⟨fun r hr => ?_, fun req r hr hstage hsize => ?_, fun req r hr hstage hoffer => ?_, fun r hr hstage => ?_, fun off n r hr hstage => ?_,
    fun req r hr hstage hslot hsum hlen hattest => ?_, fun req r hr hstage hsigned hall hlen => ?_⟩ <;> subst hr
  · exact ⟨spdm_next h _ _, rfl⟩
  · refine ⟨spdm_next h _ _, ?_⟩
    rw [spdmCapabilities_of_asked hstage hsize]
    exact ⟨rfl, rfl, rfl⟩
  · exact ⟨spdm_next h _ _, spdmAlgorithms_of_offered hstage hoffer⟩
  · exact ⟨spdm_next h _ _, spdmDigests_of_negotiated hstage⟩
  · exact ⟨spdm_next h _ _, spdmCertificate_of_negotiated off n hstage⟩
  · exact ⟨spdm_next h _ _, spdmChallenge_of_negotiated hstage hslot hsum hlen hattest⟩
  · exact ⟨spdm_next h _ _, spdmMeasurements_of_all hstage hsigned hall hlen⟩

/-- Settles O40: the requests of a session are answered under its keys, and the chunks of a request gather it. -/
theorem spdmSession : Obligations.SpdmSession := by
  refine ⟨fun s p h => ⟨fun req r hr hstage hkey hsession hsum hslot hlen hattest => ?_, fun req r hr hsession hmutual => ?_,
      fun sid hsession hsid => ⟨spdm_next_finished h _ hsession hsid, spdm_next_finished h _ hsession hsid, spdm_next_finished h _ hsession hsid,
        fun req r hpath hreg hlen hvendor hproto hr => ?_⟩⟩,
    fun s p h => ⟨fun req r hr hseq hmore hlow hhigh hfits => ?_, fun req r got hr hgot hlow hhigh hhandle hseq hfits hlast => ?_,
      fun hd q r hr hout hhandle hseq => ?_, fun _ _ => spdm_next h _ _⟩⟩
  · subst hr
    exact ⟨spdm_next h _ _, spdmKeyExchange_of_negotiated hstage hkey hsession hsum hslot hlen hattest⟩
  · subst hr
    exact ⟨spdm_next_sealed h (sealed := fun s => (s.conn p).session == 1) (by simp [hsession]) _, spdmFinish_of_exchanged hsession hmutual⟩
  · rw [hr, ← spdmVendor_of_ideKm hpath hreg hlen hvendor hproto hsession hsid]
    exact spdm_next_sealed h (sealed := (·.sealedBy p sid)) (State.sealedBy_of_finished hsession hsid) _
  · subst hr
    exact ⟨spdm_next h _ _, spdmChunkSend_of_first hseq hmore hlow hhigh hfits⟩
  · subst hr
    refine ⟨spdm_next h _ _, ?_⟩
    rw [spdmChunkSend_of_next hgot hlow hhigh hhandle hseq hfits hlast]
    split
    · exact ⟨_, _, rfl, rfl, rfl⟩
    · simp only [State.conn_setConn, State.conn_path, true_and]
  · subst hr
    exact ⟨spdm_next h _ _, spdmChunkGet_of_waiting hout hhandle hseq⟩
end

section
/-! SUPPORT. What the operations of the planes leave of memory and of the peers: memory stays in its canonical form, and no peer but one that joins
becomes JOINED. One rule for each operation, in the order of the model. -/
namespace Sys2Proof.Machine
open Sys2Proof

/-- What every operation of the planes but the joining of a peer does: memory stays canonical, and no peer becomes JOINED. -/
structure Dev.Leads (d₀ d : Dev) : Prop where
  canonical : d₀.mem.canonical = true → d.mem.canonical = true
  unjoined : ∀ a, (d₀.peer a).state ≠ 3 → (d.peer a).state ≠ 3

theorem Dev.peer_setPeer (d : Dev) (a b : Nat) (f : Peer → Peer) : (d.setPeer a f).peer b = if a = b then f (d.peer b) else d.peer b := by
  simp only [Dev.peer, Dev.setPeer, tget_tmod]
  split
  case isTrue h => rw [h]
  case isFalse => rfl

theorem dropClean_state (t : Option Txn) (a : Nat) (p : Peer) : (dropClean t a p).state = p.state := by
  unfold dropClean
  split
  · split <;> rfl
  · rfl

theorem Mem.fillSram_canonical {m : Mem} (h : m.canonical = true) : m.fillSram.canonical = true :=
  Mem.filter_canonical h fun k => decide (k < stackEnd)

/-- The module that a plan leaves: the module itself where the plan waits. -/
def Plan.left {α : Type} (w : α → Dev) (d : Dev) : Plan α → Dev
  | .waits => d
  | .refuses d _ => d
  | .goes a => w a

namespace Dev.Leads
variable {d₀ d e : Dev}

theorem refl (d : Dev) : d.Leads d := ⟨id, fun _ => id⟩

theorem of_eq (h : d₀.Leads d) (hmem : e.mem = d.mem) (hpeers : e.peers = d.peers) : d₀.Leads e :=
  ⟨fun hc => by rw [hmem]; exact h.canonical hc, fun a ha => by rw [Dev.peer, hpeers]; exact h.unjoined a ha⟩

/-- An operation that changes memory alone. -/
theorem of_mem (h : d₀.Leads d) (hmem : d.mem.canonical = true → e.mem.canonical = true) (hpeers : e.peers = d.peers) : d₀.Leads e :=
  ⟨fun hc => hmem (h.canonical hc), fun a ha => by rw [Dev.peer, hpeers]; exact h.unjoined a ha⟩

theorem storeMem {b : Nat} {s : Sector} (h : d₀.Leads d) (hmem : e.mem = d.mem.store b s) (hpeers : e.peers = d.peers) : d₀.Leads e :=
  h.of_mem (fun hc => by rw [hmem]; exact Mem.store_canonical hc b s) hpeers

theorem fillMem (h : d₀.Leads d) (hmem : e.mem = d.mem.fillSram) (hpeers : e.peers = d.peers) : d₀.Leads e :=
  h.of_mem (fun hc => by rw [hmem]; exact Mem.fillSram_canonical hc) hpeers

/-- A module that has lost its peers. -/
theorem of_noPeers (hmem : d₀.mem.canonical = true → e.mem.canonical = true) (hpeers : e.peers = []) : d₀.Leads e :=
  ⟨hmem, fun a _ => by rw [Dev.peer, hpeers]; change 0 ≠ 3; decide⟩

theorem ite {c : Prop} [Decidable c] (h : d₀.Leads d) (h' : d₀.Leads e) : d₀.Leads (if c then d else e) := by
  split
  · exact h
  · exact h'

theorem foldl {α : Type} {l : List α} {f : Dev → α → Dev} (h : d₀.Leads d) (hf : ∀ e x, d₀.Leads e → d₀.Leads (f e x)) : d₀.Leads (l.foldl f d) := by
  induction l generalizing d with
  | nil => exact h
  | cons x l ih => exact ih (hf d x h)

/-- A fold whose value carries the module along. -/
theorem foldlSnd {α β : Type} {l : List α} {f : β × Dev → α → β × Dev} {y : β × Dev} (h : d₀.Leads y.2)
    (hf : ∀ y x, d₀.Leads y.2 → d₀.Leads (f y x).2) : d₀.Leads (l.foldl f y).2 := by
  induction l generalizing y with
  | nil => exact h
  | cons x l ih => exact ih (hf y x h)

/-- A fold whose value carries the module along, and two more. -/
theorem foldlThird {α β γ : Type} {l : List α} {f : β × γ × Dev → α → β × γ × Dev} {y : β × γ × Dev} (h : d₀.Leads y.2.2)
    (hf : ∀ y x, d₀.Leads y.2.2 → d₀.Leads (f y x).2.2) : d₀.Leads (l.foldl f y).2.2 := by
  induction l generalizing y with
  | nil => exact h
  | cons x l ih => exact ih (hf y x h)

/-- A fold whose value carries the module along, and three more. -/
theorem foldlFourth {α β γ δ : Type} {l : List α} {f : β × γ × δ × Dev → α → β × γ × δ × Dev} {y : β × γ × δ × Dev} (h : d₀.Leads y.2.2.2)
    (hf : ∀ y x, d₀.Leads y.2.2.2 → d₀.Leads (f y x).2.2.2) : d₀.Leads (l.foldl f y).2.2.2 := by
  induction l generalizing y with
  | nil => exact h
  | cons x l ih => exact ih (hf y x h)

theorem setPeer {a : Nat} {f : Peer → Peer} (h : d₀.Leads d) (hf : ∀ p, p.state ≠ 3 → (f p).state ≠ 3) : d₀.Leads (d.setPeer a f) := by
  refine ⟨h.canonical, fun b hb => ?_⟩
  have hd := h.unjoined b hb
  rw [Dev.peer_setPeer]
  split
  · exact hf _ hd
  · exact hd

/-- A change of every peer's record. -/
theorem mapPeers {f : Nat → Peer → Peer} (h : d₀.Leads d) (hmem : e.mem = d.mem) (hpeers : e.peers = d.peers.map fun x => (x.1, f x.1 x.2))
    (hf : ∀ a p, p.state ≠ 3 → (f a p).state ≠ 3) : d₀.Leads e := by
  have hmap (t : Tab Peer) (a : Nat) (ht : (tget peer0 t a).state ≠ 3) : (tget peer0 (t.map fun x => (x.1, f x.1 x.2)) a).state ≠ 3 := by
    induction t with
    | nil => exact ht
    | cons x t ih =>
      simp only [List.map_cons, tget] at ht ⊢
      split
      case isTrue hx => exact hf _ _ (by rwa [if_pos hx] at ht)
      case isFalse hx => exact ih (by rwa [if_neg hx] at ht)
  exact ⟨fun hc => by rw [hmem]; exact h.canonical hc, fun a ha => by rw [Dev.peer, hpeers]; exact hmap _ _ (h.unjoined a ha)⟩

theorem setMdie {m : Nat} {f : MDie → MDie} (h : d₀.Leads d) : d₀.Leads (d.setMdie m f) := h.of_eq rfl rfl

theorem setTile {p : Nat} {f : Tile → Tile} (h : d₀.Leads d) : d₀.Leads (d.setTile p f) := h.of_eq rfl rfl

theorem setCtl {f : Ctl → Ctl} (h : d₀.Leads d) : d₀.Leads (d.setCtl f) := h.of_eq rfl rfl

theorem setHost {f : HostPort → HostPort} (h : d₀.Leads d) : d₀.Leads (d.setHost f) := h.of_eq rfl rfl

theorem deliver {src : Nat} (h : d₀.Leads d) : d₀.Leads (d.deliver src) := by
  unfold Dev.deliver
  extract_lets
  exact .ite h.setHost (.ite h.setHost (.ite h.setHost h.setHost))

theorem irq {src : Nat} (h : d₀.Leads d) : d₀.Leads (d.irq src) := by
  unfold Dev.irq
  exact .ite h.setHost h.deliver

theorem toHost {o : HostOut} (h : d₀.Leads d) : d₀.Leads (d.toHost o) := by
  unfold Dev.toHost
  exact .ite h (.ite h.setHost h.setHost)

theorem logEv {plane code unit : Nat} {payload : List Byte} {addr : Nat} (h : d₀.Leads d) : d₀.Leads (d.logEv plane code unit payload addr) := by
  unfold Dev.logEv
  extract_lets _ d1 d2
  have h1 : d₀.Leads d1 := h.of_eq rfl rfl
  have h2 : d₀.Leads d2 := by
    unfold d2
    split
    · exact .ite (h1.of_eq rfl rfl) h1
    · exact h1
  exact h2.irq

theorem health {n : Nat} (h : d₀.Leads d) : d₀.Leads (d.health n) := h.of_eq rfl rfl

theorem touch {b : Nat} {write : Bool} (h : d₀.Leads d) : d₀.Leads (d.touch b write) := by
  unfold Dev.touch
  split
  · extract_lets
    exact .ite h h.setMdie
  · exact h

theorem writeBackOf {m : Nat} (h : d₀.Leads d) : d₀.Leads (d.writeBackOf m) := by
  unfold Dev.writeBackOf
  exact h.setMdie

theorem writeBack (h : d₀.Leads d) : d₀.Leads d.writeBack := by
  unfold Dev.writeBack
  exact .foldl h (fun _ _ h => h.writeBackOf)

theorem countParity {b a f : Nat} (h : d₀.Leads d) : d₀.Leads (d.countParity b a f) := by
  unfold Dev.countParity
  split
  · exact h.setMdie
  · exact h

theorem countPoison {b : Nat} (h : d₀.Leads d) : d₀.Leads (d.countPoison b) := by
  unfold Dev.countPoison
  split
  · exact h.setMdie
  · exact h

theorem sramEvent {unit f a : Nat} (h : d₀.Leads d) : d₀.Leads (d.sramEvent unit f a) := by
  unfold Dev.sramEvent
  exact h.logEv.health

theorem parityEvent {a b f : Nat} {s : Sector} (h : d₀.Leads d) : d₀.Leads (d.parityEvent a b f s) := by
  unfold Dev.parityEvent
  extract_lets d1 d2
  have h1 : d₀.Leads d1 := h.storeMem rfl rfl
  have h2 : d₀.Leads d2 := h1.countParity
  exact .ite (h2.of_eq rfl rfl) h2.sramEvent

theorem dropEntry {b : Nat} (h : d₀.Leads d) : d₀.Leads (d.dropEntry b) := by
  unfold Dev.dropEntry
  split
  · exact .ite h.setMdie h
  · exact h

theorem writeFull {b : Nat} {data : List Byte} {poison : Bool} (h : d₀.Leads d) : d₀.Leads (d.writeFull b data poison) := by
  unfold Dev.writeFull
  extract_lets d1
  have h1 : d₀.Leads d1 := h.touch.dropEntry
  exact h1.storeMem rfl rfl

theorem badEntry {e : MEntry} (h : d₀.Leads d) : d₀.Leads (d.badEntry e) := by
  unfold Dev.badEntry
  extract_lets _ d1
  have h1 : d₀.Leads d1 := .ite h h.countParity.sramEvent
  exact h1.writeFull

theorem readKey {a b : Nat} (h : d₀.Leads d) : d₀.Leads (d.readKey a b).2 := by
  unfold Dev.readKey
  extract_lets
  split
  · exact h.badEntry.countPoison
  · split
    · exact h.touch
    · exact .countPoison (.touch (.ite h h.parityEvent))

theorem readSec {working : Bool} {a : Nat} (h : d₀.Leads d) : d₀.Leads (d.readSec working a).2 := by
  unfold Dev.readSec
  split
  · exact h.readKey
  · exact h

theorem readSecs {working : Bool} {n a : Nat} (h : d₀.Leads d) : d₀.Leads (d.readSecs working n a).2 := by
  induction n generalizing d a with
  | zero => exact h
  | succ n ih => exact ih h.readSec

theorem readRange {working : Bool} {a n : Nat} (h : d₀.Leads d) : d₀.Leads (d.readRange working a n).2 := by
  unfold Dev.readRange
  extract_lets r
  have hr : d₀.Leads r.2 := h.readSecs
  exact hr

theorem read {a n : Nat} (h : d₀.Leads d) : d₀.Leads (d.read a n).2 := by
  unfold Dev.read
  split
  · exact h
  · exact h.readRange

theorem mergeStore {a b : Nat} {e : MEntry} (h : d₀.Leads d) : d₀.Leads (d.mergeStore a b e) := by
  unfold Dev.mergeStore
  extract_lets _ _ d0 d1 d2
  have h0 : d₀.Leads d0 := h.touch
  have h1 : d₀.Leads d1 := .countPoison (.ite h0 h0.parityEvent)
  have h2 : d₀.Leads d2 := h1.storeMem rfl rfl
  split
  · exact h0.storeMem rfl rfl
  · split
    · exact h2.setMdie
    · exact h2

theorem flushEntry {m : Nat} {e : MEntry} (h : d₀.Leads d) : d₀.Leads (d.flushEntry m e) := by
  unfold Dev.flushEntry
  extract_lets d1
  have h1 : d₀.Leads d1 := h.setMdie
  split
  · exact h1.badEntry
  split
  · exact h1.touch.storeMem (congrArg (Mem.store · _ _) (Dev.touch_mem d1 _ _).symm) rfl
  · exact h1.mergeStore

theorem flushAll (h : d₀.Leads d) : d₀.Leads d.flushAll := by
  unfold Dev.flushAll
  exact .foldl h (fun _ _ h => .foldl h (fun _ _ h => h.flushEntry))

theorem writePart {a b o : Nat} {bs : List Byte} (h : d₀.Leads d) : d₀.Leads (d.writePart a b o bs) := by
  unfold Dev.writePart
  extract_lets
  split
  · exact h.mergeStore
  · split
    · extract_lets _ d1
      have h1 : d₀.Leads d1 := h.setMdie
      exact .ite h1.flushEntry h1
    · extract_lets d1
      have h1 : d₀.Leads d1 := by
        unfold d1
        split
        · exact .ite h.flushEntry h
        · exact h
      exact h1.setMdie

theorem writeIn {a b o : Nat} {bs : List PB} (h : d₀.Leads d) : d₀.Leads (d.writeIn a b o bs) := by
  unfold Dev.writeIn
  split
  · extract_lets
    exact h.writeFull
  · exact .ite h.writeFull h.writePart

theorem setWritten {ri off : Nat} (h : d₀.Leads d) : d₀.Leads (d.setWritten ri off) := by
  unfold Dev.setWritten
  exact .ite h h.setCtl

theorem freeRemaps {p off n uid : Nat} (h : d₀.Leads d) : d₀.Leads (d.freeRemaps p off n uid) := by
  unfold Dev.freeRemaps
  extract_lets
  exact .ite h.setTile h

theorem writeSec {m : WMode} {uid a : Nat} {bs : List PB} (h : d₀.Leads d) : d₀.Leads (d.writeSec m uid a bs).2 := by
  unfold Dev.writeSec
  extract_lets
  split
  · split
    · exact h
    · split
      · extract_lets d1
        have h1 : d₀.Leads d1 := h.writeIn
        exact .ite h1.setWritten h1
      · exact h
  · split
    · extract_lets d1
      have h1 : d₀.Leads d1 := .ite h.freeRemaps h
      exact h1.writeIn
    · exact h

theorem writeSecs {m : WMode} {uid k a : Nat} {bs : List PB} (h : d₀.Leads d) : d₀.Leads (d.writeSecs m uid k a bs).2 := by
  induction k generalizing d a bs with
  | zero => exact h
  | succ k ih =>
    unfold Dev.writeSecs
    split
    · exact h
    · exact ih h.writeSec

theorem dropEvent {src a : Nat} (h : d₀.Leads d) : d₀.Leads (d.dropEvent src a) := by
  unfold Dev.dropEvent
  extract_lets
  exact .ite h h.setCtl.logEv

theorem writeAs {m : WMode} {uid a : Nat} {bs : List PB} (h : d₀.Leads d) : d₀.Leads (d.writeAs m uid a bs) := by
  unfold Dev.writeAs
  extract_lets r
  have hr : d₀.Leads r.2 := h.writeSecs
  split
  · exact hr.dropEvent
  · exact hr

theorem write {src a : Nat} {bs : List PB} (h : d₀.Leads d) : d₀.Leads (d.write src a bs) := by
  unfold Dev.write
  exact h.writeAs

theorem setRing {r : Nat} {f : Ring → Ring} (h : d₀.Leads d) : d₀.Leads (d.setRing r f) := h.of_eq rfl rfl

theorem setPort {p : Nat} {f : Port → Port} (h : d₀.Leads d) : d₀.Leads (d.setPort p f) := h.of_eq rfl rfl

theorem setTxn {f : Txn → Txn} (h : d₀.Leads d) : d₀.Leads (d.setTxn f) := by
  unfold Dev.setTxn
  exact h.setCtl

theorem drawFree (h : d₀.Leads d) : d₀.Leads d.drawFree.2 := by
  unfold Dev.drawFree
  exact h.of_eq rfl rfl

theorem setState {st : Nat} (h : d₀.Leads d) : d₀.Leads (d.setState st) := by
  unfold Dev.setState
  split
  · exact h
  · extract_lets d1
    have h1 : d₀.Leads d1 := h.logEv.setCtl
    exact h1.irq

theorem setShard {b e : Nat} {f : Shard → Shard} (h : d₀.Leads d) : d₀.Leads (d.setShard b e f) := by
  unfold Dev.setShard
  exact h.setCtl

theorem bump {e : Nat} (h : d₀.Leads d) : d₀.Leads (d.bump e) := by
  unfold Dev.bump
  exact h.setShard

theorem pump {p : Nat} (h : d₀.Leads d) : d₀.Leads (d.pump p) := by
  unfold Dev.pump
  exact h.setPort

theorem queueFrom {p dst src : Nat} {m : Sent} (h : d₀.Leads d) : d₀.Leads (d.queueFrom p dst src m) := by
  unfold Dev.queueFrom
  exact h.setPort.pump

theorem queueOn {p dst : Nat} {m : Sent} (h : d₀.Leads d) : d₀.Leads (d.queueOn p dst m) := by
  unfold Dev.queueOn
  exact h.queueFrom

theorem send {a cls typ step : Nat} {params : List Byte} {body : List PB} {uid : Option Nat} (h : d₀.Leads d) :
    d₀.Leads (d.send a cls typ step params body uid) := by
  unfold Dev.send
  split
  · exact h
  · extract_lets q m port d1
    have h1 : d₀.Leads d1 := h.setPeer fun _ h => h
    clear_value port d1
    split
    · exact h1.queueOn
    · exact h1

theorem sendOn {port a typ : Nat} {params body : List Byte} (h : d₀.Leads d) : d₀.Leads (d.sendOn port a typ params body) := by
  unfold Dev.sendOn
  exact h.queueOn

theorem sendRoute {a typ : Nat} {params body : List Byte} (h : d₀.Leads d) : d₀.Leads (d.sendRoute a typ params body) := by
  unfold Dev.sendRoute
  split
  · exact h.sendOn
  · exact h

theorem sendLeave {cause : Nat} (h : d₀.Leads d) : d₀.Leads (d.sendLeave cause) := by
  unfold Dev.sendLeave
  exact .foldl h (fun _ _ h => h.sendRoute)

theorem sendState (h : d₀.Leads d) : d₀.Leads d.sendState := by
  unfold Dev.sendState
  exact .foldl h (fun _ _ h => h.send)

theorem haltRing {r place code : Nat} (h : d₀.Leads d) : d₀.Leads (d.haltRing r place code) := by
  unfold Dev.haltRing
  exact h.setRing.irq

theorem complete {r place : Nat} {b : List Byte} {status detail : Nat} {old : Bool}
    (h : d₀.Leads d) : d₀.Leads (d.complete r place b status detail old) := by
  unfold Dev.complete
  extract_lets _ _ _ _ d0 _ d1 d1' d2
  have h0 : d₀.Leads d0 := .ite h h.setRing
  have h1 : d₀.Leads d1 := .ite (.ite h0 h0.write) h0.toHost
  have h1' : d₀.Leads d1' := .ite h1.irq h1
  have h2 : d₀.Leads d2 := .ite h1'.irq h1'
  exact .ite h2.logEv.haltRing (.ite h2.haltRing h2)

theorem popHead {r : Nat} (h : d₀.Leads d) : d₀.Leads (d.popHead r) := by
  unfold Dev.popHead
  exact h.setRing

theorem refuseHead {r status detail : Nat} (h : d₀.Leads d) : d₀.Leads (d.refuseHead r status detail) := by
  unfold Dev.refuseHead
  split
  · exact h
  · exact h.popHead.complete

theorem setAct {uid : Nat} {f : Active → Active} (h : d₀.Leads d) : d₀.Leads (d.setAct uid f) := h.of_eq rfl rfl

theorem finish {uid status : Nat} {detail : Option Nat} (h : d₀.Leads d) : d₀.Leads (d.finish uid status detail) := by
  unfold Dev.finish
  split
  · exact h
  · exact .complete (h.of_eq rfl rfl)

theorem keep {uid addr : Nat} {bs : List PB} {ver : Nat} (h : d₀.Leads d) : d₀.Leads (d.keep uid addr bs ver) := by
  unfold Dev.keep
  exact h.setAct

theorem makeKept {a : Active} (h : d₀.Leads d) : d₀.Leads (d.makeKept a) := by
  unfold Dev.makeKept
  refine .foldl h (fun _ _ h => ?_)
  extract_lets d1
  have h1 : d₀.Leads d1 := h.writeAs
  exact .ite h1 h1.bump

theorem takeIota {colony : Nat} {setup : Bool} (h : d₀.Leads d) : d₀.Leads (d.takeIota colony setup).2 := by
  unfold Dev.takeIota
  split
  · dsimp only
    exact h.setCtl
  · dsimp only
    exact h.setCtl

theorem noteHome {r : Nat} {reads : List (Nat × Nat)} (h : d₀.Leads d) : d₀.Leads (d.noteHome r reads) := by
  unfold Dev.noteHome
  extract_lets
  split
  · exact h.logEv
  · exact h

theorem noteWork {b : List Byte} {reads writes : List (Nat × Nat)} (h : d₀.Leads d) : d₀.Leads (d.noteWork b reads writes) := by
  unfold Dev.noteWork
  exact .ite h h.setTxn

theorem noteGot {step peer addr len : Nat} (h : d₀.Leads d) : d₀.Leads (d.noteGot step peer addr len) := by
  unfold Dev.noteGot
  exact h.setTxn

theorem noteUsed {b : List Byte} {peer : Nat} (h : d₀.Leads d) : d₀.Leads (d.noteUsed b peer) := by
  unfold Dev.noteUsed
  exact .ite h h.setTxn

theorem noteMb {peer mb : Nat} (h : d₀.Leads d) : d₀.Leads (d.noteMb peer mb) := by
  unfold Dev.noteMb
  exact h.setTxn

theorem noteLeft {a : Active} {peer : Nat} (h : d₀.Leads d) : d₀.Leads (d.noteLeft a peer) := by
  unfold Dev.noteLeft
  exact .ite h h.noteMb

theorem noteServed {peer : Nat} {w : Nat × Nat} (h : d₀.Leads d) : d₀.Leads (d.noteServed peer w) := by
  unfold Dev.noteServed
  split
  · exact .foldl h (fun _ _ h => h.noteMb)
  · exact h

theorem start {r : Nat} {x : Desc} {reads writes : List (Nat × Nat)} (h : d₀.Leads d) : d₀.Leads (d.start r x reads writes).2 := by
  unfold Dev.start
  extract_lets work dh d0 i a
  have hh : d₀.Leads dh := .ite h h.noteHome
  have h0 : d₀.Leads d0 := .ite hh.noteWork hh
  have hi : d₀.Leads i.2 := by
    unfold i
    split
    · exact h0.takeIota
    · exact h0
  exact (hi.popHead (r := r)).of_eq rfl rfl

theorem consume {row unit addr : Nat} (h : d₀.Leads d) : d₀.Leads (d.consume row unit addr) := by
  unfold Dev.consume
  exact h.logEv.health

theorem abortStep {cause origin : Nat} (h : d₀.Leads d) : d₀.Leads (d.abortStep cause origin) := by
  unfold Dev.abortStep
  extract_lets uids d1 flushed d2 d3
  have h1 : d₀.Leads d1 := h.setCtl.logEv.irq
  have hflushed : d₀.Leads flushed := h1.flushAll
  clear_value flushed
  have h2 : d₀.Leads d2 := hflushed.of_eq rfl rfl
  have h3 : d₀.Leads d3 := .foldl h2 fun _ _ h => h.finish
  exact h3.mapPeers (f := dropClean d.ctl.txn) rfl rfl fun a p hp => by rwa [dropClean_state]

theorem raise {cause origin : Nat} (h : d₀.Leads d) : d₀.Leads (d.raise cause origin) := by
  unfold Dev.raise
  split
  · exact .ite h (.ite h.setCtl h.abortStep)
  · exact h

theorem enterFault (h : d₀.Leads d) : d₀.Leads d.enterFault := by
  unfold Dev.enterFault
  split
  · exact h
  · extract_lets d1
    have h1 : d₀.Leads d1 := h.raise.setState.setCtl
    exact h1.sendLeave

theorem poisonedRead {row r addr : Nat} (h : d₀.Leads d) : d₀.Leads (d.poisonedRead row r addr) := by
  unfold Dev.poisonedRead
  exact h.consume.raise

theorem rewriteTable {k : Nat} (h : d₀.Leads d) : d₀.Leads (d.rewriteTable k) := by
  unfold Dev.rewriteTable
  extract_lets _ _ _ d1
  have h1 : d₀.Leads d1 := .ite h.setCtl h
  exact h1.of_eq rfl rfl

theorem readTable {k : Nat} (h : d₀.Leads d) : d₀.Leads (d.readTable k) := by
  unfold Dev.readTable
  extract_lets f d1
  have h1 : d₀.Leads d1 := .rewriteTable (.consume (.ite h h.sramEvent))
  clear_value d1
  split
  · exact h
  · split
    · exact h1.enterFault
    · exact .raise (h1.of_eq rfl rfl)

theorem withTables {ks : List Nat} {f : Dev → Dev} (h : d₀.Leads d) (hf : d₀.Leads (f d)) : d₀.Leads (d.withTables ks f) := by
  unfold Dev.withTables
  split
  · exact h.readTable
  · exact hf

theorem issue {r k : Nat} {adopt : Bool} {f : Desc → Dev} (h : d₀.Leads d) (hf : ∀ x, d₀.Leads (f x)) : d₀.Leads (d.issue r k adopt f) := by
  unfold Dev.issue
  split
  · exact h
  · split
    · exact h
    · split
      · exact h
      · split
        · exact h
        · exact h.refuseHead
        · exact .ite h (.ite h.refuseHead (hf _))

theorem follow {α : Type} {r : Nat} {p : Plan α} {go w : α → Dev} (h : d₀.Leads (p.left w d)) (hgo : ∀ a, d₀.Leads (w a) → d₀.Leads (go a)) :
    d₀.Leads (d.follow r p go) := by
  unfold Dev.follow
  split
  · exact h
  · exact .refuseHead h
  · exact hgo _ h

theorem lifelineEnded {step : Nat} {ok : Bool} (h : d₀.Leads d) : d₀.Leads (d.lifelineEnded step ok) := by
  unfold Dev.lifelineEnded
  exact h.logEv.irq

theorem endDrain {x : Drain} {ok : Bool} (h : d₀.Leads d) : d₀.Leads (d.endDrain x ok) := by
  unfold Dev.endDrain
  extract_lets d1
  have h1 : d₀.Leads d1 := h.setCtl.lifelineEnded
  split
  · exact h1.finish
  · exact h1

theorem drainsEnd (h : d₀.Leads d) : d₀.Leads d.drainsEnd := by
  unfold Dev.drainsEnd
  exact .foldl h (fun _ _ h => h.endDrain)

theorem hostDrainEnds (h : d₀.Leads d) : d₀.Leads d.hostDrainEnds := by
  unfold Dev.hostDrainEnds
  exact .foldl h (fun _ _ h => h.endDrain)

theorem removeHead {r : Nat} (h : d₀.Leads d) : d₀.Leads (d.removeHead r) := by
  unfold Dev.removeHead
  split
  · exact h
  · split
    · exact .ite h h.refuseHead
    · extract_lets d1
      have h1 : d₀.Leads d1 := h.refuseHead
      exact .ite h1.setRing h1

theorem settleRing {k r : Nat} (h : d₀.Leads d) : d₀.Leads (Dev.settleRing k r d) := by
  induction k generalizing d with
  | zero => exact h
  | succ k ih =>
    unfold Dev.settleRing
    extract_lets x
    split
    · exact h
    · split
      · exact h
      · split
        · exact ih (.refuseHead (.ite h.poisonedRead h))
        · exact .ite (.ite h (ih h.removeHead)) (.ite (ih h.refuseHead) h)

theorem settle (h : d₀.Leads d) : d₀.Leads d.settle := by
  unfold Dev.settle
  exact .foldl h (fun _ _ h => h.settleRing)

end Dev.Leads
end Sys2Proof.Machine
end

section
/-! SUPPORT. The buckets: sums, results, re-runs, withdrawals (R195 to R212, R253 to R271, R310 to R322). -/
namespace Sys2Proof.Machine
open Sys2Proof

namespace Dev.Leads
variable {d₀ d e : Dev}

theorem logRetract {kind step peer mb cause : Nat} (h : d₀.Leads d) : d₀.Leads (d.logRetract kind step peer mb cause) := by
  unfold Dev.logRetract
  exact h.logEv

theorem setBucket {chain bucket : Nat} {f : Bucket → Bucket} (h : d₀.Leads d) : d₀.Leads (d.setBucket chain bucket f) := by
  unfold Dev.setBucket
  exact h.setCtl

theorem absent {b : Bucket} (h : d₀.Leads d) : d₀.Leads (d.absent b) := by
  unfold Dev.absent
  exact .ite h.setBucket.setCtl h

theorem readUnits {base h' q k t n : Nat} (h : d₀.Leads d) : d₀.Leads (d.readUnits base h' q k t n).2 := by
  induction k generalizing d t n with
  | zero => exact h
  | succ k ih =>
    unfold Dev.readUnits
    split
    · exact h
    · exact ih h.read

theorem readGroup {base h' q n : Nat} (h : d₀.Leads d) : d₀.Leads (d.readGroup base h' q n).2 := by
  unfold Dev.readGroup
  exact h.readUnits

theorem writeUnits {src base h' q k o : Nat} {bs : List PB} (h : d₀.Leads d) : d₀.Leads (d.writeUnits src base h' q k o bs) := by
  induction k generalizing d o bs with
  | zero => exact h
  | succ k ih =>
    unfold Dev.writeUnits
    split
    · exact h
    · exact ih h.write

theorem readContrib {b : Bucket} {parts : List (Nat × Nat × Nat × Nat)} (h : d₀.Leads d) : d₀.Leads (d.readContrib b parts).2 := by
  unfold Dev.readContrib
  refine .foldlSnd h (fun _ _ h => ?_)
  extract_lets _ v
  have hv : d₀.Leads v.2 := h.readGroup
  exact hv

theorem countAdds {q n : Nat} (h : d₀.Leads d) : d₀.Leads (d.countAdds q n) := by
  unfold Dev.countAdds
  exact h.setMdie

theorem countParts {parts : List (Nat × Nat × Nat × Nat)} (h : d₀.Leads d) : d₀.Leads (d.countParts parts) := by
  unfold Dev.countParts
  exact .foldl h (fun _ _ h => h.countAdds)

theorem tryFinish {uid : Nat} (h : d₀.Leads d) : d₀.Leads (d.tryFinish uid) := by
  unfold Dev.tryFinish
  split
  · exact .ite h.makeKept.finish h
  · exact h

theorem tryFinishAll (h : d₀.Leads d) : d₀.Leads d.tryFinishAll := by
  unfold Dev.tryFinishAll
  exact .foldl h (fun _ _ h => h.tryFinish)

theorem answerRetract {r : Retract} (h : d₀.Leads d) : d₀.Leads (d.answerRetract r) := by
  unfold Dev.answerRetract
  extract_lets _ _ _ d1
  have h1 : d₀.Leads d1 := h.setTxn
  exact .ite h1.send h

theorem answerRetracts (h : d₀.Leads d) : d₀.Leads d.answerRetracts := by
  unfold Dev.answerRetracts
  split
  · exact .ite h (.foldl h (fun _ _ h => h.answerRetract))
  · exact h

theorem checkBucket {chain bucket : Nat} (h : d₀.Leads d) : d₀.Leads (d.checkBucket chain bucket) := by
  unfold Dev.checkBucket
  split
  · exact h
  · split
    · exact h
    · extract_lets d1
      have h1 : d₀.Leads d1 := h.setBucket
      exact .ite h1.raise (.ite h1.raise h1.setAct.tryFinish.answerRetracts)

theorem writeResults {b : Bucket} {parts : List (Nat × Nat × Nat × Nat)} {bs : List PB}
    (h : d₀.Leads d) : d₀.Leads (d.writeResults b parts bs).2 := by
  unfold Dev.writeResults
  extract_lets r
  have hr : d₀.Leads r.2.2 := by
    unfold r
    refine .foldlThird h (fun _ _ h => ?_)
    extract_lets
    exact h.writeUnits
  exact hr

theorem noteSumLeft {b : Bucket} {a : Nat} (h : d₀.Leads d) : d₀.Leads (d.noteSumLeft b a) := by
  unfold Dev.noteSumLeft
  exact h.setTxn

theorem takeResult {b : Bucket} {rail k off mask sumP : Nat} {bs : List PB} {pois : Bool}
    (h : d₀.Leads d) : d₀.Leads (d.takeResult b rail k off mask sumP bs pois) := by
  unfold Dev.takeResult
  extract_lets _ _ _ _ w fwd d1 _ _ d2
  have hw : d₀.Leads w.2 := h.writeResults
  have h1 : d₀.Leads d1 := by
    unfold d1
    clear_value fwd
    split
    · extract_lets x
      have hx : d₀.Leads x := hw.send
      exact .ite hx.noteSumLeft hx
    · exact hw
  have h2 : d₀.Leads d2 := h1.setCtl.setBucket
  exact .ite h2.consume.raise (.ite h2.raise (.ite h2.raise h2.checkBucket))

theorem visitSum {b : Bucket} {rail k off mask sumP : Nat} {sums : List Pair}
    (h : d₀.Leads d) : d₀.Leads (d.visitSum b rail k off mask sumP sums) := by
  unfold Dev.visitSum
  extract_lets _ _ _ c _ _ _ d1 _ d2
  have hc : d₀.Leads c.2 := by
    unfold c
    split
    · exact h.readContrib
    · exact h
  have h1 : d₀.Leads d1 := .ite hc.countParts hc
  have h2 : d₀.Leads d2 := h1.setBucket
  split
  · exact hc.consume.raise
  · split
    · split
      · exact h2.takeResult
      · exact h2
    · split
      · extract_lets d3
        have h3 : d₀.Leads d3 := h2.send
        exact .ite h3.noteSumLeft h3
      · exact h2

theorem startRun {chain bucket : Nat} (h : d₀.Leads d) : d₀.Leads (d.startRun chain bucket) := by
  unfold Dev.startRun
  refine .foldl h (fun _ _ h => ?_)
  split
  · exact h
  · split
    · exact h
    · extract_lets
      refine .foldl h (fun _ _ h => ?_)
      split
      · exact h.visitSum
      · exact h

theorem acceptRun {chain bucket run excluded : Nat} (h : d₀.Leads d) : d₀.Leads (d.acceptRun chain bucket run excluded) := by
  unfold Dev.acceptRun
  split
  · exact h
  · split
    · exact h
    · extract_lets d0 d1 d2
      have h0 : d₀.Leads d0 := .ite h.absent h
      have h1 : d₀.Leads d1 := h0.setBucket.setAct.setCtl
      have h2 : d₀.Leads d2 := h1.setTxn
      exact .ite h2.raise h2.startRun

theorem issueRun {chain bucket : Nat} (h : d₀.Leads d) : d₀.Leads (d.issueRun chain bucket) := by
  unfold Dev.issueRun
  split
  · exact h
  · extract_lets _ _ d1 _ d2
    have h1 : d₀.Leads d1 := h.setBucket
    have h2 : d₀.Leads d2 := .foldl h1 (fun _ _ h => h.send)
    exact h2.acceptRun

theorem askRun {b : Bucket} (h : d₀.Leads d) : d₀.Leads (d.askRun b) := by
  unfold Dev.askRun
  split
  · exact h
  · exact .ite h.setBucket.issueRun h.send

theorem withdraw {mb cause : Nat} (h : d₀.Leads d) : d₀.Leads (d.withdraw mb cause) := by
  unfold Dev.withdraw
  split
  · exact h
  · split
    · exact h
    · split
      · exact h.raise
      · extract_lets _ d1 d2
        have h1 : d₀.Leads d1 := h.setTxn
        have h2 : d₀.Leads d2 := .foldl h1 (fun _ _ h => h.send.logRetract.setTxn)
        exact .foldl h2 (fun _ _ h => h.absent.askRun)

theorem workFails {b : List Byte} {retract abort : Nat} (h : d₀.Leads d) : d₀.Leads (d.workFails b retract abort) := by
  unfold Dev.workFails
  exact .ite h (.ite h.raise h.withdraw)

theorem withdrawUses (h : d₀.Leads d) : d₀.Leads d.withdrawUses := by
  unfold Dev.withdrawUses
  split
  · exact h
  · split
    · exact h
    · refine .foldl h (fun _ _ h => ?_)
      split
      · exact h
      · exact .ite h.raise h.withdraw.setTxn

theorem addGradient {entries : List UEntry} {base g : Nat} {acc : List Pair} (h : d₀.Leads d) : d₀.Leads (d.addGradient entries base g acc).2.2 := by
  unfold Dev.addGradient
  extract_lets _ _ v
  have hv : d₀.Leads v.2 := h.readGroup
  exact hv.countAdds

theorem gradPoisoned {entries : List UEntry} {total base : Nat} (h : d₀.Leads d) : d₀.Leads (d.gradPoisoned entries total base).2 := by
  unfold Dev.gradPoisoned
  refine .foldlSnd h (fun _ _ h => ?_)
  extract_lets _ _ v
  have hv : d₀.Leads v.2 := h.readGroup
  exact hv

theorem contribGroup {b : Bucket} {bases : List Nat} {g : Nat} (h : d₀.Leads d) : d₀.Leads (d.contribGroup b bases g).2 := by
  unfold Dev.contribGroup
  extract_lets _ acc c
  have hacc : d₀.Leads acc.2 := by
    unfold acc
    refine .foldlSnd h (fun _ _ h => ?_)
    extract_lets v
    have hv : d₀.Leads v.2.2 := h.addGradient
    exact hv
  exact hacc.writeUnits

theorem localPhase {b : Bucket} {grads : List Nat} (h : d₀.Leads d) : d₀.Leads (d.localPhase b grads) := by
  unfold Dev.localPhase
  extract_lets _ d1 _ r
  have h1 : d₀.Leads d1 := by
    unfold d1
    refine .foldl h (fun _ _ h => ?_)
    split
    · extract_lets v
      have hv : d₀.Leads v.2 := h.gradPoisoned
      split
      · exact hv.consume.withdraw
      · exact hv
    · exact h
  have hr : d₀.Leads r.2 := by
    unfold r
    split
    · exact h1
    · refine .foldlSnd h1 (fun _ _ h => ?_)
      extract_lets v
      have hv : d₀.Leads v.2 := h.contribGroup
      exact hv
  exact hr.setBucket.setCtl

end Dev.Leads
end Sys2Proof.Machine
end

section
/-! SUPPORT. Rings, the tiles and what runs on them (R388 to R409, R517). -/
namespace Sys2Proof.Machine
open Sys2Proof

namespace Dev.Leads
variable {d₀ d e : Dev}

theorem aer {e addr : Nat} (h : d₀.Leads d) : d₀.Leads (d.aer e addr) := by
  unfold Dev.aer
  exact h.setHost

theorem aerAdvisory {e addr : Nat} (h : d₀.Leads d) : d₀.Leads (d.aerAdvisory e addr) := by
  unfold Dev.aerAdvisory
  exact .ite h.aer h.aer.aer

theorem unsupported {tag : Option Nat} {a : Nat} (h : d₀.Leads d) : d₀.Leads (d.unsupported tag a) := by
  unfold Dev.unsupported
  split
  · exact h.setHost.aerAdvisory
  · exact h.aer

theorem barWrite {s : State} {off : Nat} {tlp : Tlp} {bad : Bool} {f : State → State} (h : d₀.Leads s.d) (hf : d₀.Leads (f s).d) :
    d₀.Leads (s.barWrite off tlp bad f).d := by
  unfold State.barWrite
  split
  · exact h
  · split
    · exact h.aer
    · split
      · dsimp only
        exact h.unsupported
      · split
        · exact h.aer
        · exact hf

theorem regSet {s : State} {off : Nat} {f : Dev → Dev} (h : d₀.Leads s.d) (hf : d₀.Leads (f s.d)) : d₀.Leads (s.regSet off f).d := by
  refine h.barWrite ?_
  split
  · exact hf
  · exact h

theorem fetchedSlot {r : Nat} {x : Desc} (h : d₀.Leads d) : d₀.Leads (d.fetchedSlot r x) := by
  unfold Dev.fetchedSlot
  exact h.setRing

theorem recordInput {a : Active} {addr len : Nat} {bs : List PB} (h : d₀.Leads d) : d₀.Leads (d.recordInput a addr len bs) := by
  unfold Dev.recordInput
  exact .ite h.setTxn h

theorem countDma {r place n : Nat} (h : d₀.Leads d) : d₀.Leads (d.countDma r place n) := by
  unfold Dev.countDma
  split
  · split
    · exact h.setTile
    · exact h
  · exact h

theorem fillHead {r : Nat} {x : Desc} (h : d₀.Leads d) : d₀.Leads (d.fillHead r x) := by
  unfold Dev.fillHead
  extract_lets _ _ a d1
  have ha : d₀.Leads a.2 := h.start
  have h1 : d₀.Leads d1 := ha.writeAs
  exact .ite h (.ite h.refuseHead (.ite h.refuseHead h1.countDma.finish))

theorem copyHead {r : Nat} {x : Desc} (h : d₀.Leads d) : d₀.Leads (d.copyHead r x) := by
  unfold Dev.copyHead
  extract_lets _ _ _ a v d1
  have ha : d₀.Leads a.2 := h.start
  have hv : d₀.Leads v.2 := ha.read
  have h1 : d₀.Leads d1 := hv.recordInput.writeAs
  exact .ite h (.ite h.refuseHead (.ite h.refuseHead (.ite h.refuseHead h1.countDma.finish)))

theorem markHead {r : Nat} {x : Desc} (h : d₀.Leads d) : d₀.Leads (d.markHead r x) := by
  unfold Dev.markHead
  extract_lets
  exact .ite h.refuseHead (.ite h.setCtl.refuseHead h.logEv.refuseHead)

theorem waitHead {r : Nat} {x : Desc} (h : d₀.Leads d) : d₀.Leads (d.waitHead r x) := by
  unfold Dev.waitHead
  extract_lets
  exact .ite h.refuseHead (.ite h.refuseHead h)

theorem signalHead {r : Nat} {x : Desc} (h : d₀.Leads d) : d₀.Leads (d.signalHead r x) := by
  unfold Dev.signalHead
  extract_lets
  exact .ite h (.ite h.refuseHead h.setCtl.refuseHead)

theorem setLogical {l : Nat} {f : Tile → Tile} (h : d₀.Leads d) : d₀.Leads (d.setLogical l f) := by
  unfold Dev.setLogical
  split
  · exact h.setTile
  · exact h

theorem opSrc {g : Gemm} {h' : Nat} {s : Share} {ofB : Bool} (h : d₀.Leads d) : d₀.Leads (d.opSrc g h' s ofB).2.2 := by
  unfold Dev.opSrc
  extract_lets _ _ _ v
  have hv : d₀.Leads v.2 := h.read
  split
  · extract_lets
    exact hv
  · exact hv

theorem readPanels {o : OpSrc} {npk : Nat} {order : List (Nat × Nat)} (h : d₀.Leads d) : d₀.Leads (d.readPanels o npk order).2 := by
  unfold Dev.readPanels
  split
  · exact h
  · refine .foldlSnd h (fun _ _ h => ?_)
    extract_lets v
    have hv : d₀.Leads v.2 := h.read
    exact hv

theorem noteHits {uid : Nat} {hits : List Nat} (h : d₀.Leads d) : d₀.Leads (d.noteHits uid hits) := by
  unfold Dev.noteHits
  split
  · exact h
  · exact h.setAct

theorem setPart {uid l : Nat} {f : Part → Part} (h : d₀.Leads d) : d₀.Leads (d.setPart uid l f) := by
  unfold Dev.setPart
  exact h.setAct

theorem settleFindings {a : Active} (h : d₀.Leads d) : d₀.Leads (d.settleFindings a) := by
  unfold Dev.settleFindings
  extract_lets d1
  have h1 : d₀.Leads d1 := by
    unfold d1
    refine .foldl h (fun _ _ h => ?_)
    extract_lets d'
    have h' : d₀.Leads d' := h.consume
    exact .ite h' (.ite h'.raise (.ite h'.raise h'.withdraw))
  exact .ite h1 (.ite h1.logEv h1.workFails)

theorem tryTileEnd {uid : Nat} (h : d₀.Leads d) : d₀.Leads (d.tryTileEnd uid) := by
  unfold Dev.tryTileEnd
  split
  · exact h
  · exact .ite h.settleFindings.finish h

theorem remapTo {l uid home homeLen recs size width : Nat} (h : d₀.Leads d) : d₀.Leads (d.remapTo l uid home homeLen recs size width).2 := by
  unfold Dev.remapTo
  extract_lets
  exact h.setLogical

theorem castPlaces {c : CastRun} (h : d₀.Leads d) : d₀.Leads (d.castPlaces c).2 := by
  unfold Dev.castPlaces
  extract_lets
  split
  · exact h
  · exact h.remapTo

theorem freshOutliers {l : Nat} (h : d₀.Leads d) : d₀.Leads (d.freshOutliers l) := by
  unfold Dev.freshOutliers
  split
  · exact h.of_eq rfl rfl
  · exact h

theorem castShare {c : CastRun} {src : Dev → Nat → Nat → (List (List Elem) × List Nat) × Dev} (h : d₀.Leads d)
    (hsrc : ∀ e pr pk, d₀.Leads e → d₀.Leads (src e pr pk).2) : d₀.Leads (d.castShare c src).2 := by
  unfold Dev.castShare
  extract_lets pl
  have hpl : d₀.Leads pl.2 := by
    unfold pl
    exact h.freshOutliers.castPlaces
  clear_value pl
  refine .foldlSnd hpl fun _ _ h => ?_
  dsimp only
  exact (hsrc _ _ _ h).writeAs

theorem castEnds {c : CastRun} {s : CastSum} {unit : Bool} (h : d₀.Leads d) : d₀.Leads (d.castEnds c s unit) := by
  unfold Dev.castEnds
  extract_lets _ d1 d2 d3
  have h1 : d₀.Leads d1 := h.setLogical
  have h2 : d₀.Leads d2 := h1.noteHits.setAct
  have h3 : d₀.Leads d3 := h2.setPart
  exact .ite h3.setLogical h3

theorem srcPanel {c : CastD} {pr pk : Nat} (h : d₀.Leads d) : d₀.Leads (d.srcPanel c pr pk).2 := by
  unfold Dev.srcPanel
  extract_lets _ _ _ _ _ _ _ _ v
  have hv : d₀.Leads v.2 := by
    unfold v
    refine .foldlSnd h (fun _ _ h => ?_)
    extract_lets _ x
    have hx : d₀.Leads x.2 := h.read
    exact hx
  exact hv

theorem runCast {uid l : Nat} (h : d₀.Leads d) : d₀.Leads (d.runCast uid l) := by
  unfold Dev.runCast
  split
  · exact h
  · extract_lets
    split
    · extract_lets _ r
      have hr : d₀.Leads r.2 := .castShare h (fun _ _ _ h => h.srcPanel)
      exact hr.castEnds
    · exact h

theorem ladderRecord {a : Active} {q : Part} {flags : Nat} (h : d₀.Leads d) : d₀.Leads (d.ladderRecord a q flags) := by
  unfold Dev.ladderRecord
  extract_lets _ d1
  have h1 : d₀.Leads d1 := h.logEv
  exact .ite h1 h1.setTxn

theorem countUnit {a : Active} {q : Part} (h : d₀.Leads d) : d₀.Leads (d.countUnit a q) := by
  unfold Dev.countUnit
  split
  · exact h
  · extract_lets
    exact h.setTxn

theorem reportRecord {a : Active} {q : Part} (h : d₀.Leads d) : d₀.Leads (d.reportRecord a q) := by
  unfold Dev.reportRecord
  exact h.ladderRecord.countUnit

theorem reportPart {uid l : Nat} (h : d₀.Leads d) : d₀.Leads (d.reportPart uid l) := by
  unfold Dev.reportPart
  extract_lets d1
  have h1 : d₀.Leads d1 := h.setPart.setLogical
  split
  · exact h1
  · split
    · exact h1
    · extract_lets d2 d3
      have h2 : d₀.Leads d2 := h1.setLogical
      have h3 : d₀.Leads d3 := .ite h2 h2.reportRecord
      exact .ite h3 (.ite h3.raise h3.withdraw)

theorem unitStands {a : Active} {q : Part} (h : d₀.Leads d) : d₀.Leads (d.unitStands a q) := by
  unfold Dev.unitStands
  exact .countUnit (.ite h h.ladderRecord)

theorem endPart {uid l : Nat} (h : d₀.Leads d) : d₀.Leads (d.endPart uid l) := by
  unfold Dev.endPart
  exact h.setPart.tryTileEnd

theorem rangeReports {l : Nat} (h : d₀.Leads d) : d₀.Leads (d.rangeReports l) := by
  unfold Dev.rangeReports
  exact .foldl h (fun _ _ h => h.setPart.reportPart)

theorem operandRecs {o : OpSrc} {npk : Nat} {order : List (List (Nat × Nat))} {once : List (Nat × Nat)} {got : List PB}
    (h : d₀.Leads d) : d₀.Leads (d.operandRecs o npk order once got).2 := by
  unfold Dev.operandRecs
  split
  · exact h
  · exact h.readPanels

theorem moveSlices {a : Active} {l lo : Nat} {ofB : Bool} {o : OpSrc} {recs : List PanelRec}
    (h : d₀.Leads d) : d₀.Leads (d.moveSlices a l lo ofB o recs) := by
  unfold Dev.moveSlices
  split
  · exact h
  · refine .foldl h (fun _ _ h => ?_)
    extract_lets
    exact h.writeAs.setLogical

theorem accumulateTile {a : Active} {q : Part} {t : TileJob} {b : Nat} (h : d₀.Leads d) : d₀.Leads (d.accumulateTile a q t b) := by
  unfold Dev.accumulateTile
  extract_lets _ _ _ ra rb dm _ _ _ _ d1
  have hra : d₀.Leads ra.2 := h.operandRecs
  have hrb : d₀.Leads rb.2 := hra.operandRecs
  have hm : d₀.Leads dm := hrb.moveSlices.moveSlices
  have h1 : d₀.Leads d1 := hm.setLogical
  exact h1.noteHits.setPart

theorem engineFill {k l : Nat} (h : d₀.Leads d) : d₀.Leads (Dev.engineFill k l d) := by
  induction k generalizing d with
  | zero => exact h
  | succ k ih =>
    unfold Dev.engineFill
    split
    · exact h
    · extract_lets
      split
      · exact h
      · exact .ite h (ih h.accumulateTile)

theorem engineShow {l : Nat} (h : d₀.Leads d) : d₀.Leads (d.engineShow l) := by
  unfold Dev.engineShow
  split
  · exact h
  · split
    · exact h.setLogical
    · exact h

theorem engineGo {l : Nat} (h : d₀.Leads d) : d₀.Leads (d.engineGo l) := by
  unfold Dev.engineGo
  exact h.engineFill.engineShow.rangeReports

theorem gemmTiles {g : Gemm} {h' : Nat} {ss : List Share} (h : d₀.Leads d) : d₀.Leads (d.gemmTiles g h' ss).2 := by
  unfold Dev.gemmTiles
  refine .foldlSnd h (fun _ _ h => ?_)
  extract_lets a b
  have ha : d₀.Leads a.2.2 := h.opSrc
  have hb : d₀.Leads b.2.2 := ha.opSrc
  exact hb

theorem gemmPlan {r : Nat} {x : Desc} (h : d₀.Leads d) : d₀.Leads (Plan.left TileWork.d d (d.gemmPlan r x)) := by
  unfold Dev.gemmPlan
  extract_lets
  split
  · exact h
  · split
    · exact h
    · extract_lets _ _ xs pb
      have hxs : d₀.Leads xs.2 := h.gemmTiles
      have hpb : d₀.Leads pb.2 := hxs.read
      split
      · exact h
      · split
        · exact hxs
        · split
          · exact hxs
          · split
            · exact hxs
            · split
              · exact hxs
              · split
                · exact hpb.poisonedRead
                · extract_lets
                  split
                  · exact h
                  · split
                    · exact hpb
                    · split
                      · exact hpb
                      · split
                        · exact hpb
                        · exact hpb

theorem gemmGo {w : TileWork} {r : Nat} {x : Desc} (h : d₀.Leads w.d) : d₀.Leads (gemmGo r x w) := by
  unfold Dev.gemmGo
  extract_lets st
  have hst : d₀.Leads st.2 := h.noteHome.start
  exact .tryTileEnd (.foldl hst.setAct (fun _ _ h => h.engineGo))

theorem gemmHead {r : Nat} {x : Desc} (h : d₀.Leads d) : d₀.Leads (d.gemmHead r x) := by
  unfold Dev.gemmHead
  exact .withTables h (.follow h.gemmPlan (fun _ h => h.gemmGo))

theorem readSpan {os : OpSrc} {npk off n : Nat} {l : List (Nat × Nat)} (h : d₀.Leads d) : d₀.Leads (d.readSpan os npk l off n).2 := by
  induction l generalizing d off n with
  | nil => exact h
  | cons x l ih =>
    unfold Dev.readSpan
    split
    · exact h
    · split
      · exact ih h
      · exact ih h.read

theorem fillSegment {tile : Nat} {ofB : Bool} {a : Active} {q : Part} {t : TileJob} (h : d₀.Leads d) : d₀.Leads (d.fillSegment tile ofB a q t) := by
  unfold Dev.fillSegment
  extract_lets _ _ _ _ _ v _ d1 _ d2
  have hv : d₀.Leads v.2 := h.readSpan
  have h1 : d₀.Leads d1 := hv.writeAs.setLogical
  have h2 : d₀.Leads d2 := h1.setPart
  exact h2.engineGo

theorem queueCheck {p : Nat} {c : Check} (h : d₀.Leads d) : d₀.Leads (d.queueCheck p c) := by
  unfold Dev.queueCheck
  exact h.setTile

theorem checkRecord {c : Check} {outcome : Nat} (h : d₀.Leads d) : d₀.Leads (d.checkRecord c outcome) := by
  unfold Dev.checkRecord
  exact h.logEv

theorem requestCheck {c : Check} (h : d₀.Leads d) : d₀.Leads (d.requestCheck c) := by
  unfold Dev.requestCheck
  extract_lets helper
  clear_value helper
  split
  · exact h.queueCheck.setTile
  · exact h.checkRecord.setTile

theorem postTile {l p b : Nat} {k : BankRec} {a : Active} {q : Part} {t : TileJob} (h : d₀.Leads d) : d₀.Leads (d.postTile l p b k a q t) := by
  unfold Dev.postTile
  extract_lets x r slot d1 bad d2 d3 h' c
  have h1 : d₀.Leads d1 := h.writeAs
  have h3 : d₀.Leads d3 := (setTile (of_eq (e := { d1 with free := d1.free + 1 }) h1 rfl rfl)).setAct
  exact engineGo (.ite h3.requestCheck h3)

theorem portRows {base stride fmt nr nc : Nat} (h : d₀.Leads d) : d₀.Leads (d.portRows base stride fmt nr nc).2 := by
  unfold Dev.portRows
  extract_lets
  refine .foldlSnd h (fun _ _ h => ?_)
  extract_lets _ v
  have hv : d₀.Leads v.2 := h.read
  exact hv

theorem writePort {src uid base stride z nc : Nat} {els : List (List Byte × Bool)}
    (h : d₀.Leads d) : d₀.Leads (d.writePort src uid base stride z nc els).2 := by
  unfold Dev.writePort
  extract_lets
  refine .foldlSnd h (fun _ _ h => ?_)
  extract_lets
  exact h.writeAs

theorem runPorts {w : RunAt} {g : Graph} {pb : List Byte} {record : Option (List (List LV) × List Nat)} {draw : Nat → Nat → Nat → Nat}
    (h : d₀.Leads d) : d₀.Leads (d.runPorts w g pb record draw).2 := by
  unfold Dev.runPorts
  extract_lets win ports vec rv cv out src wr
  have hports : d₀.Leads ports.2 := by
    unfold ports
    refine .foldlSnd h fun _ _ h => ?_
    extract_lets
    split
    · exact h
    · split
      · exact h
      · exact h.portRows
  have hvec (e : Dev) (on : Bool) (i k at' n : Nat) (h : d₀.Leads e) : d₀.Leads (vec e on i k at' n).2 := by
    unfold vec
    dsimp only
    split
    · exact h.portRows
    · exact h
  have hcv : d₀.Leads cv.2 := hvec _ _ _ _ _ _ (hvec _ _ _ _ _ _ hports)
  refine .foldlSnd (f := _) hcv fun _ _ h => ?_
  dsimp only
  split
  · exact h.writePort
  · exact h.writePort
  · exact h

theorem runCastw {uid l : Nat} {g : Graph} {pb : List Byte} {key nr nc : Nat} (h : d₀.Leads d) : d₀.Leads (d.runCastw uid l g pb key nr nc) := by
  unfold Dev.runCastw
  split
  · exact h
  · split
    · extract_lets _ r
      have hr : d₀.Leads r.2 := .castShare h (fun _ _ _ h => h)
      exact hr.setPart.castEnds
    · exact h

theorem drainRun {a : Active} {q : Part} {t : TileJob} {g : Graph} {pb : List Byte} {e : QEntry} {rec' : DrainRec} {addr : Nat}
    (h : d₀.Leads d) : d₀.Leads (d.drainRun a q t g pb e rec' addr) := by
  unfold Dev.drainRun
  extract_lets _ _ _ _ _ _ _ _ wr _ _ _ v _ d1 d2
  have hwr : d₀.Leads wr.2 := h.writePort
  have hv : d₀.Leads v.2 := h.runPorts
  have h1 : d₀.Leads d1 := hv.setLogical.setAct
  have h2 : d₀.Leads d2 := .ite h1.noteHits h1
  split
  · exact hwr.setLogical
  · split
    · exact h2.setPart
    · exact h2

theorem drainEnd {uid l : Nat} {g : Graph} {pb : List Byte} {t : TileJob} (h : d₀.Leads d) : d₀.Leads (d.drainEnd uid l g pb t) := by
  unfold Dev.drainEnd
  split
  · exact h
  · split
    · exact h
    · split
      · exact h
      · split
        · extract_lets
          exact h.runCastw
        · exact h.endPart

theorem runStream {uid l : Nat} (h : d₀.Leads d) : d₀.Leads (d.runStream uid l) := by
  unfold Dev.runStream
  split
  · exact h
  · extract_lets
    split
    · extract_lets _ v _ _ d1 d2 d3
      have hv : d₀.Leads v.2 := h.runPorts
      have h1 : d₀.Leads d1 := hv.setLogical
      have h2 : d₀.Leads d2 := h1.setAct
      have h3 : d₀.Leads d3 := .setPart (.ite h2.noteHits h2)
      exact .ite h3.runCastw h3.endPart
    · exact h

theorem streamsGo {k l : Nat} (h : d₀.Leads d) : d₀.Leads (Dev.streamsGo k l d) := by
  induction k generalizing d with
  | zero => exact h
  | succ k ih =>
    unfold Dev.streamsGo
    split
    · exact h
    · split
      · exact ih h.runStream
      · exact h

theorem streams {l : Nat} (h : d₀.Leads d) : d₀.Leads (d.streams l) := by
  unfold Dev.streams
  exact h.streamsGo

theorem drainEntry {tile p : Nat} {e : QEntry} {a : Active} {q : Part} {t : TileJob} {g : Graph}
    (h : d₀.Leads d) : d₀.Leads (d.drainEntry tile p e a q t g) := by
  unfold Dev.drainEntry
  extract_lets _ v _ _ d1 d2
  have hv : d₀.Leads v.2 := h.read
  have h1 : d₀.Leads d1 := hv.drainRun
  have h2 : d₀.Leads d2 := h1.setTile.setPart
  exact h2.drainEnd.streams

theorem streamPlan {r : Nat} {x : Desc} (h : d₀.Leads d) : d₀.Leads (Plan.left TileWork.d d (d.streamPlan r x)) := by
  unfold Dev.streamPlan
  extract_lets _ _ _ _ pb
  have hpb : d₀.Leads pb.2 := h.read
  split
  · exact h
  · split
    · exact h
    · split
      · exact h
      · split
        · exact h
        · split
          · exact h
          · split
            · exact h
            · split
              · exact hpb.poisonedRead
              · extract_lets
                split
                · exact h
                · split
                  · exact hpb
                  · split
                    · exact hpb
                    · split
                      · exact hpb
                      · exact hpb

theorem streamGo {w : TileWork} {r : Nat} {x : Desc} (h : d₀.Leads w.d) : d₀.Leads (streamGo r x w) := by
  unfold Dev.streamGo
  extract_lets st
  have hst : d₀.Leads st.2 := h.start
  exact .tryTileEnd (.foldl hst.setAct (fun _ _ h => h.streams))

theorem streamHead {r : Nat} {x : Desc} (h : d₀.Leads d) : d₀.Leads (d.streamHead r x) := by
  unfold Dev.streamHead
  exact .follow h.streamPlan (fun _ h => h.streamGo)

theorem castPartEnd {uid l : Nat} (h : d₀.Leads d) : d₀.Leads (d.castPartEnd uid l) := by
  unfold Dev.castPartEnd
  split
  · exact .ite h (.endPart (.ite h h.reportPart))
  · exact h

theorem castPlan {r : Nat} {x : Desc} (h : d₀.Leads d) : d₀.Leads (Plan.left TileWork.d d (d.castPlan r x)) := by
  unfold Dev.castPlan
  extract_lets
  split
  · exact h
  · split
    · exact h
    · split
      · exact h
      · split
        · exact h
        · extract_lets
          split
          · exact h
          · split
            · split
              · exact h
              · exact h
            · split
              · exact h
              · exact h

theorem castGo {w : TileWork} {r : Nat} {x : Desc} (h : d₀.Leads w.d) : d₀.Leads (castGo r x w) := by
  unfold Dev.castGo
  extract_lets _ st v inp
  have hst : d₀.Leads st.2 := h.start
  have hv : d₀.Leads v.2 := hst.read
  have hinp : d₀.Leads inp := .ite hv.recordInput hst
  exact .tryTileEnd (.foldl hinp.setAct (fun _ _ h => h.runCast.castPartEnd))

theorem castHead {r : Nat} {x : Desc} (h : d₀.Leads d) : d₀.Leads (d.castHead r x) := by
  unfold Dev.castHead
  exact .follow h.castPlan (fun _ h => h.castGo)

theorem repeatUnit {a : Active} {l rung : Nat} (h : d₀.Leads d) : d₀.Leads (d.repeatUnit a l rung) := by
  unfold Dev.repeatUnit
  extract_lets d1
  have h1 : d₀.Leads d1 := h.setLogical.setPart
  split
  · exact h1.runCast
  · exact h1.runStream
  · exact h1.setPart.engineGo

theorem recompute {p fault : Nat} {c : Check} (h : d₀.Leads d) : d₀.Leads (d.recompute p fault c).2 := by
  unfold Dev.recompute
  split
  · exact h
  · extract_lets ra rb
    have hra : d₀.Leads ra.2 := h.readPanels
    have hrb : d₀.Leads rb.2 := hra.readPanels
    exact hrb.setTile

theorem carry {l p u : Nat} (h : d₀.Leads d) : d₀.Leads (d.carry l p u) := by
  unfold Dev.carry
  extract_lets n inSrc inDst secs m d1
  have h1 : d₀.Leads d1 := h.of_mem (fun hc => Mem.filter_canonical hc fun k => !inDst k) rfl
  exact .foldl h1 fun _ _ h => h.readKey.writeFull

theorem rewind {l : Nat} {lost : Tab BankRec} (h : d₀.Leads d) : d₀.Leads (d.rewind l lost) := h.of_eq rfl rfl

theorem handOver {l p u : Nat} {t : Tile} (h : d₀.Leads d) : d₀.Leads (d.handOver l p u t) := by
  unfold Dev.handOver
  extract_lets d1 d2
  have h1 : d₀.Leads d1 := h.setTile.carry
  have h2 : d₀.Leads d2 := .foldl h1 (fun _ _ h => h.queueCheck)
  exact h2.rewind.engineGo

theorem resolveCheck {c : Check} {outcome : Nat} (h : d₀.Leads d) : d₀.Leads (d.resolveCheck c outcome) := by
  unfold Dev.resolveCheck
  extract_lets d1
  have h1 : d₀.Leads d1 := h.setLogical.checkRecord
  exact .ite h1 (.ite h1.workFails (.ite h1.raise h1))

theorem askThird {c : Check} (h : d₀.Leads d) : d₀.Leads (d.askThird c) := by
  unfold Dev.askThird
  split
  · exact h.queueCheck
  · exact h.resolveCheck

theorem fenceTile {p : Nat} (h : d₀.Leads d) : d₀.Leads (d.fenceTile p) := by
  unfold Dev.fenceTile
  extract_lets _ d1
  have h1 : d₀.Leads d1 := h.setTile.health
  split
  · exact h
  · split
    · exact .foldl h1 (fun _ _ h => .ite h.askThird h.requestCheck)
    · split
      · exact h1.handOver
      · exact h1.enterFault

theorem settleCheck {c : Check} {outcome : Nat} (h : d₀.Leads d) : d₀.Leads (d.settleCheck c outcome) := by
  unfold Dev.settleCheck
  extract_lets d1
  have h1 : d₀.Leads d1 := h.resolveCheck
  exact .ite h1.fenceTile (.ite h1.fenceTile h1)

theorem goOn {p : Nat} (h : d₀.Leads d) : d₀.Leads (d.goOn p) := by
  unfold Dev.goOn
  split
  · exact h.engineGo
  · exact h

theorem runCheck {p fault stage : Nat} {k : Dev → Check → List Byte → Dev} (h : d₀.Leads d) (hk : ∀ e c v, d₀.Leads e → d₀.Leads (k e c v)) :
    d₀.Leads (d.runCheck p fault stage k) := by
  unfold Dev.runCheck
  split
  · exact h
  · split
    · exact h
    · exact .goOn (hk _ _ _ h.recompute.setTile)

end Dev.Leads
end Sys2Proof.Machine
end

section
/-! SUPPORT. Peers, the reductions, the fault flow and the shards. -/
namespace Sys2Proof.Machine
open Sys2Proof

namespace Dev.Leads
variable {d₀ d e : Dev}

theorem portErr {p bit : Nat} (h : d₀.Leads d) : d₀.Leads (d.portErr p bit) := by
  unfold Dev.portErr
  exact h.setPort

theorem takeMessage {typ : Nat} {m : Rx} (h : d₀.Leads d) : d₀.Leads (d.takeMessage typ m) := h.of_eq rfl rfl

theorem strand (h : d₀.Leads d) : d₀.Leads d.strand := by
  unfold Dev.strand
  exact h.setState.sendState

theorem fallBehind {a step : Nat} (h : d₀.Leads d) : d₀.Leads (d.fallBehind a step) := by
  unfold Dev.fallBehind
  extract_lets d1
  have h1 : d₀.Leads d1 := .setTxn (.setPeer h (fun _ h => h))
  exact .ite h1.strand h1

theorem received {typ : Nat} {m : Rx} (h : d₀.Leads d) : d₀.Leads (d.received typ m).1 := by
  unfold Dev.received
  split
  · exact h
  · extract_lets d1
    have h1 : d₀.Leads d1 := h.takeMessage
    split
    · exact h1.portErr
    · exact h1

theorem receive {typ : Nat} {m : Rx} {f : Dev → Dev} (h : d₀.Leads d) (hf : ∀ e, d₀.Leads e → d₀.Leads (f e)) : d₀.Leads (d.receive typ m f) :=
  .ite (hf _ h.received) h.received

theorem accepted {typ : Nat} {m : Rx} {ready : Bool} (h : d₀.Leads d) : d₀.Leads (d.accepted typ m ready).1 := by
  unfold Dev.accepted
  extract_lets r d1 _ _ _ _ _ d2
  have hr : d₀.Leads r.1 := h.received
  have h1 : d₀.Leads d1 := hr
  have h2 : d₀.Leads d2 := .setPeer h1 (fun _ h => h)
  split
  · exact hr
  · split
    · exact h1.portErr
    · split
      · exact .ite (.setPeer h1 (fun _ h => h)) h1
      · split
        · exact h1
        · split
          · exact h2.fallBehind
          · exact h2

theorem accept {typ : Nat} {m : Rx} {ready : Bool} {f : Dev → Dev} (h : d₀.Leads d) (hf : ∀ e, d₀.Leads e → d₀.Leads (f e)) :
    d₀.Leads (d.accept typ m ready f) :=
  .withTables h (.ite (hf _ h.accepted) h.accepted)

theorem departedAct {uid : Nat} (h : d₀.Leads d) : d₀.Leads (d.departedAct uid) := by
  unfold Dev.departedAct
  split
  · exact h
  · split
    · exact h.tryFinish
    · exact h.finish.setCtl.workFails
    · exact h.finish.setCtl.workFails
    · exact h.finish

theorem permuteLost {a : Nat} (h : d₀.Leads d) : d₀.Leads (d.permuteLost a) := by
  unfold Dev.permuteLost
  split
  · exact .ite h.setCtl.finish h
  · exact h

theorem fenceLost {a : Nat} (h : d₀.Leads d) : d₀.Leads (d.fenceLost a) := by
  unfold Dev.fenceLost
  split
  · exact h
  · extract_lets _ d1 d2 d3
    have h1 : d₀.Leads d1 := .ite h.setTxn h
    have h2 : d₀.Leads d2 := .ite h1.raise h1
    have h3 : d₀.Leads d3 := .ite h2.raise h2
    exact h3.setTxn

theorem bucketsLose {a : Nat} (h : d₀.Leads d) : d₀.Leads (d.bucketsLose a) := by
  unfold Dev.bucketsLose
  extract_lets
  refine .foldl h (fun _ _ h => ?_)
  extract_lets d1
  have h1 : d₀.Leads d1 := h.setBucket
  exact .ite h1.issueRun h1

theorem resendResults {a : Nat} {before : Dev} {lost : List Sent} (h : d₀.Leads d) : d₀.Leads (d.resendResults a before lost) := by
  unfold Dev.resendResults
  refine .foldl h (fun _ _ h => ?_)
  extract_lets
  split
  · exact h.send
  · exact h

theorem depart {a cause : Nat} (h : d₀.Leads d) : d₀.Leads (d.depart a cause) := by
  unfold Dev.depart
  extract_lets _ d0 d1 d2 d3 d4 d5 d6 d7
  have h0 : d₀.Leads d0 := .foldl h (fun _ _ h => h.setPort)
  have h1 : d₀.Leads d1 := .setPeer h0 (fun _ _ => by simp)
  have h2 : d₀.Leads d2 := h1.logEv
  have h3 : d₀.Leads d3 := .foldl h2 (fun _ _ h => h.departedAct)
  have h4 : d₀.Leads d4 := h3.resendResults.permuteLost
  have h5 : d₀.Leads d5 := h4.setCtl.fenceLost
  have h6 : d₀.Leads d6 := h5.bucketsLose
  have h7 : d₀.Leads d7 := .ite (.foldl h6 (fun _ _ h => h.endDrain)) h6
  split
  · exact h
  · split
    · exact .ite h7.setCtl.finish h7
    · exact h7

theorem writeShard {bank : Nat} {adopt : Bool} {e off : Nat} {bs : List PB} (h : d₀.Leads d) : d₀.Leads (d.writeShard bank adopt e off bs) := by
  unfold Dev.writeShard
  exact h.writeAs

theorem permuteWrites (h : d₀.Leads d) : d₀.Leads d.permuteWrites := by
  unfold Dev.permuteWrites
  split
  · exact h
  · extract_lets _ _ d1
    have h1 : d₀.Leads d1 := .foldl h (fun _ _ h => h.writeShard)
    exact h1.setCtl

theorem permuteAcked (h : d₀.Leads d) : d₀.Leads d.permuteAcked := by
  unfold Dev.permuteAcked
  split
  · split
    · exact h
    · extract_lets _ d1
      have h1 : d₀.Leads d1 := h.setCtl
      exact .foldl h1 (fun _ _ h => h.send)
  · exact h

theorem ackEffects (h : d₀.Leads d) : d₀.Leads d.ackEffects := by
  unfold Dev.ackEffects
  exact h.tryFinishAll.permuteWrites.permuteAcked

theorem missed {a : Nat} (h : d₀.Leads d) : d₀.Leads (d.missed a) := by
  unfold Dev.missed
  extract_lets d1
  have h1 : d₀.Leads d1 := .setPeer h (fun _ h => h)
  exact .ite h1.depart h1

theorem departUnreachable {a : Nat} (h : d₀.Leads d) : d₀.Leads (d.departUnreachable a) := by
  unfold Dev.departUnreachable
  exact .ite h.depart h

theorem replyOn {m : Rx} {typ : Nat} {params body : List Byte} (h : d₀.Leads d) : d₀.Leads (d.replyOn m typ params body) := by
  unfold Dev.replyOn
  exact h.queueFrom

theorem keepEarly {typ : Nat} {m : Rx} (h : d₀.Leads d) : d₀.Leads (d.keepEarly typ m) := by
  unfold Dev.keepEarly
  exact h.setCtl

theorem bucketMessage {typ : Nat} {m : Rx} {newer : Bool} {f : Bucket → Dev} (h : d₀.Leads d) (hf : ∀ b, d₀.Leads (f b)) :
    d₀.Leads (d.bucketMessage typ m newer f) := by
  unfold Dev.bucketMessage
  split
  · exact h
  · exact h.keepEarly
  · split
    · exact h.keepEarly
    · exact .ite (hf _) (.ite h (.ite h.keepEarly (hf _)))

theorem sumIn {m : Rx} (h : d₀.Leads d) : d₀.Leads (d.sumIn m) := by
  unfold Dev.sumIn
  exact .bucketMessage h (fun _ => .ite h.consume.raise h.visitSum)

theorem resultIn {m : Rx} (h : d₀.Leads d) : d₀.Leads (d.resultIn m) := by
  unfold Dev.resultIn
  exact .bucketMessage h (fun _ => .ite h.consume.raise h.takeResult)

theorem rerunAsked {m : Rx} (h : d₀.Leads d) : d₀.Leads (d.rerunAsked m) := by
  unfold Dev.rerunAsked
  refine .bucketMessage h (fun _ => ?_)
  extract_lets d1
  have h1 : d₀.Leads d1 := h.setBucket
  exact .ite h1.issueRun h1

theorem rerunIn {m : Rx} (h : d₀.Leads d) : d₀.Leads (d.rerunIn m) := by
  unfold Dev.rerunIn
  exact .bucketMessage h (fun _ => .ite h.consume.raise h.acceptRun)

theorem takeEarly {e : Nat × Rx} (h : d₀.Leads d) : d₀.Leads (d.takeEarly e) := by
  unfold Dev.takeEarly
  split
  · exact h.sumIn
  · exact h.resultIn
  · exact h.rerunAsked
  · exact h.rerunIn
  · exact h.keepEarly

theorem replayEarly {k : Nat} (h : d₀.Leads d) : d₀.Leads (Dev.replayEarly k d) := by
  induction k generalizing d with
  | zero => exact h
  | succ k ih =>
    unfold Dev.replayEarly
    extract_lets l d1
    have h1 : d₀.Leads d1 := .foldl h.setCtl fun _ _ h => h.takeEarly
    exact .ite (ih h1) h1

theorem settleEarly (h : d₀.Leads d) : d₀.Leads d.settleEarly := by
  unfold Dev.settleEarly
  exact h.replayEarly

theorem readEntries {b : List Byte} (h : d₀.Leads d) : d₀.Leads (d.readEntries b).2 := by
  unfold Dev.readEntries
  exact h.read

theorem firstRun {chain bucket : Nat} (h : d₀.Leads d) : d₀.Leads (d.firstRun chain bucket) := by
  unfold Dev.firstRun
  extract_lets _ d1
  have h1 : d₀.Leads d1 := h.setBucket
  exact .ite h.startRun (.ite h1.issueRun h1.startRun)

theorem reducePlan {r : Nat} {x : Desc} (h : d₀.Leads d) : d₀.Leads (Plan.left ReduceWork.d d (d.reducePlan r x)) := by
  unfold Dev.reducePlan
  extract_lets _ _ _ _ _ t g
  have ht : d₀.Leads t.2 := h.readEntries
  have hg : d₀.Leads g.2 := ht.read
  split
  · exact h
  · split
    · exact h
    · split
      · exact h
      · split
        · exact hg.poisonedRead
        · split
          · exact hg.poisonedRead
          · split
            · exact h
            · split
              · exact hg
              · split
                · exact hg
                · exact hg

theorem reduceGo {w : ReduceWork} {r : Nat} {x : Desc} (h : d₀.Leads w.d) : d₀.Leads (reduceGo r x w) := by
  unfold Dev.reduceGo
  extract_lets _ a _ d1 d2 d3
  have ha : d₀.Leads a.2 := h.start
  have h1 : d₀.Leads d1 := ha.setTxn
  have h2 : d₀.Leads d2 := h1.setCtl
  have h3 : d₀.Leads d3 := by
    unfold d3
    split
    · exact h2.localPhase
    · exact h2
  exact h3.firstRun.checkBucket.settleEarly

theorem reduceHead {r : Nat} {x : Desc} (h : d₀.Leads d) : d₀.Leads (d.reduceHead r x) := by
  unfold Dev.reduceHead
  exact .follow h.reducePlan (fun _ h => h.reduceGo)

theorem updateOne {m : Nat} {b : Bucket} {g : Nat} (h : d₀.Leads d) : d₀.Leads (d.updateOne m b g) := by
  unfold Dev.updateOne
  extract_lets
  split
  · exact h
  · extract_lets w mo re _ _ _ d1 d2 d3
    have hw : d₀.Leads w.2 := h.readGroup
    have hmo : d₀.Leads mo.2 := hw.readGroup
    have hre : d₀.Leads re.2 := hmo.readGroup
    have h1 : d₀.Leads d1 := hre.writeUnits.writeUnits
    have h2 : d₀.Leads d2 := h1.setMdie
    have h3 : d₀.Leads d3 := .ite h2.consume (.ite h2.consume (.ite h2.consume h2))
    exact h3.setBucket

theorem hostPoison {k a : Nat} {bs : List PB} (h : d₀.Leads d) : d₀.Leads (Dev.hostPoison k d a bs) := by
  induction k generalizing d a bs with
  | zero => exact h
  | succ k ih =>
    unfold Dev.hostPoison
    split
    · exact h
    · exact ih (.ite h.consume h)

theorem degrade (h : d₀.Leads d) : d₀.Leads d.degrade := by
  unfold Dev.degrade
  exact h.logEv

theorem rowFault {k : Nat} (h : d₀.Leads d) : d₀.Leads (d.rowFault k) := by
  unfold Dev.rowFault
  extract_lets _ _ _ _ _ _ d1
  have h1 : d₀.Leads d1 := .ite h.setMdie h
  exact .ite h (.ite (h.of_eq rfl rfl) (.ite h1.degrade (.ite h1 (h1.of_eq rfl rfl))))

theorem moveSector {src dst : Nat} (h : d₀.Leads d) : d₀.Leads (d.moveSector src dst) := by
  unfold Dev.moveSector
  extract_lets v
  have hv : d₀.Leads v.2 := h.readKey
  exact hv.writeFull

theorem dropLines {granule : Nat} (h : d₀.Leads d) : d₀.Leads (d.dropLines granule) := by
  unfold Dev.dropLines
  exact .foldl h (fun _ _ h => h.setMdie)

theorem scrubAt {k : Nat} (h : d₀.Leads d) : d₀.Leads (d.scrubAt k) := by
  unfold Dev.scrubAt
  exact .ite h h.readKey

theorem upset {k mask : Nat} (h : d₀.Leads d) : d₀.Leads (d.upset k mask) := by
  unfold Dev.upset
  split
  · exact h
  · extract_lets
    exact h.storeMem rfl rfl

theorem discardLine {k : Nat} (h : d₀.Leads d) : d₀.Leads (d.discardLine k) := by
  unfold Dev.discardLine
  exact h.setMdie

theorem upsetRead {k mask : Nat} (h : d₀.Leads d) : d₀.Leads (d.upsetRead k mask) := by
  unfold Dev.upsetRead
  split
  · exact h
  · split
    · exact .ite h.upset h.discardLine
    · exact h.upset

theorem strike {n : Strike} (h : d₀.Leads d) : d₀.Leads (d.strike n) := by
  unfold Dev.strike
  split
  · exact h.of_eq rfl rfl
  · split
    · exact h.setMdie
    · exact h
  · exact .ite h.upset h

theorem gatherVersion {uid i version : Nat} (h : d₀.Leads d) : d₀.Leads (d.gatherVersion uid i version) := by
  unfold Dev.gatherVersion
  exact h.setAct

theorem gatherDone {uid : Nat} (h : d₀.Leads d) : d₀.Leads (d.gatherDone uid) := by
  unfold Dev.gatherDone
  split
  · exact h
  · split
    · exact h
    · extract_lets _ d1 d2
      have h1 : d₀.Leads d1 := h.setAct
      have h2 : d₀.Leads d2 := .ite h1.setCtl.logEv.workFails h1
      exact h2.tryFinish

theorem gatherEntry {a : Active} {stride dst : Nat} {p : Nat × Nat} (h : d₀.Leads d) : d₀.Leads (d.gatherEntry a stride dst p) := by
  unfold Dev.gatherEntry
  extract_lets _ _ d0 v
  have h0 : d₀.Leads d0 := .ite h.keep h
  have hv : d₀.Leads v.2 := h0.read
  exact .ite hv.keep.gatherVersion (.foldl h0 (fun _ _ h => h.send.setAct))

theorem ownerGone {a : Active} (h : d₀.Leads d) : d₀.Leads (d.ownerGone a) := by
  unfold Dev.ownerGone
  exact h.finish.workFails

theorem gatherPlan {r : Nat} {x : Desc} (h : d₀.Leads d) : d₀.Leads (Plan.left Prod.snd d (d.gatherPlan r x)) := by
  unfold Dev.gatherPlan
  extract_lets _ _ _ exps e
  have he : d₀.Leads e.2 := by
    unfold e
    clear_value exps
    split
    · exact h.read
    · exact h
  split
  · exact h
  · split
    · exact h
    · split
      · exact h
      · split
        · exact he.poisonedRead
        · split
          · exact he
          · exact he

theorem gatherGo {r : Nat} {x : Desc} {w : List PB × Dev} (h : d₀.Leads w.2) : d₀.Leads (Dev.gatherGo r x w) := by
  unfold Dev.gatherGo
  extract_lets b n a want d1
  have h1 : d₀.Leads d1 := h.start.setAct
  exact .ite h1.ownerGone (.gatherDone (.foldl h1 fun _ _ h => h.gatherEntry))

theorem gatherHead {r : Nat} {x : Desc} (h : d₀.Leads d) : d₀.Leads (d.gatherHead r x) := by
  unfold Dev.gatherHead
  exact .withTables h (.follow h.gatherPlan (fun _ h => h.gatherGo))

theorem serve {h' : HeldReq} (h : d₀.Leads d) : d₀.Leads (d.serve h') := by
  unfold Dev.serve
  refine .withTables h ?_
  extract_lets _ _ _ _ _ v
  have hv : d₀.Leads v.2 := h.read
  exact .ite h.send hv.send.noteServed

theorem scatterEntry {a : Active} {src : Nat} {p : Nat × Nat} (h : d₀.Leads d) : d₀.Leads (d.scatterEntry a src p) := by
  unfold Dev.scatterEntry
  extract_lets _ v d1
  have hv : d₀.Leads v.2 := h.read
  have h1 : d₀.Leads d1 := by
    unfold d1
    refine .foldl h (fun _ _ h => ?_)
    extract_lets v'
    have hv' : d₀.Leads v'.2 := h.read
    exact hv'.send
  exact .ite hv.keep h1.setAct.noteLeft

theorem scatterPlan {r : Nat} {x : Desc} (h : d₀.Leads d) : d₀.Leads (Plan.left (fun _ => d) d (d.scatterPlan r x)) := by
  unfold Dev.scatterPlan
  extract_lets
  split
  · exact h
  · split
    · exact h
    · split
      · exact h
      · split
        · exact h
        · exact h

theorem scatterGo {r : Nat} {x : Desc} (h : d₀.Leads d) : d₀.Leads (d.scatterGo r x) := by
  unfold Dev.scatterGo
  extract_lets _ a d1
  have ha : d₀.Leads a.2 := h.start
  have h1 : d₀.Leads d1 := .foldl ha (fun _ _ h => h.scatterEntry)
  exact .ite ha.ownerGone h1.setAct.tryFinish

theorem scatterHead {r : Nat} {x : Desc} (h : d₀.Leads d) : d₀.Leads (d.scatterHead r x) := by
  unfold Dev.scatterHead
  exact .withTables h (.follow h.scatterPlan (fun _ h => h.scatterGo))

end Dev.Leads
end Sys2Proof.Machine
end

section
/-! SUPPORT. The commit of a step, the lifelines and the fabric. -/
namespace Sys2Proof.Machine
open Sys2Proof

namespace Dev.Leads
variable {d₀ d e : Dev}

theorem copySector {a : Nat} (h : d₀.Leads d) : d₀.Leads (d.copySector a) := by
  unfold Dev.copySector
  extract_lets v
  have hv : d₀.Leads v.2 := h.readSec
  split
  · exact hv.writeFull
  · exact hv

theorem copyForward (h : d₀.Leads d) : d₀.Leads d.copyForward := by
  unfold Dev.copyForward
  exact .foldl h (fun _ _ h => .foldl h (fun _ _ h => .ite h (.foldl h (fun _ _ h => h.copySector))))

theorem flip (h : d₀.Leads d) : d₀.Leads d.flip := by
  unfold Dev.flip
  exact h.setCtl

theorem clearCounters (h : d₀.Leads d) : d₀.Leads d.clearCounters := h.of_eq rfl rfl

theorem openStep (h : d₀.Leads d) : d₀.Leads d.openStep := by
  unfold Dev.openStep
  extract_lets d1 t again d2 d3 d4
  have h2 : d₀.Leads d2 := h.clearCounters.setCtl
  clear_value d2
  have h3 : d₀.Leads d3 :=
    h2.mapPeers (f := fun _ p => { p with abortStep := if p.abortAgain.isSome then t.step else 0, abortAgain := none }) rfl rfl fun _ _ h => h
  clear_value d3 again
  have h4 : d₀.Leads d4 := .ite h3.setState h3
  split
  · exact h4.raise
  · exact h4.raise
  · exact h4

theorem txnBeginHead {x : Desc} (h : d₀.Leads d) : d₀.Leads (d.txnBeginHead x) := by
  unfold Dev.txnBeginHead
  extract_lets
  exact .ite h (.ite h.refuseHead (.ite h.refuseHead h.refuseHead.setRing.openStep))

theorem bumpWritten (h : d₀.Leads d) : d₀.Leads d.bumpWritten := by
  unfold Dev.bumpWritten
  exact .foldl h (fun _ _ h => .ite h.bump h)

theorem writeRecord {step : Nat} {bytes : List Byte} (h : d₀.Leads d) : d₀.Leads (d.writeRecord step bytes) := by
  unfold Dev.writeRecord
  extract_lets _ _ d1
  have h1 : d₀.Leads d1 := h.writeAs
  exact h1.setCtl

theorem closeStep (h : d₀.Leads d) : d₀.Leads d.closeStep := h.of_eq rfl rfl

theorem endTxnEnds {status detail : Nat} (h : d₀.Leads d) : d₀.Leads (d.endTxnEnds status detail) := by
  unfold Dev.endTxnEnds
  exact .foldl h (fun _ _ h => h.finish)

theorem closeCommit {t : Txn} {f : Fixed} (h : d₀.Leads d) : d₀.Leads (d.closeCommit t f) := by
  unfold Dev.closeCommit
  extract_lets colony d1 st d2 rec' c d3 d4 d5 d6
  have h1 : d₀.Leads d1 := h.flushAll.copyForward.bumpWritten
  clear_value d1
  have h2 : d₀.Leads d2 := h1.setCtl
  split
  · exact enterFault (h1.of_eq rfl rfl)
  · have h3 : d₀.Leads d3 := .foldl h2 fun _ _ h => h.logEv
    have h4 : d₀.Leads d4 := h3.writeRecord.flip
    have h5 : d₀.Leads d5 := h4.logEv.closeStep
    have h6 : d₀.Leads d6 := h5.setCtl
    refine .endTxnEnds ?_
    split
    · exact h6.finish
    · exact h6

theorem partition (h : d₀.Leads d) : d₀.Leads d.partition := by
  unfold Dev.partition
  exact h.abortStep.strand

theorem imageBody (h : d₀.Leads d) : d₀.Leads d.imageBody.2 := by
  unfold Dev.imageBody
  refine .foldlSnd h (fun _ _ h => ?_)
  extract_lets v
  have hv : d₀.Leads v.2 := h.read
  exact hv

theorem sendImage {rcv ward step uid : Nat} {header image : List PB} {lo hi len : Nat}
    (h : d₀.Leads d) : d₀.Leads (d.sendImage rcv ward step uid header image lo hi len) := by
  unfold Dev.sendImage
  extract_lets d1 d2
  have h1 : d₀.Leads d1 := h.send
  have h2 : d₀.Leads d2 := .foldl h1 (fun _ _ h => h.send)
  exact h2.send

theorem buddyDrain {health : Nat} (h : d₀.Leads d) : d₀.Leads (d.buddyDrain health) := by
  unfold Dev.buddyDrain
  split
  · exact h
  · extract_lets v hdr x read d1 image
    have hv : d₀.Leads v.2 := h.imageBody
    have hread : d₀.Leads read := hv
    have h1 : d₀.Leads d1 := .setCtl (.of_eq hread rfl rfl)
    exact .ite h1.endDrain h1.sendImage

theorem hostDrain {health : Nat} {uid : Option Nat} (h : d₀.Leads d) : d₀.Leads (d.hostDrain health uid) := by
  unfold Dev.hostDrain
  extract_lets _ d1 _ _ v _ d1'
  have h1 : d₀.Leads d1 := h.logEv
  have hv : d₀.Leads v.2 := h.imageBody
  have h1' : d₀.Leads d1' := hv.setCtl
  split
  · split
    · exact h1.finish
    · exact h1
  · exact .ite h1'.endDrain h1'.toHost

theorem dueDrains {f : Fixed} (h : d₀.Leads d) : d₀.Leads (d.dueDrains f) := by
  unfold Dev.dueDrains
  extract_lets d1
  have h1 : d₀.Leads d1 := .ite h.buddyDrain h
  exact .ite h1.hostDrain h1

theorem putImage {a : Nat} {bs : List PB} (h : d₀.Leads d) : d₀.Leads (d.putImage a bs) := by
  unfold Dev.putImage
  exact h.writeAs

theorem setWard {w : Ward} (h : d₀.Leads d) : d₀.Leads (d.setWard w) := by
  unfold Dev.setWard
  exact h.setCtl

theorem wardBegin {m : Rx} (h : d₀.Leads d) : d₀.Leads (d.wardBegin m) := by
  unfold Dev.wardBegin
  split
  · exact h.putImage.setWard
  · exact h

theorem wardData {m : Rx} (h : d₀.Leads d) : d₀.Leads (d.wardData m) := by
  unfold Dev.wardData
  split
  · exact .ite h.setWard h.putImage.setWard
  · exact h

theorem wardEnd {m : Rx} (h : d₀.Leads d) : d₀.Leads (d.wardEnd m) := by
  unfold Dev.wardEnd
  split
  · extract_lets _ body _ d1 h'
    have hbody : d₀.Leads body.2 := h.read
    have h1 : d₀.Leads d1 := hbody.setCtl
    have hh' : d₀.Leads h'.2 := h1.read
    exact .ite hh'.putImage h1.logEv
  · exact h

theorem writeImage {image : List PB} (h : d₀.Leads d) : d₀.Leads (d.writeImage image) := by
  unfold Dev.writeImage
  exact .foldl h (fun _ _ h => h.writeAs)

theorem takeVersions {image : List Byte} (h : d₀.Leads d) : d₀.Leads (d.takeVersions image) := by
  unfold Dev.takeVersions
  exact .foldl h (fun _ _ h => h.setShard)

theorem logAfter {step : Nat} {plain : Bool} (h : d₀.Leads d) : d₀.Leads (d.logAfter step plain) := by
  unfold Dev.logAfter
  exact .ite h.setCtl h.setCtl

theorem restoreFails {uid step : Nat} (h : d₀.Leads d) : d₀.Leads (d.restoreFails uid step) := by
  unfold Dev.restoreFails
  exact h.setCtl.lifelineEnded.finish

theorem restoreDone {uid : Nat} {image : List PB} (h : d₀.Leads d) : d₀.Leads (d.restoreDone uid image) := by
  unfold Dev.restoreDone
  split
  · exact h
  · extract_lets _ _ d1 d2 d3
    have h1 : d₀.Leads d1 := h.setCtl.writeImage
    have h2 : d₀.Leads d2 := h1.takeVersions.logAfter
    have h3 : d₀.Leads d3 := h2.flip.setCtl
    exact .ite h3.lifelineEnded.finish h.restoreFails

theorem askHost {uid addr off total : Nat} (h : d₀.Leads d) : d₀.Leads (d.askHost uid addr off total) := by
  unfold Dev.askHost
  extract_lets
  exact h.setHost.toHost

theorem keepImage {uid : Nat} {bs : List PB} (h : d₀.Leads d) : d₀.Leads (d.keepImage uid bs) := by
  unfold Dev.keepImage
  exact h.setCtl

theorem readLost {r : HostRead} (h : d₀.Leads d) : d₀.Leads (d.readLost r) := by
  unfold Dev.readLost
  split
  · exact h.restoreFails
  · exact h

theorem takeRead {tag : Nat} (h : d₀.Leads d) : d₀.Leads (d.takeRead tag).2 := by
  unfold Dev.takeRead
  extract_lets
  dsimp only
  exact h.setHost

theorem answerOn {p : Nat} (h : d₀.Leads d) : d₀.Leads (d.answerOn p) := by
  unfold Dev.answerOn
  extract_lets _ d1
  have h1 : d₀.Leads d1 := h.pump
  exact .ite h1.setPort h1

theorem portDown {p cause event : Nat} (h : d₀.Leads d) : d₀.Leads (d.portDown p cause event) := by
  unfold Dev.portDown
  split
  · exact h
  · extract_lets d1
    have h1 : d₀.Leads d1 := h.setPort.logEv.health
    exact .foldl h1 (fun _ _ h => h.depart)

theorem train {p : Nat} (h : d₀.Leads d) : d₀.Leads (d.train p) := by
  unfold Dev.train
  exact .ite h.portDown.setPort h

theorem retrainNext (h : d₀.Leads d) : d₀.Leads d.retrainNext := by
  unfold Dev.retrainNext
  split
  · exact h
  · split
    · exact h.portDown
    · exact h

theorem widthFails {p : Nat} (h : d₀.Leads d) : d₀.Leads (d.widthFails p) := by
  unfold Dev.widthFails
  exact .ite h.setPort.retrainNext h.portDown

theorem replay {p : Nat} (h : d₀.Leads d) : d₀.Leads (d.replay p) := by
  unfold Dev.replay
  exact .ite h (.ite h.portDown h.setPort.health)

theorem widthAsked {p w g q : Nat} (h : d₀.Leads d) : d₀.Leads (d.widthAsked p w g q) := by
  unfold Dev.widthAsked
  split
  · exact h
  · split
    · exact .ite h.setPort h.widthFails
    · exact h.setPort

theorem widthTaken {p w g q : Nat} (h : d₀.Leads d) : d₀.Leads (d.widthTaken p w g q) := by
  unfold Dev.widthTaken
  exact .ite h.setPort.pump h

theorem askWidth {p w : Nat} (h : d₀.Leads d) : d₀.Leads (d.askWidth p w) := by
  unfold Dev.askWidth
  extract_lets
  exact .ite h h.setPort

theorem chunkIn {p : Nat} {c : Chunk} (h : d₀.Leads d) : d₀.Leads (d.chunkIn p c) := by
  unfold Dev.chunkIn
  extract_lets _ _ d1 d2 _ d3
  have h1 : d₀.Leads d1 := h.setPort
  have h2 : d₀.Leads d2 := .ite h1.portErr h1
  have h3 : d₀.Leads d3 := h2.setPort
  exact .ite h2 (.ite h2.setPort (.ite (h3.of_eq rfl rfl) h3.portErr))

theorem framePayload {p : Nat} {s : Slot} {chunks : List Chunk} (h : d₀.Leads d) : d₀.Leads (d.framePayload p s chunks) := by
  unfold Dev.framePayload
  extract_lets
  exact .ite h.widthAsked (.ite h.widthTaken (.ite h (.ite (.foldl h.setPort (fun _ _ h => h.chunkIn)) (.ite h.setPort h))))

theorem frameOk {p : Nat} {s : Slot} {chunks : List Chunk} (h : d₀.Leads d) : d₀.Leads (d.frameOk p s chunks) := by
  unfold Dev.frameOk
  split
  · exact h.portDown
  · extract_lets d1 d2 d3
    have h1 : d₀.Leads d1 := h.setPort
    have h2 : d₀.Leads d2 := .ite h1.replay h1
    have h3 : d₀.Leads d3 := h2.framePayload
    exact h3.answerOn.setPort

end Dev.Leads
end Sys2Proof.Machine
end

section
/-! SUPPORT. The power path, the load of a pattern and the end of a step. -/
namespace Sys2Proof.Machine
open Sys2Proof

namespace Dev.Leads
variable {d₀ d e : Dev}

theorem supply {s : State} {bits : Nat} (h : d₀.Leads s.d) : d₀.Leads (s.supply bits).d := by
  unfold State.supply
  exact h.logEv

theorem healthState {s : State} {n : Nat} (h : d₀.Leads s.d) : d₀.Leads (s.health n).d := by
  unfold State.health
  exact h.health

theorem toMain {s : State} (h : d₀.Leads s.d) : d₀.Leads s.toMain.d := by
  unfold State.toMain
  dsimp only
  exact h.setCtl

theorem drawMain {s : State} (h : d₀.Leads s.d) : d₀.Leads s.drawMain.d := by
  unfold State.drawMain
  split
  · exact h.toMain
  · exact h

theorem cold : d₀.Leads d.cold := of_noPeers (fun _ => rfl) rfl

theorem powerOff {s : State} {cause mainCv auxCv : Nat} {opened trip : Bool} (h : d₀.Leads s.d) :
    d₀.Leads (s.powerOff cause opened trip mainCv auxCv).d := by
  unfold State.powerOff
  split
  · exact h
  · exact cold

theorem allMdies {f : MDie → MDie} (h : d₀.Leads d) : d₀.Leads (d.allMdies f) := by
  unfold Dev.allMdies
  exact .foldl h (fun _ _ h => h.setMdie)

theorem fillSram (h : d₀.Leads d) : d₀.Leads d.fillSram := by
  unfold Dev.fillSram
  extract_lets
  exact h.fillMem rfl rfl

theorem enterSwatch {s : State} (h : d₀.Leads s.d) : d₀.Leads s.enterSwatch.d := by
  unfold State.enterSwatch
  exact .fillSram (.allMdies (.ite h h.setState))

theorem startUp {s : State} (h : d₀.Leads s.d) : d₀.Leads s.startUp.d := by
  unfold State.startUp
  extract_lets pwr s1
  have h1 : d₀.Leads s1.d := ite h h.setState
  split
  · exact h1.setState
  · split
    · exact h1.enterSwatch
    · exact h1

theorem allPorts {f : Nat → Port → Port} (h : d₀.Leads d) : d₀.Leads (d.allPorts f) := by
  unfold Dev.allPorts
  exact .foldl h (fun _ _ h => h.setPort)

theorem abandonLoad (h : d₀.Leads d) : d₀.Leads d.abandonLoad := by
  unfold Dev.abandonLoad
  split
  · split
    · exact h
    · extract_lets d1
      have h1 : d₀.Leads d1 := h.setCtl
      exact .ite h1.setCtl h1.finish
  · exact h

theorem switchOver {s : State} (h : d₀.Leads s.d) : d₀.Leads s.switchOver.d := by
  unfold State.switchOver
  extract_lets d1
  have h1 : d₀.Leads d1 := .ite h.abandonLoad.raise h.flushAll.writeBack
  dsimp only
  exact h1.setCtl

theorem leaveHold {st : Nat} (h : d₀.Leads d) : d₀.Leads (d.leaveHold st) := by
  unfold Dev.leaveHold
  extract_lets d1
  have h1 : d₀.Leads d1 := h.setState
  exact .ite h1.strand h1.sendState

theorem returnMain {s : State} (h : d₀.Leads s.d) : d₀.Leads s.returnMain.d := by
  unfold State.returnMain
  extract_lets s1
  have hs1 : d₀.Leads s1.d := h.toMain
  exact hs1.allPorts.leaveHold.tryFinishAll

theorem warm {onAux : Bool} (h : d₀.Leads d) : d₀.Leads (d.warm onAux) := of_noPeers (fun hc => Mem.fillSram_canonical (h.canonical hc)) rfl

theorem stopStartUp {s : State} (h : d₀.Leads s.d) : d₀.Leads s.stopStartUp.d := of_eq (d := s.d.warm true) h.warm rfl rfl

theorem mainGone {s : State} (h : d₀.Leads s.d) : d₀.Leads s.mainGone.d := by
  unfold State.mainGone
  extract_lets
  split
  · exact h.stopStartUp
  · split
    · exact h
    · exact h.switchOver

theorem beginHold {s : State} (h : d₀.Leads s.d) : d₀.Leads s.beginHold.d := by
  unfold State.beginHold
  split
  · dsimp only
    exact h.abandonLoad.flushAll.allPorts
  · exact h

theorem forceAux {s : State} (h : d₀.Leads s.d) : d₀.Leads s.forceAux.d := by
  unfold State.forceAux
  extract_lets s1 s2 pwr s3
  have h1 : d₀.Leads s1.d := h.drawMain
  have h2 : d₀.Leads s2.d := h1.supply
  have h3 : d₀.Leads s3.d := h2
  split
  · exact h1
  · split
    · exact h2
    · split
      · split
        · exact h3
        · exact h3.switchOver
      · exact mainGone (s := { s2 with pwr := { s2.pwr with qualified := false } }) h2

theorem forceReturn {s : State} (h : d₀.Leads s.d) : d₀.Leads s.forceReturn.d := by
  unfold State.forceReturn
  split
  · exact h.returnMain
  · exact h

theorem flrRegisters {st : Nat} (h : d₀.Leads d) : d₀.Leads (d.flrRegisters st) := of_noPeers h.canonical rfl

theorem peers_allMdies (d : Dev) (f : MDie → MDie) : (d.allMdies f).peers = d.peers := foldl_keeps (·.peers) _ (by simp) _ _

theorem flrOrders {st : Nat} (h : d₀.Leads d) : d₀.Leads (d.flrOrders st) := by
  unfold Dev.flrOrders
  extract_lets d1 d2 d3 cleared
  have h2 : d₀.Leads d2 := h.setHost.abandonLoad.drainsEnd.sendLeave
  have h3 : d₀.Leads d3 := h2.flushAll.writeBack
  clear_value d3
  have hpeers : cleared.peers = [] := peers_allMdies (d3.flrRegisters st) _
  clear_value cleared
  exact of_noPeers (fun hc => Mem.fillSram_canonical (h3.canonical hc)) hpeers

theorem release (h : d₀.Leads d) : d₀.Leads d.release := by
  unfold Dev.release
  split
  · exact h
  · extract_lets d1
    have h1 : d₀.Leads d1 := h.setHost
    exact .foldl h1 (fun _ _ h => h.deliver)

theorem readContainer {s : State} {kinds : List Nat} {base : Nat} (h : d₀.Leads s.d) : d₀.Leads (s.readContainer kinds base).2 := by
  unfold State.readContainer
  extract_lets d h' head
  have h : d₀.Leads d := h
  have hh' : d₀.Leads h'.2 := h.read
  split
  · exact h
  · clear_value head
    split
    · exact hh'
    · split
      · exact hh'
      · extract_lets v
        have hv : d₀.Leads v.2 := hh'.read
        exact hv

theorem rebind {tiles : List TileBind} {bind : List Nat} {fresh : Nat → Bool} (h : d₀.Leads d) : d₀.Leads (d.rebind tiles bind fresh) := by
  unfold Dev.rebind
  extract_lets d1 keep mem
  have h1 : d₀.Leads d1 := .foldl h fun _ _ h => .ite h.setTile h
  clear_value d1
  exact h1.of_mem (fun hc => Mem.filter_canonical hc keep) rfl

theorem setCache {steps : List Nat} (h : d₀.Leads d) : d₀.Leads (d.setCache steps) := by
  unfold Dev.setCache
  refine .foldl h (fun _ _ h => ?_)
  extract_lets
  exact .ite h h.writeBackOf.setMdie

theorem freshPeer_state (p : Peer) : (freshPeer p).state = 0 := rfl

theorem install {c : Checked} {bind : List Nat} {sects : Tab Sect} {digest : List Byte} {own : Nat} (h : d₀.Leads d) :
    d₀.Leads (d.install c bind sects digest own) := by
  unfold Dev.install
  extract_lets d1 d2 pattern d3 ps
  have h3 : d₀.Leads d3 := h.drainsEnd.rebind.setCache.setCtl
  clear_value d3
  have hps : d₀.Leads { d3 with peers := ps } := h3.mapPeers (f := fun _ => freshPeer) rfl rfl fun _ p _ => by simp [freshPeer_state]
  exact (hps.setPeer (a := own) (f := fun p => { p with state := 1 }) fun _ _ => by simp).of_eq rfl rfl

theorem loadEnds {e : PatErr} {st : Nat} (h : d₀.Leads d) : d₀.Leads (d.loadEnds e st) := by
  unfold Dev.loadEnds
  exact h.setCtl.setState

theorem finishLoad {s : State} {l : Loading} (h : d₀.Leads s.d) : d₀.Leads (s.finishLoad l).d := by
  unfold State.finishLoad
  extract_lets v r
  have hv : d₀.Leads v.2 := h.readContainer
  clear_value r
  split
  · exact hv.loadEnds
  · exact hv.install.loadEnds

theorem beginLoad {l : Loading} (h : d₀.Leads d) : d₀.Leads (d.beginLoad l) := by
  unfold Dev.beginLoad
  exact h.setCtl.setState

theorem askLoad (h : d₀.Leads d) : d₀.Leads d.askLoad := by
  unfold Dev.askLoad
  exact .ite h.beginLoad h.setCtl

theorem runLoad {s : State} (h : d₀.Leads s.d) : d₀.Leads s.runLoad.d := by
  unfold State.runLoad
  split
  · split
    · exact h.finishLoad
    · exact h
  · exact h

theorem moultShards {c : Checked} (h : d₀.Leads d) : d₀.Leads (d.moultShards c) := by
  unfold Dev.moultShards
  extract_lets _ base
  have hbase : d₀.Leads base := h.setCtl
  exact hbase.of_eq rfl rfl

theorem moultStructure {k : Container} {c : Checked} {old : Pattern} {bind : List Nat} {sects : Tab Sect} (h : d₀.Leads d) :
    d₀.Leads (d.moultStructure k c old bind sects) := by
  unfold Dev.moultStructure
  extract_lets fresh hit moved d1 d2 digest pattern d3 d4 d5 d6
  have h3 : d₀.Leads d3 := h.rebind.setCache.setCtl
  have h4 : d₀.Leads d4 := .ite h3.moultShards h3
  clear_value d4
  have h5 : d₀.Leads d5 := by
    refine h4.mapPeers (f := fun a p => if a < c.pattern.members.length then p else freshPeer p) rfl rfl fun a p hp => ?_
    split
    · exact hp
    · simp [freshPeer_state]
  have h6 : d₀.Leads d6 := .foldl h5 fun _ _ h => .ite h.depart h
  exact h6.sendState

theorem finishMoult {s : State} {l : Loading} (h : d₀.Leads s.d) : d₀.Leads (s.finishMoult l).d := by
  unfold State.finishMoult
  extract_lets v back refused
  have hv : d₀.Leads v.2 := h.readContainer
  clear_value v
  have hback {e : Dev} (status detail : Nat) (h : d₀.Leads e) : d₀.Leads (back e status detail).d := by
    unfold back
    dsimp only
    exact h.setCtl.setState.finish
  split
  · exact hback _ _ hv
  · split
    · exact hback _ _ hv
    · split
      · exact hback _ _ hv
      · exact hback _ _ hv.moultStructure

theorem runMoult {s : State} (h : d₀.Leads s.d) : d₀.Leads s.runMoult.d := by
  unfold State.runMoult
  split
  · split
    · exact h.finishMoult
    · exact h
  · exact h

theorem moultHead {x : Desc} (h : d₀.Leads d) : d₀.Leads (d.moultHead x) := by
  unfold Dev.moultHead
  split
  · exact h
  · split
    · exact h.refuseHead
    · split
      · exact h
      · extract_lets _ st
        have hst : d₀.Leads st.2 := h.start
        exact .ite h.refuseHead hst.beginLoad

theorem sendCommitting {t : Txn} {h' : Nat} (h : d₀.Leads d) : d₀.Leads (d.sendCommitting t h') := by
  unfold Dev.sendCommitting
  exact .foldl h (fun _ _ h => h.send)

theorem commitStep {t : Txn} {own : Nat} (h : d₀.Leads d) : d₀.Leads (d.commitStep t own) := by
  unfold Dev.commitStep
  split
  · exact h.partition
  · extract_lets _ d1
    have h1 : d₀.Leads d1 := h.sendCommitting.closeCommit
    exact .ite h1.dueDrains h1

theorem commitHead {x : Desc} (h : d₀.Leads d) : d₀.Leads (d.commitHead x) := by
  unfold Dev.commitHead
  split
  · exact h.refuseHead
  · extract_lets a
    have ha : d₀.Leads a.2 := h.start
    exact ha.setAct.setRing

theorem tryCommit {own : Nat} (h : d₀.Leads d) : d₀.Leads (d.tryCommit own) := by
  unfold Dev.tryCommit
  split
  · exact h
  · exact .ite h h.commitStep

theorem closeAbort (h : d₀.Leads d) : d₀.Leads d.closeAbort := by
  unfold Dev.closeAbort
  extract_lets x done
  split
  · exact h.finish.setTxn
  · split
    · exact h.setTxn
    · split
      · split
        · exact h.refuseHead.setRing.setTxn
        · exact h
      · exact h

theorem peerAborts {m : Rx} (h : d₀.Leads d) : d₀.Leads (d.peerAborts m) := by
  unfold Dev.peerAborts
  extract_lets held later
  have hheld : d₀.Leads (held d) := .setPeer h fun _ h => h
  have hlater : d₀.Leads (later d) := .setPeer h fun _ h => h
  split
  · exact hlater
  · split
    · exact hlater
    · split
      · exact .ite hlater hheld
      · split
        · exact .setPeer h fun _ h => h
        · exact hheld.raise

end Dev.Leads
end Sys2Proof.Machine
end

section
/-! SUPPORT. What a PERMUTE, the register accesses of the planes and a routed SCATTER leave of memory and of the peers. -/
namespace Sys2Proof.Machine
open Sys2Proof

namespace Dev.Leads
variable {d₀ d e : Dev}

theorem permuteEnds {uid status : Nat} (h : d₀.Leads d) : d₀.Leads (d.permuteEnds uid status) := by
  unfold Dev.permuteEnds
  exact h.setCtl.finish

theorem sendMove {uid gen rcv : Nat} {m : Move} {bs : List PB} (h : d₀.Leads d) : d₀.Leads (d.sendMove uid gen rcv m bs) := by
  unfold Dev.sendMove
  exact .foldl h (fun _ _ h => h.send)

theorem noteRead {rcv : Nat} {m : Move} {addr : Nat} (h : d₀.Leads d) : d₀.Leads (d.noteRead rcv m addr) := by
  unfold Dev.noteRead
  exact h.setCtl

theorem readMove {x off n : Nat} {v : List PB × Dev} (h : d₀.Leads d) (hv : d.readMove x off n = some v) : d₀.Leads v.2 := by
  simp only [Dev.readMove] at hv
  split at hv
  · cases hv
    exact h.read
  · simp only [Option.map_eq_some_iff] at hv
    obtain ⟨a, -, rfl⟩ := hv
    exact h.read

theorem serveMoves {uid gen : Nat} {new : Tab Shard} {ms : List Move} (h : d₀.Leads d) : d₀.Leads (d.serveMoves uid gen new ms).2.2.2 := by
  unfold Dev.serveMoves
  refine .foldlFourth h fun y m h => ?_
  split
  · exact h
  · extract_lets e rcv
    have he : d₀.Leads e := h
    split
    · exact he
    · split
      · exact h
      · split
        · exact he
        · rename_i hv
          have hw := he.readMove hv
          split
          · exact hw
          · exact hw.sendMove.noteRead

theorem permuteStart {x : Desc} {image : List Byte} (h : d₀.Leads d) : d₀.Leads (d.permuteStart x image) := by
  unfold Dev.permuteStart
  extract_lets adopt gen new other old ms a uid p d1 r ws
  have h1 : d₀.Leads d1 := h.start.setCtl
  have hr : d₀.Leads r.2.2.2 := by
    unfold r
    split
    · exact h1
    · exact h1.serveMoves
  exact .ite hr.permuteEnds hr.setCtl.permuteWrites.permuteAcked

theorem permutePlan {adopt : Bool} {x : Desc} (h : d₀.Leads d) : d₀.Leads (Plan.left Prod.snd d (d.permutePlan adopt x)) := by
  unfold Dev.permutePlan
  split
  · exact h
  · extract_lets _ hdr _ _ v
    have hhdr : d₀.Leads hdr.2 := by
      unfold hdr
      split
      · exact h.read
      · exact h
    have hv : d₀.Leads v.2 := h.read
    split
    · exact h
    · split
      · exact hhdr.poisonedRead
      · split
        · exact h
        · split
          · exact h
          · split
            · exact h
            · split
              · exact hv.poisonedRead
              · split
                · exact hv
                · exact hv

theorem permuteHead {adopt : Bool} (h : d₀.Leads d) : d₀.Leads (d.permuteHead adopt) := by
  unfold Dev.permuteHead
  split
  · exact h
  · exact .follow h.permutePlan (fun _ h => h.permuteStart)

theorem activate {p : Permute} (h : d₀.Leads d) : d₀.Leads (d.activate p) := by
  unfold Dev.activate
  extract_lets
  exact h.setCtl

theorem permuteMessage {typ : Nat} {m : Rx} {f : Dev → Dev} (h : d₀.Leads d) (hf : ∀ e, d₀.Leads e → d₀.Leads (f e)) :
    d₀.Leads (d.permuteMessage typ m f) := by
  unfold Dev.permuteMessage
  extract_lets gen d1
  have h1 : d₀.Leads d1 := h.accepted
  exact .ite (h.accept hf) (.ite h1 (.ite (h.accept fun _ h => h) (.ite h1.portErr h1)))

theorem unmasked {src : Nat} (h : d₀.Leads d) : d₀.Leads (d.unmasked src) := by
  unfold Dev.unmasked
  exact .ite h h.setHost.deliver

theorem setMask {v : Nat} (h : d₀.Leads d) : d₀.Leads (d.setMask v) := by
  unfold Dev.setMask
  exact .foldl h.setHost (fun _ _ h => h.unmasked)

theorem sendPending {v : Nat} (h : d₀.Leads d) : d₀.Leads (d.sendPending v) := by
  unfold Dev.sendPending
  split
  · exact h
  · extract_lets d1
    have h1 : d₀.Leads d1 := h.setHost
    exact .ite h1.deliver h1.toHost

theorem msixWrite {w val en : Nat} (h : d₀.Leads d) : d₀.Leads (d.msixWrite w val en) := by
  unfold Dev.msixWrite
  extract_lets
  exact h.setHost.sendPending

theorem writeGlobal {off val en : Nat} (h : d₀.Leads d) : d₀.Leads (d.writeGlobal off val en) := by
  unfold Dev.writeGlobal
  exact .ite h.setMask (.ite h.setHost (.ite h.setHost (.ite h.msixWrite h)))

theorem writeRing {r o val en : Nat} (h : d₀.Leads d) : d₀.Leads (d.writeRing r o val en) := by
  unfold Dev.writeRing
  split
  · exact h.setRing
  · exact h.setRing
  · exact h.setRing
  · exact h.setRing
  · exact h.setRing
  · exact h.setRing
  · exact h

theorem writeControl {o val en : Nat} (h : d₀.Leads d) : d₀.Leads (d.writeControl o val en) := by
  unfold Dev.writeControl
  extract_lets high v
  refine .ite h.setCtl (.ite h.setCtl (.ite h.setCtl (.ite h.setCtl (.ite h.setCtl (.ite h.setCtl (.ite h.setCtl (.ite h.setCtl (.ite h.setCtl ?_))))))))
  exact .ite (.ite h.askLoad h) (.ite h.setCtl (.ite h.writeRing h))

theorem writeMdie {m g w val en : Nat} (h : d₀.Leads d) : d₀.Leads (d.writeMdie m g w val en) := by
  unfold Dev.writeMdie
  split
  · exact h.setMdie
  · exact h.setMdie
  · exact h

theorem writePortCtrl {p val en : Nat} (h : d₀.Leads d) : d₀.Leads (d.writePortCtrl p val en) := by
  unfold Dev.writePortCtrl
  extract_lets _ _ d1 d2 d3
  have h1 : d₀.Leads d1 := h.setPort
  have h2 : d₀.Leads d2 := .ite h1.portDown.setPort (.ite (.ite h1 h1.setPort) h1)
  have h3 : d₀.Leads d3 := .ite h2.askWidth h2
  exact .ite h3.train h3

theorem writePortReg {p o val en : Nat} (h : d₀.Leads d) : d₀.Leads (d.writePortReg p o val en) := by
  unfold Dev.writePortReg
  split
  · exact h.writePortCtrl
  · exact h.setPort
  · exact h.setPort
  · exact h

theorem setRoute {x e : Nat} {f : Route → Route} (h : d₀.Leads d) : d₀.Leads (d.setRoute x e f) := by
  unfold Dev.setRoute
  exact h.setCtl

theorem writeRows {src entry size slot : Nat} {ovr : Bool} {tags rows : List PB}
    (h : d₀.Leads d) : d₀.Leads (d.writeRows src entry size slot ovr tags rows) := by
  unfold Dev.writeRows
  extract_lets
  exact .ite h.write.write h.write

theorem routeRows {a : Active} {src size owner entry expert slot : Nat} {ovr : Bool} {rows : List Nat}
    (h : d₀.Leads d) : d₀.Leads (d.routeRows a src size owner entry expert slot ovr rows) := by
  unfold Dev.routeRows
  refine .foldl h (fun _ _ h => ?_)
  extract_lets _ _ v
  have hv : d₀.Leads v.2 := by
    unfold v
    refine .foldlSnd h (fun _ _ h => ?_)
    extract_lets w
    have hw : d₀.Leads w.2 := h.read
    exact hw
  exact .ite hv.writeRows hv.send

theorem routeDone {x e : Nat} (h : d₀.Leads d) : d₀.Leads (d.routeDone x e) := by
  unfold Dev.routeDone
  split
  · exact h
  · extract_lets
    exact .ite h.setAct.tryFinish h

theorem takePlacement {r : Route} {owner : Nat} {ps : List Placed} (h : d₀.Leads d) : d₀.Leads (d.takePlacement r owner ps) := by
  unfold Dev.takePlacement
  split
  · exact h
  · extract_lets b idx bytes ovf st d1 d2
    have h1 : d₀.Leads d1 := by
      refine .foldl h.read fun e q h => ?_
      extract_lets p rows first ovr rest e1 e2 e3 e4 e5
      have he1 : d₀.Leads e1 := .foldl h fun _ _ h => h.writeAs
      have he2 : d₀.Leads e2 := .foldl he1 fun _ _ h => h.writeAs
      have he3 : d₀.Leads e3 := .foldl he2 fun _ _ h => h.writeAs
      exact he3.routeRows.routeRows.setRoute
    have h2 : d₀.Leads d2 := .ite h1 h1.noteLeft
    exact h2.setRoute.routeDone

theorem countsIn {m : Rx} (h : d₀.Leads d) : d₀.Leads (d.countsIn m) := by
  unfold Dev.countsIn
  extract_lets
  split
  · exact .ite h h.keepEarly
  · exact .ite h.keepEarly (.ite h.consume.raise h.setRoute)

theorem earlyCounts (h : d₀.Leads d) : d₀.Leads d.earlyCounts := by
  unfold Dev.earlyCounts
  extract_lets
  exact .foldl h.setCtl (fun _ _ h => .ite h.countsIn h.keepEarly)

theorem bumpGiven {gave : List (List Nat)} (h : d₀.Leads d) : d₀.Leads (d.bumpGiven gave) := by
  unfold Dev.bumpGiven
  exact .foldl h (fun _ _ h => h.bump)

theorem placeRoute {r : Route} {a : Active} (h : d₀.Leads d) : d₀.Leads (d.placeRoute r a) := by
  unfold Dev.placeRoute
  extract_lets b me exps srcs countOf ovf caps pl part all overs drops far gave d1 d2 words d3 d4 d5
  have h2 : d₀.Leads d2 := .ite h.setRoute.setCtl.logEv h.setRoute.setCtl
  have h3 : d₀.Leads d3 := .foldl h2 fun _ _ h => h.send
  have h4 : d₀.Leads d4 := by
    unfold d4
    split
    · exact h3.takePlacement
    · exact h3
  have h5 : d₀.Leads d5 := .ite h4.bumpGiven h4
  exact h5.routeDone

theorem rowsBack {r : Route} {a : Active} {entry slot : Nat} {ovr : Bool} {rows : List PB}
    (h : d₀.Leads d) : d₀.Leads (d.rowsBack r a entry slot ovr rows) := by
  unfold Dev.rowsBack
  extract_lets _ d1
  have h1 : d₀.Leads d1 := by
    unfold d1
    refine .foldl h (fun _ _ h => ?_)
    split
    · exact h.writeAs.setRoute
    · exact h
  split
  · exact .ite h1.setAct.tryFinish h1
  · exact h1

theorem routeForward {a : Active} {b : RouteBlock} (h : d₀.Leads d) : d₀.Leads (d.routeForward a b) := by
  unfold Dev.routeForward
  extract_lets _ idx _ _ _ _ d1 d2 d3
  have hidx : d₀.Leads idx.2 := h.read
  have h1 : d₀.Leads d1 := hidx.setCtl
  have h2 : d₀.Leads d2 := .foldl h1 (fun _ _ h => h.writeAs)
  have h3 : d₀.Leads d3 := .foldl h2 (fun _ _ h => h.send)
  exact h3.earlyCounts

theorem returnRows {a : Active} {r : Route} {b : RouteBlock} {g : List Nat} (h : d₀.Leads d) : d₀.Leads (d.returnRows a r b g) := by
  unfold Dev.returnRows
  extract_lets
  refine .foldl h (fun _ _ h => ?_)
  extract_lets _ _ tags rows
  have htags : d₀.Leads tags.2 := by
    unfold tags
    split
    · exact h.read
    · exact h
  have hrows : d₀.Leads rows.2 := htags.read
  exact .ite hrows.rowsBack hrows.send.noteLeft

theorem earlyRows {a : Active} {size x e : Nat} (h : d₀.Leads d) : d₀.Leads (d.earlyRows a size x e) := by
  unfold Dev.earlyRows
  refine .foldl h.setCtl (fun _ _ h => ?_)
  extract_lets
  split
  · exact .ite h.noteUsed.rowsBack h.keepEarly
  · exact h.keepEarly

theorem routeReverse {a : Active} {b : RouteBlock} {r : Route} (h : d₀.Leads d) : d₀.Leads (d.routeReverse a b r) := by
  unfold Dev.routeReverse
  extract_lets _ d1 d2 d3 d4
  have h1 : d₀.Leads d1 := .foldl h (fun _ _ h => h.writeAs)
  have h2 : d₀.Leads d2 := h1.setRoute
  have h3 : d₀.Leads d3 := .foldl h2 (fun _ _ h => h.returnRows)
  have h4 : d₀.Leads d4 := by
    unfold d4
    split
    · exact .ite h3.setAct.tryFinish h3
    · exact h3
  exact h4.earlyRows

theorem routedPlan {r : Nat} {x : Desc} (h : d₀.Leads d) : d₀.Leads (Plan.left RouteWork.d d (d.routedPlan r x)) := by
  unfold Dev.routedPlan
  extract_lets _ _ v
  have hv : d₀.Leads v.2 := h.read
  split
  · exact h
  · split
    · exact h
    · split
      · exact h
      · split
        · exact hv.poisonedRead
        · split
          · exact h
          · split
            · exact hv
            · split
              · exact hv
              · split
                · exact hv
                · split
                  · exact hv
                  · exact hv

theorem routedGo {w : RouteWork} {r : Nat} {x : Desc} (h : d₀.Leads w.d) : d₀.Leads (routedGo r x w) := by
  unfold Dev.routedGo
  extract_lets _ a d1
  have ha : d₀.Leads a.2 := h.start
  have h1 : d₀.Leads d1 := ha.setAct
  split
  · exact h1.ownerGone
  · split
    · exact h1.routeReverse
    · exact h1.routeForward

theorem routedHead {r : Nat} {x : Desc} (h : d₀.Leads d) : d₀.Leads (d.routedHead r x) := by
  unfold Dev.routedHead
  exact .withTables h (.follow h.routedPlan (fun _ h => h.routedGo))

end Dev.Leads
end Sys2Proof.Machine
end

section
/-! SUPPORT. Memory stays in its canonical form: through the management core, and in every command. -/
namespace Sys2Proof.Machine
open Sys2Proof

/-- Memory that is canonical stays so. -/
def State.Tidy (s t : State) : Prop := s.d.mem.canonical = true → t.d.mem.canonical = true

/-- A command goes on, and memory that is canonical stays so until the rings settle. -/
def State.Tidies (s : State) (o : Host.Outcome State Fault Refusal) : Prop := ∃ u, o = .next (s.went u) ∧ s.Tidy u

namespace State.Tidy
variable {s t u : State}

theorem refl (s : State) : s.Tidy s := id

theorem trans (h : s.Tidy t) (k : t.Tidy u) : s.Tidy u := fun hc => k (h hc)

theorem ite {c : Prop} [Decidable c] (h : s.Tidy t) (k : s.Tidy u) : s.Tidy (if c then t else u) := by
  split
  · exact h
  · exact k

theorem of_leads (h : s.d.Leads s.d → s.d.Leads t.d) : s.Tidy t := (h (.refl s.d)).canonical

/-- A change of the planes. -/
theorem planes (d : Dev) (h : s.d.Leads d) : s.Tidy { s with d := d } := h.canonical

theorem of_work (h : t.d.work = s.d.work) : s.Tidy t := fun hc => by
  have hmem : t.d.mem = s.d.mem := congrArg Prod.fst h
  rw [hmem]
  exact hc

theorem of_kept (h : t.kept = s.kept) : s.Tidy t := of_work (State.work_of_kept h)

end State.Tidy

namespace State.Tidies
variable (s : State)

theorem planes {f : Dev → Dev} (h : s.d.Leads s.d → s.d.Leads (f s.d)) : s.Tidies (nextD s f) :=
  ⟨{ s with d := f s.d }, nextD_eq s f, .of_leads h⟩

theorem of_canonical {f : Dev → Dev} (h : s.d.mem.canonical = true → (f s.d).mem.canonical = true) : s.Tidies (nextD s f) :=
  ⟨{ s with d := f s.d }, nextD_eq s f, h⟩

theorem of_tidy {f : State → State} (h : s.Tidy (f s)) : s.Tidies (nextS s f) := ⟨f s, nextS_eq s f, h⟩

theorem state {f : State → State} (h : s.d.Leads s.d → s.d.Leads (f s).d) : s.Tidies (nextS s f) := of_tidy s (.of_leads h)

/-- The commands that the management core answers alone leave memory as it is. -/
theorem management {c : Instr} (hc : managementOnly c = true) : s.Tidies (exec c s) := by
  obtain ⟨u, hu, heff⟩ := exec_effect c s
  exact ⟨u, hu, .of_work (heff.work hc)⟩

end State.Tidies

variable (s : State) (p : Path)

/-! ### The management core -/

theorem State.pldm_tidy (inst typ cmd : Nat) {f : State → State × List Byte} (hf : s.Tidy (f s).1) : s.Tidy (s.pldm p inst typ cmd f) :=
  .ite (hf.trans (.of_kept (State.respond_kept _ p 1 _))) (.refl s)

theorem State.setEffecter_tidy (id v : Nat) : s.Tidy (s.setEffecter id v) := by
  unfold State.setEffecter
  split
  case h_5 => exact .ite (.of_leads .forceAux) (.refl s)
  case h_6 => exact .ite (.of_leads .forceReturn) (.refl s)
  all_goals exact .refl s

theorem effecterSet_tidy (id v : Nat) : s.Tidy (effecterSet id v s).1 := by
  unfold effecterSet
  split
  · exact .refl s
  · split
    · exact .refl s
    · exact s.setEffecter_tidy id v

theorem State.bootUpdate_tidy : s.Tidy s.bootUpdate := by
  refine .of_leads fun h => ?_
  unfold State.bootUpdate
  dsimp only
  split
  · exact Dev.Leads.enterSwatch h.setState
  · exact h.setState

theorem activate_tidy (selfContained : Bool) : s.Tidy (activate selfContained s).1 := by
  unfold activate
  split
  · exact .refl s
  · split
    · exact .refl s
    · split
      · exact .refl s
      · have hkept (t : State) (h : t.kept = s.kept) : s.Tidy (if s.sec.recovery then t.bootUpdate else t) :=
          .ite ((State.Tidy.of_kept h).trans t.bootUpdate_tidy) (.of_kept h)
        refine hkept _ ?_
        exact (State.stage_kept { s with sec := { s.sec with activeB := !s.sec.runningB, updatePending := true } } 6).trans rfl

theorem pldmMonitor_tidy (cmd : Nat) (b : List Byte) : s.Tidy (pldmMonitor cmd b s).1 := by
  unfold pldmMonitor
  split
  · exact .of_kept (receiverSet_kept s _ _)
  · exact .of_kept (sensorGet_kept s _)
  · exact .of_kept (stateSensorGet_kept s _)
  · exact effecterSet_tidy s _ _
  · exact .of_kept (effecterGet_kept s _)
  · exact .refl s
  · exact .of_kept (pdrGet_kept s _)
  · exact .refl s

theorem pldmUpdate_tidy (cmd : Nat) (b : List Byte) : s.Tidy (pldmUpdate cmd b s).1 := by
  unfold pldmUpdate
  split
  · exact .refl s
  · exact .refl s
  · exact .of_kept (updateRequest_kept s _ _)
  · exact .of_kept (passTable_kept s _ _)
  · exact .of_kept (componentUpdate_kept s _ _)
  · exact activate_tidy s _
  · exact .refl s
  · exact .of_kept (cancelComponent_kept s)
  · exact .of_kept (cancelAll_kept s)
  · exact .refl s

theorem State.pldmMessage_tidy (m : List Byte) : s.Tidy (s.pldmMessage p m) := by
  have hask (t : State) : t.Tidy (t.exchange p fun t => t.askData p) := .of_kept (t.exchange_kept p fun t => t.askData_kept p)
  unfold State.pldmMessage
  simp only
  split
  · exact .ite (.of_kept (s.exchange_kept p fun t => t.takeData_kept p _)) (.refl s)
  refine .ite (State.Tidy.trans ?_ (hask _)) ?_
  all_goals
    split
    · exact s.pldm_tidy p _ _ _ (.of_kept (pldmBase_kept s _ _))
    · exact s.pldm_tidy p _ _ _ (pldmMonitor_tidy s _ _)
    · exact s.pldm_tidy p _ _ _ (pldmUpdate_tidy s _ _)
    · exact s.pldm_tidy p _ _ _ (.refl s)

theorem State.vendorMessage_tidy (m : List Byte) : s.Tidy (s.vendorMessage p m) := by
  unfold State.vendorMessage
  simp only
  split
  · exact .refl s
  split
  · exact .of_work (s.vendor_work p 1 (keyRecordOp_work s p _))
  · exact .of_kept (s.vendor_kept p 2 fun _ => rfl)
  · exact .of_work (s.vendor_work p 3 (tokenOp_work s _))
  · exact .of_work (s.vendor_work p 4 (f := relockOp) s.relock_work)
  · exact .of_kept (s.peerAttest_kept p _)
  · exact .of_kept (s.vendor_kept p 6 fun _ => rfl)
  · exact .refl s

theorem State.mctp_tidy (typ : Nat) (m : List Byte) : s.Tidy (s.mctp p typ m) := by
  unfold State.mctp
  split
  · exact .of_kept (s.controlMessage_kept p m)
  · exact s.pldmMessage_tidy p m
  · exact .of_kept (s.spdm_kept p false fun t => spdmAny_kept t p m)
  · exact .of_kept (s.securedMessage_kept p m)
  · exact s.vendorMessage_tidy p m
  · exact .refl s

theorem State.setMbx_tidy (x : Mailbox) : s.Tidy { s with sec := { s.sec with mbx := x } } := id

theorem State.mbxSend_tidy : s.Tidy s.mbxSend :=
  .ite (.refl s) (.ite (s.setMbx_tidy _) (.ite ((s.setMbx_tidy _).trans (State.mctp_tidy _ _ _ _)) (s.setMbx_tidy _)))

theorem State.mbxCtrl_tidy (val en : Nat) : s.Tidy (s.mbxCtrl val en) := by
  have hctrl (y : Mailbox) (send ack : Bool) :
      s.Tidy (let s1 : State := { s with sec := { s.sec with mbx := y } }
        let s2 := if send then s1.mbxSend else s1
        if ack then s2.mbxAck else s2) := by
    have hsend := State.Tidy.ite (c := send = true) ((s.setMbx_tidy y).trans (State.mbxSend_tidy _)) (s.setMbx_tidy y)
    exact .ite (hsend.trans (.of_kept (State.mbxAck_kept _))) hsend
  exact hctrl _ _ _

/-! ### Register writes -/

theorem State.writePwr_tidy (o val en : Nat) : s.Tidy (s.writePwr o val en) := by
  unfold State.writePwr
  split
  · have hctrl (q : Pwr) (aux back : Bool) :
        s.Tidy (let s1 : State := { s with pwr := q }
          let s2 := if aux then s1.forceAux else s1
          if back then s2.forceReturn else s2) := by
      have hset : s.Tidy { s with pwr := q } := .refl s
      have haux := State.Tidy.ite (c := aux = true) (hset.trans (.of_leads .forceAux)) hset
      exact .ite (haux.trans (.of_leads .forceReturn)) haux
    exact hctrl _ _ _
  all_goals exact .refl s

theorem State.writeMbx_tidy (o val en : Nat) : s.Tidy (s.writeMbx o val en) := .ite (s.mbxCtrl_tidy val en) (.ite (.refl s) (.refl s))

theorem State.regWrite_tidy (off val en : Nat) : s.Tidy (s.regWrite off val en) := by
  unfold State.regWrite
  have h := Dev.Leads.refl s.d
  simp only
  split
  · exact .refl s
  split
  · exact .planes _ h.writeGlobal
  split
  · exact .planes _ h.writeControl
  split
  · exact .planes _ h.writeMdie
  split
  · exact .planes _ h.writePortReg
  split
  · exact s.writePwr_tidy _ _ _
  split
  · exact .ite (.of_work s.relock_work) (.refl s)
  split
  · exact s.writeMbx_tidy _ _ _
  · exact .refl s

theorem State.barWrite_tidy (off : Nat) (tlp : Tlp) (bad : Bool) {f : State → State} (hf : s.Tidy (f s)) : s.Tidy (s.barWrite off tlp bad f) := by
  unfold State.barWrite
  split
  · exact .refl s
  split
  · exact .planes _ (Dev.Leads.refl _).aer
  split
  · exact .planes _ (Dev.Leads.refl _).unsupported
  split
  · exact .planes _ (Dev.Leads.refl _).aer
  · exact hf

/-! ### A peer that joins -/

theorem Dev.joinPeer_mem (d : Dev) (a : Nat) (b : List Byte) : (d.joinPeer a b).mem = d.mem := by
  unfold Dev.joinPeer
  dsimp only
  split
  · rfl
  · exact Dev.logEv_mem _ _ _ _ _ _

theorem Dev.receive_canonical {d : Dev} (typ : Nat) (m : Rx) {f : Dev → Dev} (h : d.mem.canonical = true)
    (hf : ∀ e, e.mem.canonical = true → (f e).mem.canonical = true) : (d.receive typ m f).mem.canonical = true := by
  have hr := (Dev.Leads.refl d).received (typ := typ) (m := m) |>.canonical h
  unfold Dev.receive
  dsimp only
  split
  · exact hf _ hr
  · exact hr

/-! ### The commands -/

theorem execHello_tidies (m : Rx) : s.Tidies (execHello m s) := by
  refine .of_canonical s (fun hc => Dev.receive_canonical 0x10 m hc fun e he => ?_)
  split
  · exact (Dev.Leads.refl e).replyOn.canonical he
  · exact (Dev.Leads.refl _).sendRoute.departUnreachable.canonical (by rwa [Dev.joinPeer_mem])

theorem execWelcome_tidies (m : Rx) : s.Tidies (execWelcome m s) := by
  refine .of_canonical s (fun hc => Dev.receive_canonical 0x11 m hc fun e he => ?_)
  split
  · rwa [Dev.joinPeer_mem]
  · exact he

theorem execState_tidies (m : Rx) : s.Tidies (execState m s) :=
  .planes s fun h => h.accept fun _ h => h.setPeer fun _ hp => hp

theorem execClean_tidies (m : Rx) : s.Tidies (execClean m s) := by
  refine .planes s fun h => h.accept fun e h => h.setPeer fun p hp => ?_
  split
  · exact hp
  · exact hp

theorem execLlFetch_tidies (m : Rx) : s.Tidies (execLlFetch m s) := by
  refine .planes s fun h => h.accept fun e h => ?_
  extract_lets ward
  split
  · exact h.send
  · extract_lets len lo hi v base
    have hbase : s.d.Leads base := h.read
    clear_value base
    exact Dev.Leads.sendImage (hbase.of_eq rfl rfl)

theorem execModuleReadCompletion_tidies (tag : Nat) (bytes : List Byte) (tlp : Tlp) : s.Tidies (execModuleReadCompletion tag bytes tlp s) := by
  refine .planes s fun h => ?_
  split
  · exact h
  split
  · exact h.aer
  have htake := h.takeRead (tag := tag)
  split
  · exact .ite h.aer h.aerAdvisory
  rename_i r d1 hr
  have h1 : s.d.Leads d1 := by rwa [hr] at htake
  refine .ite h1.aer.readLost (.ite h1.readLost ?_)
  split
  · exact .ite h1.keepImage.setHost (.ite h1.keepImage.askHost h1.restoreDone)
  · exact h1

theorem execCompletionTimeout_tidies (tag : Nat) : s.Tidies (execCompletionTimeout tag s) := by
  refine .planes s fun h => .ite h ?_
  have htake := h.takeRead (tag := tag)
  split
  · exact h
  rename_i r d1 hr
  have h1 : s.d.Leads d1 := by rwa [hr] at htake
  exact h1.aer.readLost

theorem execGranuleRetirement_tidies : s.Tidies (execGranuleRetirement s) := by
  refine .planes s fun h => ?_
  split
  · exact h
  · extract_lets d1 g old pool d2 d3 d4 d5
    have h1 : s.d.Leads d1 := h.of_eq rfl rfl
    have h2 : s.d.Leads d2 := .foldl h1 fun _ _ h => .foldl h fun _ _ h => h.flushEntry
    have h3 : s.d.Leads d3 := .foldl h2 fun _ _ h => h.moveSector
    clear_value d3
    have h4 : s.d.Leads d4 := h3.of_eq rfl rfl
    have h5 : s.d.Leads d5 := h4.logEv.health.dropLines
    exact .ite h1.degrade (.ite h5.degrade h5)

theorem execPowerOn_tidies (mv av : Nat) : s.Tidies (execPowerOn mv av s) := by
  refine .state s fun h => ?_
  split
  · refine Dev.Leads.startUp ?_
    exact h
  · exact h

theorem execConventionalReset_tidies : s.Tidies (execConventionalReset s) := by
  refine .state s fun h => ?_
  split
  · exact h
  · refine Dev.Leads.startUp ?_
    exact h.flushAll.writeBack.warm

theorem execMainQualified_tidies : s.Tidies (execMainQualified s) := by
  refine .state s fun h => ?_
  split
  · exact h
  · extract_lets q s1 s2 st
    have h1 : s.d.Leads s1.d := h
    have h2 : s.d.Leads s2.d := by
      unfold s2
      split
      · exact h1.supply
      · exact h1
    clear_value s2
    split
    · split
      · refine Dev.Leads.enterSwatch ?_
        split
        · exact h2.toMain
        · exact h2
      · exact h2
    · split
      · exact h2.returnMain
      · exact h2.drawMain

theorem execMainLost_tidies (cv : Nat) : s.Tidies (execMainLost cv s) := by
  refine .state s fun h => ?_
  extract_lets s' q s1 s2
  have h' : s.d.Leads s'.d := h.drawMain
  clear_value s'
  have h1 : s.d.Leads s1.d := h'
  have h2 : s.d.Leads s2.d := h1.supply.healthState
  split
  · exact h'
  · split
    · exact h2.mainGone
    · exact h2.powerOff

theorem execHoldEntry_tidies : s.Tidies (execHoldEntry s) := by
  refine .state s fun h => ?_
  split
  · exact h
  · extract_lets s1 d1 q s2
    have h1 : s.d.Leads d1 := h.beginHold.allPorts
    have h2 : s.d.Leads s2.d := h1.writeBack.setCtl.setState.sendState
    clear_value s2
    split
    · exact h1
    · split
      · exact h2.returnMain
      · exact h2

theorem execAuxLost_tidies (cv : Nat) : s.Tidies (execAuxLost cv s) := by
  refine .state s fun h => ?_
  split
  · exact h
  · extract_lets q s1
    have h1 : s.d.Leads s1.d := Dev.Leads.healthState (Dev.Leads.supply h)
    clear_value s1
    split
    · exact h1.powerOff
    · split
      · exact h1.returnMain
      · split
        · exact h1.toMain
        · exact h1

theorem execAuxReturned_tidies (cv : Nat) : s.Tidies (execAuxReturned cv s) := by
  refine .state s fun h => ?_
  split
  · exact h
  · extract_lets q s1
    have h1 : s.d.Leads s1.d := h
    split
    · exact h1
    · exact h1.supply

theorem execRegisterWrite_tidies (off val be : Nat) (req : Request) : s.Tidies (execRegisterWrite off val be req s) := by
  refine .of_tidy s ?_
  cases req with
  | core => exact s.regWrite_tidy off val _
  | bar0 dws tlp => exact s.barWrite_tidy off tlp _ (s.regWrite_tidy off val _)
  | bar4 tlp => exact s.barWrite_tidy off tlp false (.refl s)

theorem execMgmtMctp_tidies (m : Rx) : s.Tidies (execMgmtMctp m s) := by
  have h : s.d.Leads (s.d.accepted 0xA0 m true).1 := (Dev.Leads.refl s.d).accepted
  have hset : s.Tidy { s with d := (s.d.accepted 0xA0 m true).1 } := h.canonical
  exact .of_tidy s (.ite (hset.trans (.of_kept (State.fromPeer_kept _ _ _ _))) hset)

theorem execSwatchEnd_tidies (r : SwatchResult) : s.Tidies (execSwatchEnd r s) := by
  refine .state s fun h => ?_
  split
  · exact h
  · extract_lets d1 d2 d3 _ d4 d5
    have h1 : s.d.Leads d1 := .foldl h (fun _ _ h => h.setTile)
    have h2 : s.d.Leads d2 := .foldl h1 (fun _ _ h => h.setMdie)
    have h3 : s.d.Leads d3 := .foldl h2 (fun _ _ h => h.logEv)
    have h4 : s.d.Leads d4 := h3.logEv.fillSram
    have h5 : s.d.Leads d5 := h4.allPorts
    exact .ite h5.enterFault h5.setState

theorem execFlr_tidies : s.Tidies (execFlr s) := by
  refine .state s fun h => ?_
  extract_lets
  split
  · exact h
  · split
    · exact h.flrRegisters
    · split
      · exact h.flrOrders
      · exact h.flrOrders.setState.logEv

theorem execHostLinkUp_tidies (speed width : Nat) : s.Tidies (execHostLinkUp speed width s) := by
  refine .state s fun h => ?_
  split
  · exact h
  · extract_lets d1
    have h1 : s.d.Leads d1 := h.setHost
    exact .foldl h1 (fun _ _ h => h.irq)

theorem execMainInRange_tidies (cv : Nat) : s.Tidies (execMainInRange cv s) := by
  refine .state s fun h => ?_
  split
  · exact h
  · exact h

theorem execBothInputsLost_tidies (cv : Nat) : s.Tidies (execBothInputsLost cv s) := by
  refine .state s fun h => ?_
  split
  · exact h.powerOff
  · exact h

theorem execInputOverVoltage_tidies (main : Bool) (cv : Nat) : s.Tidies (execInputOverVoltage main cv s) := by
  refine .state s fun h => ?_
  split
  · exact h
  · extract_lets
    exact h.supply.healthState

theorem execTripRelease_tidies (mainCv auxCv : Nat) : s.Tidies (execTripRelease mainCv auxCv s) := by
  refine .state s fun h => ?_
  split
  · exact h
  · exact h

theorem execPllLockLoss_tidies (die : Nat) : s.Tidies (execPllLockLoss die s) := by
  refine .state s fun h => ?_
  split
  · exact h
  · exact h.logEv.enterFault

theorem execDoorbell_tidies (ring val be : Nat) (tlp : Tlp) : s.Tidies (execDoorbell ring val be tlp s) := by
  refine .state s fun h => ?_
  refine .barWrite h ?_
  split
  · exact h.setRing
  · exact h

theorem execDescriptorFetch_tidies (ring : Nat) (bytes : List Byte) (outcome : Nat) : s.Tidies (execDescriptorFetch ring bytes outcome s) := by
  refine .planes s fun h => ?_
  extract_lets _ _ v f d1
  have hv : s.d.Leads v.2 := h.read
  have hf : s.d.Leads f.2 := h.drawFree
  have h1 : s.d.Leads d1 := .ite hf.aer (.ite hf.aer (.ite hf.aer hf))
  exact .ite h (.ite (.ite (.ite hv.fetchedSlot hv.fetchedSlot) h.fetchedSlot) (.ite h (.ite h.fetchedSlot h1.fetchedSlot)))

theorem execPatternLoad_tidies : s.Tidies (execPatternLoad s) := by
  refine .state s fun h => ?_
  split
  · exact h
  · split
    · split
      · exact h.runLoad
      · exact h.askLoad
    · exact h.askLoad.runLoad

theorem execSegmentFill_tidies (tile : Nat) (ofB : Bool) : s.Tidies (execSegmentFill tile ofB s) := by
  refine .planes s fun h => ?_
  split
  · exact h.fillSegment
  · exact h

theorem execOutputTilePost_tidies (tile : Nat) : s.Tidies (execOutputTilePost tile s) := by
  refine .planes s fun h => ?_
  split
  · exact h
  · split
    · exact h.postTile
    · exact h

theorem execQueueEntryDrain_tidies (tile : Nat) : s.Tidies (execQueueEntryDrain tile s) := by
  refine .planes s fun h => ?_
  split
  · exact h
  · split
    · exact h.drainEntry
    · exact h

theorem execLadderMove_tidies (tile : Nat) : s.Tidies (execLadderMove tile s) := by
  refine .planes s fun h => ?_
  split
  · exact h
  · split
    · exact h
    · split
      · exact h.reportRecord.endPart.streams
      · split
        · exact h.unitStands.endPart.streams
        · split
          · exact h.repeatUnit
          · exact h.reportPart.endPart.streams

theorem execCheckComputation_tidies (phys fault : Nat) : s.Tidies (execCheckComputation phys fault s) := by
  refine .planes s fun h => ?_
  refine .runCheck h (fun _ _ _ h => ?_)
  extract_lets _ d1
  have h1 : s.d.Leads d1 := h.setLogical.health
  split
  · exact h.settleCheck
  · split
    · exact h1.queueCheck
    · exact h1

theorem execCheckRepeat_tidies (phys fault : Nat) : s.Tidies (execCheckRepeat phys fault s) := by
  refine .planes s fun h => ?_
  refine .runCheck h (fun _ _ _ h => ?_)
  extract_lets
  exact .ite h.settleCheck h.askThird

theorem execRoutePlacement_tidies (first : Nat) : s.Tidies (execRoutePlacement first s) := by
  refine .planes s fun h => ?_
  split
  · exact h
  · split
    · exact h.placeRoute
    · exact h

theorem execNmeGroupUpdate_tidies (mdie : Nat) : s.Tidies (execNmeGroupUpdate mdie s) := by
  refine .planes s fun h => ?_
  split
  · split
    · exact h.updateOne.checkBucket
    · exact h
  · exact h

theorem execPermuteActivate_tidies : s.Tidies (execPermuteActivate s) := by
  refine .planes s fun h => ?_
  split
  · extract_lets
    exact .ite h h.activate.finish
  · exact h

theorem execPermuteAdopt_tidies : s.Tidies (execPermuteAdopt s) := by
  refine .planes s fun h => ?_
  split
  · exact h.permuteHead
  · split
    · exact h
    · split
      · exact h.permuteEnds
      · split
        · exact h
        · extract_lets d1 d2
          have h1 : s.d.Leads d1 := h.copyForward.setCtl.flip
          have h2 : s.d.Leads d2 := h1.setCtl.activate
          exact h2.setState.sendState.finish

theorem execFenceMoult_tidies : s.Tidies (execFenceMoult s) := by
  refine .state s fun h => ?_
  split
  · exact h.runMoult
  · exact .runMoult (.issue h (fun _ => h.moultHead))

theorem execTxnEnd_tidies (ring : Nat) : s.Tidies (execTxnEnd ring s) := by
  refine .planes s fun h => ?_
  refine .issue h (fun _ => ?_)
  split
  · exact h.refuseHead
  · extract_lets a
    have ha : s.d.Leads a.2 := h.start
    exact ha.setAct.setTxn.setRing

theorem execCleanSend_tidies : s.Tidies (execCleanSend s) := by
  refine .planes s fun h => ?_
  extract_lets d
  have h : s.d.Leads d := h.withdrawUses
  split
  · exact h
  · split
    · exact h
    · split
      · exact h.raise.setCtl
      · extract_lets _ d1
        have h1 : s.d.Leads d1 := h.setTxn
        exact .foldl h1 (fun _ _ h => h.send)

theorem execLifelineDrainEnd_tidies (host : Bool) : s.Tidies (execLifelineDrainEnd host s) := by
  refine .planes s fun h => ?_
  split
  · exact h
  · exact .ite (.ite h h.toHost.endDrain) (.ite h h.endDrain)

theorem execMirrorRecordCopy_tidies : s.Tidies (execMirrorRecordCopy s) := by
  refine .planes s fun h => ?_
  split
  · exact h
  · extract_lets d1 v _ d2
    have h1 : s.d.Leads d1 := h.setCtl
    have hv : s.d.Leads v.2 := h1.read
    have h2 : s.d.Leads d2 := hv.toHost
    exact .ite h1.setCtl.logEv.irq h2.toHost.setCtl

theorem execFencePeerWaitExpiry_tidies : s.Tidies (execFencePeerWaitExpiry s) := by
  refine .planes s fun h => ?_
  split
  · exact .ite h.raise h
  · exact h

theorem execStepAbortSend_tidies : s.Tidies (execStepAbortSend s) := by
  refine .planes s fun h => ?_
  split
  · exact h
  · split
    · exact h
    · split
      · exact h.closeAbort
      · split
        · exact h
        · extract_lets d1
          have h1 : s.d.Leads d1 := .foldl h (fun _ _ h => h.send)
          exact h1.setTxn.closeAbort

theorem execLifelineRestore_tidies : s.Tidies (execLifelineRestore s) := by
  refine .planes s fun h => ?_
  refine .issue h (fun _ => ?_)
  extract_lets _ a d1
  have ha : s.d.Leads a.2 := h.start
  have h1 : s.d.Leads d1 := ha.setCtl
  split
  · exact h
  · split
    · exact h
    · split
      · exact h.refuseHead
      · split
        · exact h1.askHost
        · split
          · exact .ite h1.send h1.restoreFails
          · exact h1.restoreFails

theorem execLifelineHostDrain_tidies : s.Tidies (execLifelineHostDrain s) := by
  refine .planes s fun h => ?_
  refine .issue h (fun _ => ?_)
  split
  · exact h
  · split
    · exact h
    · split
      · exact h.refuseHead
      · extract_lets a
        have ha : s.d.Leads a.2 := h.start
        exact ha.hostDrain

theorem execBar2Read_tidies (tag addr len : Nat) (tlp : Tlp) : s.Tidies (execBar2Read tag addr len tlp s) := by
  refine .planes s fun h => ?_
  split
  · exact h
  · split
    · exact h.aer
    · split
      · exact h.unsupported
      · extract_lets v d1
        have hv : s.d.Leads v.2 := h.read
        have h1 : s.d.Leads d1 := hv.hostPoison
        exact h1.setHost

theorem execBar2Write_tidies (addr : Nat) (bytes : List Byte) (tlp : Tlp) : s.Tidies (execBar2Write addr bytes tlp s) := by
  refine .planes s fun h => ?_
  split
  · exact h
  · split
    · exact h.aer
    · split
      · exact h.unsupported
      · extract_lets _ d1
        have h1 : s.d.Leads d1 := .ite h.aer h
        exact h1.write

theorem execConfirmationRead_tidies (mdie : Nat) (agrees : Bool) : s.Tidies (execConfirmationRead mdie agrees s) := by
  refine .planes s fun h => ?_
  extract_lets _ d1
  have h1 : s.d.Leads d1 := h.of_eq rfl rfl
  split
  · exact h
  · extract_lets d2
    have h2 : s.d.Leads d2 := h1.logEv.health
    exact .ite h2 h2.rowFault

theorem execRowRepair_tidies (mdie : Nat) : s.Tidies (execRowRepair mdie s) := by
  refine .planes s fun h => ?_
  extract_lets _ d1
  have h1 : s.d.Leads d1 := h.of_eq rfl rfl
  split
  · exact h
  · extract_lets d2 d3
    have h2 : s.d.Leads d2 := .foldl h1 (fun _ _ h => h.readKey)
    have h3 : s.d.Leads d3 := h2.setMdie
    exact h3.logEv.health

theorem execScrubRead_tidies (mdie upset : Nat) (strike : Option Strike) : s.Tidies (execScrubRead mdie upset strike s) := by
  refine .planes s fun h => ?_
  extract_lets d _ _ d1 d2
  have h : s.d.Leads d := by
    unfold d
    split
    · exact h.strike
    · exact h
  have h1 : s.d.Leads d1 := h.upsetRead.scrubAt
  have h2 : s.d.Leads d2 := .ite h1.scrubAt h1
  exact .ite h h2.setMdie

theorem execMergeEntryIdle_tidies (mdie sector : Nat) : s.Tidies (execMergeEntryIdle mdie sector s) := by
  refine .planes s fun h => ?_
  split
  · exact h.flushEntry
  · exact h

theorem execFrameReceive_tidies (port : Nat) (bytes : List Byte) : s.Tidies (execFrameReceive port bytes s) := by
  refine .planes s fun h => ?_
  split
  · exact h
  · split
    · exact h.setPort.portErr.answerOn
    · exact h.setPort.portErr.answerOn
    · exact h.setPort.frameOk

theorem execPortRetrain_tidies (port : Nat) : s.Tidies (execPortRetrain port s) := by
  refine .state s fun h => ?_
  split
  · exact h.train
  · exact h

theorem execLinkUp_tidies (port : Nat) (t : Trained) : s.Tidies (execLinkUp port t s) := by
  refine .planes s fun h => ?_
  extract_lets
  split
  · exact .ite h.setPort.answerOn.retrainNext h
  · exact h

theorem execAckTimeout_tidies (peer cls : Nat) : s.Tidies (execAckTimeout peer cls s) := by
  refine .planes s fun h => ?_
  extract_lets _ _ d1
  have h1 : s.d.Leads d1 := h.missed
  split
  · exact h
  · split
    · exact h1
    · split
      · exact h1
      · extract_lets d2
        have h2 : s.d.Leads d2 := .setPeer h1 (fun _ h => h)
        exact .foldl h2 (fun _ _ h => h.queueOn)

theorem execProbeTimeout_tidies (peer : Nat) : s.Tidies (execProbeTimeout peer s) := by
  refine .planes s fun h => ?_
  split
  · extract_lets d1
    have h1 : s.d.Leads d1 := h.missed
    exact .ite h1.sendRoute h1
  · exact h

theorem execRefuse_tidies (m : Rx) : s.Tidies (execRefuse m s) := by
  refine .planes s fun h => ?_
  refine .receive h (fun _ h => ?_)
  extract_lets _ _ d1
  have h1 : s.d.Leads d1 := .setPeer h (fun _ _ => by simp)
  exact .ite h (.ite h1 h1.logEv)

theorem execRetraction_tidies (m : Rx) : s.Tidies (execRetraction m s) := by
  refine .planes s fun h => ?_
  refine .accept h (fun _ h => ?_)
  extract_lets _ d1
  have h1 : s.d.Leads d1 := h.logRetract
  exact .ite h1.setTxn.withdrawUses.answerRetracts h1.send

theorem execGatherReq_tidies (m : Rx) : s.Tidies (execGatherReq m s) := by
  refine .planes s fun h => ?_
  refine .accept h (fun _ h => ?_)
  extract_lets
  exact .ite h.serve h.setCtl

theorem execGatherReply_tidies (peer : Nat) : s.Tidies (execGatherReply peer s) := by
  refine .planes s fun h => ?_
  extract_lets
  split
  · exact h.setCtl.serve
  · exact h

theorem execGatherData_tidies (m : Rx) : s.Tidies (execGatherData m s) := by
  refine .planes s fun h => ?_
  refine .accept h (fun _ h => ?_)
  split
  · exact h
  · split
    · exact h.finish
    · extract_lets d1 d2
      have h1 : s.d.Leads d1 := h.keep.noteUsed
      have h2 : s.d.Leads d2 := h1.setCtl
      exact h2.setAct.gatherVersion.gatherDone

theorem execScatterData_tidies (m : Rx) : s.Tidies (execScatterData m s) := by
  refine .planes s fun h => ?_
  refine .accept h (fun _ h => ?_)
  extract_lets _ _ d1
  have h1 : s.d.Leads d1 := h.write.noteGot
  exact .ite h.send (.ite h1.bump h1)

theorem execShardRefuse_tidies (m : Rx) : s.Tidies (execShardRefuse m s) := by
  refine .planes s fun h => ?_
  refine .accept h (fun _ h => ?_)
  split
  · exact h.finish
  · exact h

theorem execPermuteData_tidies (m : Rx) : s.Tidies (execPermuteData m s) := by
  refine .planes s fun h => ?_
  refine .permuteMessage h (fun _ h => ?_)
  split
  · exact h
  · extract_lets
    exact .ite h h.setCtl.permuteWrites

theorem execRoutePlace_tidies (m : Rx) : s.Tidies (execRoutePlace m s) := by
  refine .planes s fun h => ?_
  refine .accept h (fun _ h => ?_)
  split
  · exact h
  · split
    · exact h.consume.raise
    · split
      · exact h
      · extract_lets
        exact h.takePlacement

theorem execRouteData_tidies (m : Rx) : s.Tidies (execRouteData m s) := by
  refine .planes s fun h => ?_
  refine .accept h (fun _ h => ?_)
  extract_lets
  split
  · exact h
  · split
    · exact .ite h h.keepEarly
    · extract_lets _ _ _ _ d1 d2
      have h1 : s.d.Leads d1 := h.writeRows.setRoute.noteGot
      have h2 : s.d.Leads d2 := by
        unfold d2
        split
        · exact .ite h1.bumpGiven h1
        · exact h1
      exact .ite h.noteUsed.rowsBack h2.routeDone

theorem execCommitting_tidies (m : Rx) : s.Tidies (execCommitting m s) := by
  refine .planes s fun h => ?_
  refine .accept h (fun _ h => ?_)
  split
  · exact h
  · exact .ite h (.ite h.fallBehind h.setTxn)

theorem execLlBegin_tidies (m : Rx) : s.Tidies (execLlBegin m s) := by
  refine .planes s fun h => ?_
  refine .accept h (fun _ h => ?_)
  split
  · exact h.keepImage
  · exact .ite h.wardBegin h

theorem execLlData_tidies (m : Rx) : s.Tidies (execLlData m s) := by
  refine .planes s fun h => ?_
  refine .accept h (fun _ h => ?_)
  split
  · exact .ite h.keepImage h
  · exact .ite h.wardData h

theorem execLlEnd_tidies (m : Rx) : s.Tidies (execLlEnd m s) := by
  refine .planes s fun h => ?_
  refine .accept h (fun _ h => ?_)
  split
  · exact .ite h.restoreFails h.restoreDone
  · exact .ite h.wardEnd h

theorem execLlNone_tidies (m : Rx) : s.Tidies (execLlNone m s) := by
  refine .planes s fun h => ?_
  refine .accept h (fun _ h => ?_)
  split
  · exact h.restoreFails
  · exact h

theorem execInputOutsideInRangeBand_tidies (main : Bool) (cv : Nat) : s.Tidies (execInputOutsideInRangeBand main cv s) := by
  refine .state s fun h => ?_
  extract_lets s'
  have hs' : s.d.Leads s'.d := h.drawMain
  split
  · exact hs'
  · split
    · exact hs'
    · exact hs'

theorem exec_tidies (c : Instr) : s.Tidies (exec c s) := by
  by_cases hc : managementOnly c = true
  · exact .management s hc
  cases c
  all_goals unfold exec
  case powerOn mainCv auxCv => exact execPowerOn_tidies s mainCv auxCv
  case swatchEnd r => exact execSwatchEnd_tidies s r
  case conventionalReset => exact execConventionalReset_tidies s
  case flr => exact execFlr_tidies s
  case d3hotEntry => exact .planes s fun h => h.setHost
  case d0Return => exact .planes s fun h => h.setHost.release
  case hostLinkDown errors => exact .planes s fun h => .ite h (.hostDrainEnds (.setHost (.foldl h (fun _ _ h => h.aer))))
  case hostLinkUp speed width => exact execHostLinkUp_tidies s speed width
  case mainInRange cv => exact execMainInRange_tidies s cv
  case mainQualified => exact execMainQualified_tidies s
  case mainLost cv => exact execMainLost_tidies s cv
  case holdEntry => exact execHoldEntry_tidies s
  case auxLost cv => exact execAuxLost_tidies s cv
  case auxReturned cv => exact execAuxReturned_tidies s cv
  case bothInputsLost cv => exact execBothInputsLost_tidies s cv
  case inputOverVoltage main cv => exact execInputOverVoltage_tidies s main cv
  case thermalTrip sensor => exact .state s fun h => h.powerOff
  case tripRelease mainCv auxCv => exact execTripRelease_tidies s mainCv auxCv
  case forceOff => exact .state s fun h => h.powerOff
  case presenceBreak => exact .state s fun h => h.powerOff
  case forceAux => exact .state s fun h => h.forceAux
  case forceReturn => exact .state s fun h => h.forceReturn
  case pllLockLoss die => exact execPllLockLoss_tidies s die
  case registerWrite off val be req => exact execRegisterWrite_tidies s off val be req
  case irqUnmask source => exact .state s fun h => .regSet h h.setMask
  case doorbell ring val be tlp => exact execDoorbell_tidies s ring val be tlp
  case ringEnable ring val => exact .state s fun h => .regSet h (.ite h.setRing h)
  case ringDisable ring val => exact .state s fun h => .regSet h (.ite h h.setRing)
  case ringResume ring => exact .state s fun h => .regSet h h.setRing
  case ringHeadWrite ring val => exact .state s fun h => .regSet h h.setRing
  case descriptorFetch ring bytes outcome => exact execDescriptorFetch_tidies s ring bytes outcome
  case patternLoad => exact execPatternLoad_tidies s
  case gemm ring => exact .planes s fun h => .issue h (fun _ => h.gemmHead)
  case segmentFill tile ofB => exact execSegmentFill_tidies s tile ofB
  case outputTilePost tile => exact execOutputTilePost_tidies s tile
  case queueEntryDrain tile => exact execQueueEntryDrain_tidies s tile
  case stream ring => exact .planes s fun h => .issue h (fun _ => h.streamHead)
  case cast ring => exact .planes s fun h => .issue h (fun _ => h.castHead)
  case ladderMove tile => exact execLadderMove_tidies s tile
  case checkComputation phys fault => exact execCheckComputation_tidies s phys fault
  case checkRepeat phys fault => exact execCheckRepeat_tidies s phys fault
  case thirdComputation phys fault => exact .planes s fun h => .runCheck h (fun _ _ _ h => h.settleCheck)
  case gather ring => exact .planes s fun h => .issue h (fun _ => h.gatherHead)
  case scatter ring => exact .planes s fun h => .issue h (fun _ => h.scatterHead)
  case routedScatter ring => exact .planes s fun h => .issue h (fun _ => h.routedHead)
  case routePlacement first => exact execRoutePlacement_tidies s first
  case reduce ring => exact .planes s fun h => .issue h (fun _ => h.reduceHead)
  case nmeGroupUpdate mdie => exact execNmeGroupUpdate_tidies s mdie
  case fill ring => exact .planes s fun h => .issue h (fun _ => h.fillHead)
  case copy ring => exact .planes s fun h => .issue h (fun _ => h.copyHead)
  case permuteMove => exact .planes s fun h => h.permuteHead
  case permuteActivate => exact execPermuteActivate_tidies s
  case permuteAdopt => exact execPermuteAdopt_tidies s
  case fenceBarrier ring => exact .planes s fun h => .issue h (fun _ => .ite h h.refuseHead)
  case fenceMoult => exact execFenceMoult_tidies s
  case fencePark => exact .planes s fun h => .issue h (fun _ => .ite h (.ite h.refuseHead (.refuseHead (.ite h.setState h))))
  case txnBegin => exact .planes s fun h => .issue h (fun _ => h.txnBeginHead)
  case txnEnd ring => exact execTxnEnd_tidies s ring
  case cleanSend => exact execCleanSend_tidies s
  case commit => exact .state s fun h => .tryCommit (.issue h (fun _ => h.commitHead))
  case lifelineDrainEnd host => exact execLifelineDrainEnd_tidies s host
  case mirrorRecordCopy => exact execMirrorRecordCopy_tidies s
  case fencePeerWaitExpiry => exact execFencePeerWaitExpiry_tidies s
  case stepAbortSend => exact execStepAbortSend_tidies s
  case strandedRejoin => exact .planes s fun h => .ite h.setState.sendState h
  case lifelineRestore => exact execLifelineRestore_tidies s
  case lifelineHostDrain => exact execLifelineHostDrain_tidies s
  case mark ring => exact .planes s fun h => .issue h (fun _ => h.markHead)
  case wait ring => exact .planes s fun h => .issue h (fun _ => h.waitHead)
  case signal ring => exact .planes s fun h => .issue h (fun _ => h.signalHead)
  case bar2Read tag addr len tlp => exact execBar2Read_tidies s tag addr len tlp
  case bar2Write addr bytes tlp => exact execBar2Write_tidies s addr bytes tlp
  case confirmationRead mdie agrees => exact execConfirmationRead_tidies s mdie agrees
  case rowRepair mdie => exact execRowRepair_tidies s mdie
  case granuleRetirement => exact execGranuleRetirement_tidies s
  case scrubRead mdie upset strike => exact execScrubRead_tidies s mdie upset strike
  case mergeEntryIdle mdie sector => exact execMergeEntryIdle_tidies s mdie sector
  case frameReceive port bytes => exact execFrameReceive_tidies s port bytes
  case nakRepeatTimer port => exact .planes s fun h => .ite h.setPort.answerOn h
  case replayTimeout port => exact .planes s fun h => h.replay
  case widthRequest port width group seq => exact .planes s fun h => h.widthAsked
  case widthAccept port width group seq => exact .planes s fun h => h.widthTaken
  case widthRequestTimeout port => exact .planes s fun h => .ite h.widthFails h
  case portLinkDown port cause => exact .planes s fun h => h.portDown
  case portRetrain port => exact execPortRetrain_tidies s port
  case linkUp port t => exact execLinkUp_tidies s port t
  case trainingRetryTimer port found => exact .planes s fun h => .ite h.setPort h
  case ack m => exact .planes s fun h => .receive h (fun _ h => .ite h (.ackEffects (.setPeer h (fun _ h => h))))
  case ackSend peer => exact .planes s fun h => .ite (.sendRoute (.setPeer h (fun _ h => h))) h
  case ackTimeout peer cls => exact execAckTimeout_tidies s peer cls
  case peerSilenceTimeout peer => exact .planes s fun h => .ite (.sendRoute (.setPeer h (fun _ h => h))) h
  case probeTimeout peer => exact execProbeTimeout_tidies s peer
  case probe m => exact .planes s fun h => .receive h (fun _ h => .ite (.sendRoute (.setPeer h (fun _ h => h))) h)
  case helloTimer => exact .planes s fun h => .ite h (.foldl h (fun _ _ h => .sendRoute (.setPeer h (fun _ _ => by simp))))
  case hello m => exact execHello_tidies s m
  case welcome m => exact execWelcome_tidies s m
  case refuse m => exact execRefuse_tidies s m
  case leave m => exact .planes s fun h => .receive h (fun _ h => h.depart)
  case state m => exact execState_tidies s m
  case retraction m => exact execRetraction_tidies s m
  case rsum m => exact .planes s fun h => .accept h (fun _ h => h.sumIn.settleEarly)
  case result m => exact .planes s fun h => .accept h (fun _ h => h.resultIn.settleEarly)
  case rerunReq m => exact .planes s fun h => .accept h (fun _ h => h.rerunAsked.settleEarly)
  case rerun m => exact .planes s fun h => .accept h (fun _ h => h.rerunIn.settleEarly)
  case gatherReq m => exact execGatherReq_tidies s m
  case gatherReply peer => exact execGatherReply_tidies s peer
  case gatherData m => exact execGatherData_tidies s m
  case scatterData m => exact execScatterData_tidies s m
  case shardRefuse m => exact execShardRefuse_tidies s m
  case permuteData m => exact execPermuteData_tidies s m
  case permuteDone m => exact .planes s fun h => .permuteMessage h (fun _ h => h.setCtl)
  case routeCount m => exact .planes s fun h => .accept h (fun _ h => h.countsIn)
  case routePlace m => exact execRoutePlace_tidies s m
  case routeData m => exact execRouteData_tidies s m
  case clean m => exact execClean_tidies s m
  case committing m => exact execCommitting_tidies s m
  case stepAbortMsg m => exact .planes s fun h => .accept h (fun _ h => .ite h h.peerAborts)
  case retractDone m => exact .planes s fun h => .accept h (fun _ h => .ite h.setTxn.answerRetracts h)
  case llBegin m => exact execLlBegin_tidies s m
  case llData m => exact execLlData_tidies s m
  case llEnd m => exact execLlEnd_tidies s m
  case llFetch m => exact execLlFetch_tidies s m
  case llNone m => exact execLlNone_tidies s m
  case mgmtMctp m => exact execMgmtMctp_tidies s m
  case moduleReadCompletion tag bytes tlp => exact execModuleReadCompletion_tidies s tag bytes tlp
  case completionTimeout tag => exact execCompletionTimeout_tidies s tag
  case mbxSend val => exact .of_tidy s (s.barWrite_tidy _ _ _ (s.mbxCtrl_tidy _ _))
  case setNumericEffecterValue p effecter val => exact .of_tidy s (s.pldm_tidy p _ _ _ (effecterSet_tidy s _ _))
  case activateFirmware p selfContained => exact .of_tidy s (s.pldm_tidy p _ _ _ (activate_tidy s _))
  case inputOutsideInRangeBand main cv => exact execInputOutsideInRangeBand_tidies s main cv
  case busMasterEnable on c => exact .planes s fun h => h.setHost.release
  all_goals exact absurd rfl hc

end Sys2Proof.Machine

open Sys2Proof Sys2Proof.Machine

/-- Settles O42: ticks leave memory, every command keeps it canonical, and so do the rings that settle behind it. -/
theorem stepKeepsMemoryCanonical : Obligations.StepKeepsMemoryCanonical := by
  intro s t hc h
  cases hq : s.pending with
  | nil =>
    obtain ⟨g, n, htick⟩ := s.tick_eq
    obtain rfl := Host.Outcome.next.inj ((step_of_nil hq).symm.trans h)
    rwa [htick]
  | cons c rest =>
    rw [step_of_cons hq] at h
    obtain ⟨u, hu, htidy⟩ := exec_tidies { s with pending := rest } c
    obtain rfl := Host.Outcome.next.inj (hu.symm.trans h)
    exact (Dev.Leads.refl u.d).settle.canonical (htidy hc)
end

section
/-! SUPPORT. A peer that departs is not JOINED afterwards. -/
namespace Sys2Proof.Machine
open Sys2Proof

variable (d : Dev) (a : Nat)

/-- The departure is recorded first, and nothing of the rest of it joins a peer. -/
theorem Dev.depart_unjoined (cause : Nat) : ((d.depart a cause).peer a).state ≠ 3 := by
  unfold Dev.depart
  extract_lets p d0 d1 d2 d3 d4 d5 d6 d7
  have hleft : (d1.peer a).state ≠ 3 := by
    unfold d1
    rw [Dev.peer_setPeer, if_pos rfl]
    exact (by decide : (5 : Nat) ≠ 3)
  have h3 : d1.Leads d3 := .foldl (.logEv (.refl d1)) fun _ _ h => h.departedAct
  have h5 : d1.Leads d5 := h3.resendResults.permuteLost.setCtl.fenceLost
  have h7 : d1.Leads d7 := .ite (.foldl h5.bucketsLose fun _ _ h => h.endDrain) h5.bucketsLose
  split
  · assumption
  · split
    · exact (Dev.Leads.ite h7.setCtl.finish h7).unjoined a hleft
    · exact h7.unjoined a hleft

theorem Dev.missed_peer (h : (d.peer a).missed < 3) :
    (d.missed a).peer a = { d.peer a with missed := (d.peer a).missed + 1, missedTotal := satAdd 16 (d.peer a).missedTotal 1 } := by
  unfold Dev.missed
  simp only [Dev.peer_setPeer, if_pos]
  rw [if_neg (by omega), Dev.peer_setPeer, if_pos rfl]

theorem Dev.missed_departs (h : 3 ≤ (d.peer a).missed) : ((d.missed a).peer a).state ≠ 3 := by
  unfold Dev.missed
  simp only [Dev.peer_setPeer, if_pos]
  rw [if_pos (by omega)]
  exact Dev.depart_unjoined _ a 2

end Sys2Proof.Machine

open Sys2Proof Sys2Proof.Machine

/-- Settles O22: the fourth miss in a row makes the peer depart, and no part of a departure joins a peer again. -/
theorem fourthMissDeparts : Obligations.FourthMissDeparts := fun d a _ => ⟨d.missed_peer a, d.missed_departs a⟩
end

section
/-! SUPPORT. The messages of the peers (R283 to R299): what reads of a message that is taken up, and the commands of the scout and of the
acknowledgements. -/
namespace Sys2Proof.Machine
open Sys2Proof

variable {s : State}

/-- A message of a peer has the effect of its kind. -/
theorem receive_next {typ : Nat} {m : Rx} (h : s.d.arrived typ m = true) (f : Dev → Dev) :
    nextD s (fun d => d.receive typ m f) = .next (s.settled (f (s.d.takeMessage typ m))) := by rw [nextD_eq, Dev.receive_arrived h]

/-- A sequenced message in order has the effect of its kind. -/
theorem accept_next {typ : Nat} {m : Rx} (h : s.d.inOrder typ m = true) (f : Dev → Dev) :
    nextD s (fun d => d.accept typ m true f) = .next (s.settled (f (s.d.taken typ m))) := by rw [nextD_eq, Dev.accept_inOrder h]

/-- A command of the planes whose effect is known. -/
theorem nextD_of_eq {f : Dev → Dev} {d : Dev} (h : f s.d = d) : nextD s f = .next (s.settled d) := by rw [nextD_eq, h]

variable (d : Dev) (a : Nat)

/-- Before the fourth miss a peer stays, and the miss is counted. -/
theorem Dev.missed_early (h : (d.peer a).missed < 3) :
    d.missed a = d.setPeer a fun p => { p with missed := p.missed + 1, missedTotal := satAdd 16 p.missedTotal 1 } := by
  unfold Dev.missed
  simp only [Dev.peer_setPeer, if_pos]
  rw [if_neg (by omega)]

theorem Dev.route_setPeer (f : Peer → Peer) (b : Nat) : (d.setPeer a f).route b = d.route b := rfl

theorem Dev.usable_setPeer (f : Peer → Peer) (b : Nat) : (d.setPeer a f).usable b = d.usable b := rfl

theorem Dev.peer_takeMessage (typ : Nat) (m : Rx) : (d.takeMessage typ m).peer a = d.peer a := rfl

theorem Dev.helloCause_takeMessage (typ src : Nat) (m : Rx) (b : List Byte) : (d.takeMessage typ m).helloCause src b = d.helloCause src b := rfl

end Sys2Proof.Machine

open Sys2Proof Sys2Proof.Machine

/-- Settles O21: each message is of a JOINED peer, and each timer finds its peer JOINED and not at its fourth miss. -/
theorem acknowledgementCommands : Obligations.AcknowledgementCommands := by
  refine ⟨fun s m hin hpeer => ?_, fun s m hin hpeer => ?_, fun s a hdue => ?_, fun s a hpeer => ?_, fun s a hpeer hprobing hmissed => ?_, ?_⟩
  · refine (receive_next hin _).trans ?_
    rw [Dev.peer_takeMessage, if_neg (not_not.mpr hpeer)]
  · refine (receive_next hin _).trans ?_
    rw [Dev.peer_takeMessage, if_pos hpeer]
  · exact nextD_of_eq (if_pos hdue)
  · exact nextD_of_eq (if_pos hpeer)
  · refine nextD_of_eq ((if_pos ⟨hpeer, hprobing⟩).trans ?_)
    dsimp only
    rw [Dev.missed_early _ _ hmissed, Dev.peer_setPeer, if_pos rfl, if_pos hpeer]
  · rintro s a cls port d1 hpeer hmine hmissed rfl hport
    change execAckTimeout a cls s = _
    refine nextD_of_eq ?_
    dsimp only
    rw [if_neg (by simp [hpeer, hmine]), Dev.missed_early _ _ hmissed, Dev.peer_setPeer, if_pos rfl, if_neg (not_not.mpr hpeer),
      Dev.route_setPeer, Dev.usable_setPeer, hport]

/-- Settles O23: each message meets the tests of the scout, which read the pattern, the state and the peer's record. -/
theorem scoutCommands : Obligations.ScoutCommands := by
  refine ⟨fun s hsends => ?_, fun s m hin => ⟨fun c hcause => ?_, fun hcause => ?_⟩, fun s m hin hsends hmember hother hpeer => ?_, ?_, fun s m hin => ?_,
    fun s m hin => ?_⟩
  · change execHelloTimer s = _
    refine nextD_of_eq (if_neg ?_)
    simp [hsends]
  · refine (receive_next hin _).trans ?_
    rw [Dev.helloCause_takeMessage, hcause]
  · refine (receive_next hin _).trans ?_
    rw [Dev.helloCause_takeMessage, hcause]
  · refine (receive_next hin _).trans ?_
    rw [if_pos]
    change (sendsHello s.d.ctl.state && s.d.members'.contains m.src && m.src != s.d.ctl.address && (s.d.peer m.src).state != 3) = true
    rw [hmember]
    simp [hsends, hother, hpeer]
  · rintro s m hin hmember hother hpeer c d rfl rfl
    have hjoins : (!((s.d.takeMessage 0x12 m).members'.contains m.src) || m.src == (s.d.takeMessage 0x12 m).ctl.address ||
        ((s.d.takeMessage 0x12 m).peer m.src).state == 3) = false := by
      change (!(s.d.members'.contains m.src) || m.src == s.d.ctl.address || (s.d.peer m.src).state == 3) = false
      rw [hmember]
      simp [hother, hpeer]
    refine ⟨fun hcause => ?_, fun hcause => ?_⟩
    · refine (receive_next hin _).trans ?_
      dsimp only
      rw [hjoins, Dev.peer_takeMessage, if_neg Bool.false_ne_true, if_neg hcause]
    · refine (receive_next hin _).trans ?_
      dsimp only
      rw [hjoins, Dev.peer_takeMessage, if_neg Bool.false_ne_true, if_pos hcause]
  · exact receive_next hin _
  · exact accept_next hin _

/-- Settles O33: the host reaches the mailbox, the message is in order, and the module is powered. -/
theorem mailboxAndTransports : Obligations.MailboxAndTransports := by
  refine ⟨fun s val h => ?_, fun s h => ?_, fun s m hin => ?_, fun s a hstate => ?_⟩
  · exact nextS_of_eq (·.barWrite 0x1020004 .good false fun s => s.mbxCtrl val (2 ^ 32 - 1)) (State.barWrite_reached h _ _)
  · exact nextS_of_eq (·.barWrite 0x1020004 .good false State.mbxAck) (State.barWrite_reached h _ _)
  · change execMgmtMctp m s = _
    refine nextS_of_eq _ ?_
    rw [Dev.accepted_inOrder hin]
    rfl
  · exact nextS_of_eq (fun s => if s.d.ctl.state = 0 then s else { s with sec := { s.sec with dynAddr := a } }) (if_neg hstate)
end

section
/-! SUPPORT. Reductions, shards and routes (R300 to R326): the messages of a bucket that is there, and heads whose checks let them start. -/
namespace Sys2Proof.Machine
open Sys2Proof

variable {s : State} {d : Dev} {m : Rx}

/-- A message of a bucket held in its own step and run has its effect; one that may be newer asks for no run. -/
theorem Dev.bucketMessage_now {b : Bucket} {newer : Bool} (hstep : d.inStep m.step = .now) (hb : d.bucket (m.par 24 2) (m.par 26 2) = some b)
    (hrun : newer = true ∨ m.par 28 4 = b.runId) (typ : Nat) (f : Bucket → Dev) : d.bucketMessage typ m newer f = f b := by
  unfold Dev.bucketMessage
  rw [hstep, hb]
  dsimp only
  split
  · rfl
  · have heq : m.par 28 4 = b.runId := hrun.resolve_left ‹_›
    rw [heq, if_neg (lt_irrefl _), if_neg (lt_irrefl _)]

/-- A message that a PERMUTE of its generation does not hold back is taken up in order. -/
theorem accept_unpermuted {typ gen : Nat} (h : s.d.inOrder typ m = true) (hp : s.d.permuting gen = false) (f : Dev → Dev) :
    nextD s (fun d => d.accept typ m (!d.permuting gen) f) = .next (s.settled (f (s.d.taken typ m))) := by
  rw [nextD_eq, hp]
  exact congrArg (fun d => Host.Outcome.next (s.settled d)) (Dev.accept_inOrder h f)

end Sys2Proof.Machine

open Sys2Proof Sys2Proof.Machine

/-- Settles O24: the checks of the head let it start, and each message is of a bucket or a step that is there. -/
theorem reductionCommands : Obligations.ReductionCommands := by
  refine ⟨⟨fun s r x w hready hplan => ?_, ?_, ?_, ?_, ?_⟩, fun s m b g hopen hgroup => ?_, ?_, fun s m hin hstep => ?_⟩
  · refine (issue_next hready fun d => d.reduceHead r).trans ?_
    rw [Dev.reduceHead, hplan, Dev.follow]
  · rintro s m b d rfl hin hstep hb hrun hgood
    refine (accept_next hin _).trans ?_
    rw [Dev.sumIn, Dev.bucketMessage_now hstep hb (.inr hrun), hgood, if_neg Bool.false_ne_true]
  · rintro s m b d rfl hin hstep hb hrun hgood
    refine (accept_next hin _).trans ?_
    rw [Dev.resultIn, Dev.bucketMessage_now hstep hb (.inr hrun), hgood, if_neg Bool.false_ne_true]
  · rintro s m b d rfl hin hstep hb hgood
    refine (accept_next hin _).trans ?_
    rw [Dev.rerunIn, Dev.bucketMessage_now hstep hb (.inl rfl), hgood, if_neg Bool.false_ne_true]
  · rintro s m b d rfl hin hstep hb hleader
    refine (accept_next hin _).trans ?_
    rw [Dev.rerunAsked, Dev.bucketMessage_now hstep hb (.inl rfl)]
    exact congrArg (fun d => Host.Outcome.next (s.settled (Dev.settleEarly d))) (if_pos hleader)
  · change execNmeGroupUpdate m s = _
    refine nextD_of_eq ((if_pos hopen).trans ?_)
    rw [hgroup]
  · rintro s m d hin rfl
    refine ⟨?_, fun hstep => ?_⟩
    · rintro uses mbs rfl rfl hstep
      refine (accept_next hin _).trans ?_
      dsimp only
      rw [if_pos hstep]
    · refine (accept_next hin _).trans ?_
      dsimp only
      rw [if_neg hstep]
  · refine (accept_next hin _).trans ?_
    rw [if_pos hstep]

/-- Settles O25: the tables are clean, the checks pass, and each message is of the module's own generation. -/
theorem shardCommands : Obligations.ShardCommands := by
  refine ⟨fun s r x e hready hclean hplan => ?_, fun s r x hready hclean hplan => ?_, ?_, fun s a h rest hheld => ?_, ?_, ?_, ?_⟩
  · refine (issue_next hready fun d => d.gatherHead r).trans ?_
    rw [Dev.gatherHead, Dev.withTables_clean hclean, hplan, Dev.follow]
  · refine (issue_next hready fun d => d.scatterHead r).trans ?_
    rw [Dev.scatterHead, Dev.withTables_clean hclean, hplan, Dev.follow]
  · rintro s m d rfl hin hpermuting hservable
    refine (accept_unpermuted hin hpermuting _).trans ?_
    dsimp only
    rw [if_pos (.inr hservable)]
  · change execGatherReply a s = _
    refine nextD_of_eq ?_
    dsimp only
    rw [hheld]
  · rintro s m d a w rfl hin hpermuting hasked hgen hgood
    refine (accept_unpermuted hin hpermuting _).trans ?_
    rw [hasked]
    dsimp only
    rw [if_neg (by simp [hgen, hgood])]
  · rintro s m d rfl hin hpermuting hgen hvalid hepoch howner hlen a d1 rfl rfl
    refine (accept_unpermuted hin hpermuting _).trans ?_
    dsimp only
    rw [if_neg (by simp [hgen, hvalid, hepoch, howner, hlen])]
  · rintro s m d a rfl hin hpermuting hwait
    refine (accept_unpermuted hin hpermuting _).trans ?_
    rw [hwait]

/-- Settles O26: the tables are clean, the checks pass, and each message is of a routed SCATTER that is there. -/
theorem routedCommands : Obligations.RoutedCommands := by
  refine ⟨fun s r x w hready hclean hplan => ?_, fun s e r a hroute hact => ?_, ?_, ?_, ?_⟩
  · refine (issue_next hready fun d => d.routedHead r).trans ?_
    rw [Dev.routedHead, Dev.withTables_clean hclean, hplan, Dev.follow]
  · change execRoutePlacement e s = _
    refine nextD_of_eq ?_
    rw [hroute]
    dsimp only
    rw [hact]
  · rintro s m d r rfl hin hroute hplaced hnew hact hgood
    refine (accept_next hin _).trans ?_
    rw [Dev.countsIn]
    simp only [hroute]
    rw [if_neg (by simp [hplaced, hnew, Option.isSome_iff_ne_none.mp hact]), hgood, if_neg Bool.false_ne_true]
  · rintro s m d r rfl hin hroute hgood hnew
    refine (accept_next hin _).trans ?_
    rw [hroute]
    dsimp only
    rw [hgood, hnew, if_neg Bool.false_ne_true, if_neg Bool.false_ne_true]
    simp only [Nat.mul_add, ← Nat.mul_assoc, Nat.reduceMul]
  · rintro s m d r a entry slot rfl rfl rfl hin hplain
    have hovr : (m.par 36 1 % 2 == 1) = false := by rw [hplain]; rfl
    refine ⟨fun howner hroute hact => ?_, ?_⟩
    · refine (accept_next hin _).trans ?_
      simp only [hovr, beq_eq_false_iff_ne.mpr howner, Bool.false_eq_true, if_false, b2n]
      rw [hroute]
      dsimp only
      rw [hact]
      simp only [Bool.not_false, if_true]
    · rintro howner hroute hact size d1 rfl hd1
      have hwritten : exec (.routeData m) s = .next (s.settled (Dev.routeDone
          (match d1.routeOf r.x r.e with | some y => if y.expect = 0 then d1.bumpGiven y.gave else d1 | none => d1) r.x r.e)) := by
        refine (accept_next hin _).trans ?_
        simp only [hovr, beq_iff_eq.mpr howner, Bool.false_eq_true, if_false, if_true, b2n]
        rw [hroute]
        dsimp only
        rw [hact]
        simp only [Bool.not_true, Bool.false_eq_true, if_false, Nat.add_zero, ← hd1] <;> rfl
      refine ⟨fun y hy hlast => hwritten.trans ?_, fun y hy hmore => hwritten.trans ?_⟩
      · rw [hy]
        dsimp only
        rw [if_pos hlast]
      · rw [hy]
        dsimp only
        rw [if_neg hmore]
end

section
/-! SUPPORT. The commands of a PERMUTE and of a step (R309 to R313, R317 to R342): each meets the tests that let it have its effect. -/
namespace Sys2Proof.Machine
open Sys2Proof

variable {s : State} {d : Dev} {m : Rx}

/-- A PERMUTE at the head of the control ring whose checks let it start begins. -/
theorem Dev.permuteHead_goes {x : Desc} {adopt : Bool} {w : List Byte × Dev} (hhead : d.head 0 = some x) (hplan : d.permutePlan adopt x = .goes w) :
    d.permuteHead adopt = w.2.permuteStart x w.1 := by
  unfold Dev.permuteHead
  rw [hhead]
  dsimp only
  rw [hplan, Dev.follow]

/-- A message of the PERMUTE in flight is taken up in order. -/
theorem permuteMessage_next {typ : Nat} (h : s.d.inOrder typ m = true) (hp : s.d.permuting (m.par 26 2) = true) (f : Dev → Dev) :
    nextD s (fun d => d.permuteMessage typ m f) = .next (s.settled (f (s.d.taken typ m))) := by
  refine nextD_of_eq ?_
  unfold Dev.permuteMessage
  dsimp only
  rw [if_pos hp, Dev.accept_inOrder h]

/-- A settled step that is pledged and holds its tokens commits at its COMMIT. -/
theorem Dev.tryCommit_settled {t : Txn} (htxn : d.ctl.txn = some t) (hact : d.commitAct.isSome = true) (hsettled : d.settled = true)
    (hpledged : t.pledged = true) (honce : t.settledOnce = true) (htokens : d.tokens t = true) (hdrains : d.ctl.drains = []) (own : Nat) :
    d.tryCommit own = d.commitStep t own := by
  unfold Dev.tryCommit
  rw [htxn]
  dsimp only
  rw [if_neg]
  simp [Option.isSome_iff_ne_none.mp hact, hsettled, hpledged, honce, htokens, hdrains]

/-- A COMMIT is tried once its head has started. -/
theorem commit_next {e : Dev} (h : s.d.issue 0 0x0D false s.d.commitHead = e) : execCommit s = .next (s.settled (e.tryCommit s.sec.health)) := by
  rw [execCommit, nextS_of_planes rfl, h]

/-- An open step that is not pledged against the sender is aborted by its STEP_ABORT. -/
theorem Dev.peerAborts_raises {t : Txn} (htxn : d.ctl.txn = some t) (hstep : t.step = m.step) (hopen : t.aborted = false)
    (hfree : t.pledged = false ∨ (d.peer m.src).cleanStep ≠ m.step) :
    d.peerAborts m = (d.setPeer m.src fun p => { p with abortStep := m.step, cleanStep := if p.cleanStep = m.step then 0 else p.cleanStep }).raise 10
      (originOf m) := by
  unfold Dev.peerAborts
  rw [htxn]
  dsimp only
  rw [if_neg (not_not.mpr hstep), hopen, if_neg Bool.false_ne_true, if_neg]
  simpa [Bool.and_eq_true] using fun h => hfree.resolve_left (by simp [h])

theorem Dev.cleanStep_taken (typ a : Nat) (m : Rx) : ((d.taken typ m).peer a).cleanStep = (d.peer a).cleanStep := by
  rw [Dev.taken, Dev.peer_setPeer]
  split <;> rfl

end Sys2Proof.Machine

open Sys2Proof Sys2Proof.Machine

/-- Settles O27: the image is taken, the bank is complete, and each message is of the PERMUTE in flight. -/
theorem permuteCommands : Obligations.PermuteCommands := by
  refine ⟨fun s x w hhead hplan => ?_, fun s p hp hmove hsent hneed hwrites hdones => ?_, fun s x w hp hhead hplan => ?_, fun s p hp hadopt hmatch hneed => ?_,
    ?_, fun s m hin hpermuting => ?_⟩
  · change execPermuteMove s = _
    exact nextD_of_eq (Dev.permuteHead_goes hhead hplan)
  · change execPermuteActivate s = _
    refine nextD_of_eq ?_
    rw [hp]
    dsimp only
    rw [hdones, if_neg]
    simp [hmove, hsent, hneed, hwrites]
  · change execPermuteAdopt s = _
    refine nextD_of_eq ?_
    rw [hp]
    exact Dev.permuteHead_goes hhead hplan
  · change execPermuteAdopt s = _
    refine nextD_of_eq ?_
    rw [hp]
    dsimp only
    rw [hadopt, hmatch, if_neg (by decide), if_neg Bool.false_ne_true, if_neg (not_not.mpr hneed)]
  · rintro s m d p rfl hin hpermuting hp hvalid howner hlen
    refine (permuteMessage_next hin hpermuting _).trans ?_
    change Host.Outcome.next (s.settled (match s.d.ctl.permute with | none => _ | some _ => _)) = _
    rw [hp]
    dsimp only
    rw [if_neg (by simp [hvalid, howner, hlen])] <;> rfl
  · exact permuteMessage_next hin hpermuting _

/-- Settles O28: the heads are ready, and the step is settled where it pledges or commits. -/
theorem stepCommands : Obligations.StepCommands := by
  refine ⟨fun s x hready hretry hdigests hin hwant => ?_, fun s r x a d hready hin hstart => ?_, ?_, fun s x a d hready hin hstart => ?_,
    fun s t hhead htxn hact hsettled hpledged honce htokens hdrains => ?_, fun s x hready hkind hin => ?_⟩
  · refine (issue_next hready fun d => d.txnBeginHead).trans ?_
    unfold Dev.txnBeginHead
    dsimp only
    rw [hretry, hdigests, hin, if_neg (by decide), if_neg Bool.false_ne_true, if_neg]
    exact fun h => hwant.elim h.1 h.2
  · change execTxnEnd r s = _
    refine (issue_next hready _).trans ?_
    rw [hin, if_neg Bool.false_ne_true, hstart]
  · rintro s d t dom rfl htxn hsettled honce hinputs rfl
    change execCleanSend s = _
    refine nextD_of_eq ?_
    dsimp only
    rw [htxn]
    dsimp only
    rw [hsettled, honce, hinputs, if_neg (by decide), if_neg (by decide)] <;> rfl
  · refine commit_next ((Dev.issue_ready hready _).trans ?_)
    rw [Dev.commitHead, hin, if_neg Bool.false_ne_true, hstart]
  · refine (commit_next (Dev.issue_none hhead _)).trans ?_
    rw [Dev.tryCommit_settled htxn hact hsettled hpledged honce htokens hdrains]
  · change execFencePark s = _
    refine (issue_next hready _).trans ?_
    rw [hkind, hin, if_neg (by decide), if_neg Bool.false_ne_true]

/-- Settles O29: each message is in order and of the step that is open, and each timer finds the step as its row says. -/
theorem stepMessages : Obligations.StepMessages := by
  refine ⟨fun s m hin => ?_, fun s m t hin htxn hopen hstep hfence => ?_, fun s t htxn haborted hclosed hsent hwaits => ?_, ?_,
    fun s t htxn hopen hlost hcommits => ?_, fun s hstate hquorum hagree => ?_⟩
  · exact accept_next hin _
  · refine (accept_next hin _).trans ?_
    change Host.Outcome.next (s.settled (match s.d.ctl.txn with | none => _ | some _ => _)) = _
    rw [htxn]
    dsimp only
    rw [hfence, hopen, if_neg (by simp [hstep]), if_neg Bool.false_ne_true]
  · change execStepAbortSend s = _
    refine nextD_of_eq ?_
    rw [htxn]
    dsimp only
    rw [haborted, hclosed, hsent, hwaits, if_neg (by decide), if_neg Bool.false_ne_true, if_neg Bool.false_ne_true]
  · rintro s m t d rfl hin htxn hstep hnew hopen hfree
    refine (accept_next hin _).trans ?_
    change Host.Outcome.next (s.settled (if m.step ≤ s.d.ctl.committed then _ else _)) = _
    rw [if_neg (not_le.mpr hnew), Dev.peerAborts_raises (d := s.d.taken 0x82 m) htxn hstep hopen (by rwa [Dev.cleanStep_taken])]
  · change execFencePeerWaitExpiry s = _
    refine nextD_of_eq ?_
    rw [htxn]
    dsimp only
    rw [hopen, hlost, hcommits, if_pos (by decide)]
  · exact nextD_of_eq (if_pos ⟨hstate, hquorum, hagree⟩)
end

section
/-! SUPPORT. The tiles' commands and the loads of a pattern (R127 to R180, R356 to R366, R517): the job is there, and nothing is in flight. -/
namespace Sys2Proof.Machine
open Sys2Proof

variable {s : State} {d : Dev}

/-- The first check of a tile with a bank free is computed again at its stage. -/
theorem Dev.runCheck_computes {p fault stage : Nat} {c : Check} {rest : List Check} {g : List Byte} {e : Dev} (hchecks : (d.tile p).checks = c :: rest)
    (hrun : d.tilesRun = true) (hbanks : (d.tile p).banks.length < 2) (hrec : d.recompute p fault c = (g, e)) (hstage : c.stage = stage)
    (k : Dev → Check → List Byte → Dev) : d.runCheck p fault stage k = (k (e.setTile p popCheck) c g).goOn p := by
  unfold Dev.runCheck
  rw [hchecks]
  dsimp only
  rw [hrun, hrec, hstage, if_neg (by simp [hbanks])]

/-- The tiles of a GEMM's share whose tables are clean. -/
theorem Dev.gemmHead_clean {r : Nat} {x : Desc}
    (h : ∀ l p, l ∈ (d.shareTiles (r - 1) x.bytes).getD [] → d.physOf l = some p → d.tableClean (tableKey 4 p) = true) :
    d.gemmHead r x = d.follow r (d.gemmPlan r x) (Dev.gemmGo r x) := by
  refine Dev.withTables_clean (List.all_eq_true.mpr fun k hk => ?_) _
  obtain ⟨l, hl, hk⟩ := List.mem_filterMap.mp hk
  obtain ⟨p, hp, rfl⟩ := Option.map_eq_some_iff.mp hk
  exact h l p hl hp

theorem Dev.beginLoad_ctl (l : Loading) : (d.beginLoad l).ctl = { d.ctl with loading := some l, state := 6 } :=
  Dev.setState_ctl_eq _ (by decide)

/-- A load that has begun runs at once where nothing is in flight. -/
theorem State.runLoad_begun {l : Loading} (hload : l.load = true) (hovr : l.ovr = false) (hquiet : (d.beginLoad l).quiet l = true) :
    State.runLoad { s with d := d.beginLoad l } = State.finishLoad { s with d := d.beginLoad l } l := by
  unfold State.runLoad
  simp only [Dev.beginLoad_ctl]
  rw [hload, hovr, hquiet, if_pos (by decide)]

/-- A moult that has begun runs at once where nothing is in flight. -/
theorem State.runMoult_begun {l : Loading} (hload : l.load = false) (hovr : l.ovr = false) (hquiet : (d.beginLoad l).quiet l = true) :
    State.runMoult { s with d := d.beginLoad l } = State.finishMoult { s with d := d.beginLoad l } l := by
  unfold State.runMoult
  simp only [Dev.beginLoad_ctl]
  rw [hload, hovr, hquiet, if_pos (by decide)]

end Sys2Proof.Machine

open Sys2Proof Sys2Proof.Machine

/-- Settles O31: the heads start, the jobs of the tiles are there, and a check is computed at its own stage. -/
theorem tileCommands : Obligations.TileCommands := by
  refine ⟨fun s r x w => ⟨fun hready hclean hplan => ?_, fun hready hplan => ?_, fun hready hplan => ?_⟩, fun s l ofB a q t hjob => ?_,
    fun s l p b k a q t hphys hjob => ?_, fun s l p e a q t g hphys hjob => ?_, fun s l a q hended hrun hreported => ?_, fun s l a q hended hrun hreported => ?_,
    fun s p fault c rest g d hchecks hrun hbanks hrec => ?_⟩
  · refine (issue_next hready fun d => d.gemmHead r).trans ?_
    rw [Dev.gemmHead_clean hclean, hplan, Dev.follow]
  · refine (issue_next hready fun d => d.streamHead r).trans ?_
    rw [Dev.streamHead, hplan, Dev.follow]
  · refine (issue_next hready fun d => d.castHead r).trans ?_
    rw [Dev.castHead, hplan, Dev.follow]
  · change execSegmentFill l ofB s = _
    refine nextD_of_eq ?_
    rw [hjob]
  · change execOutputTilePost l s = _
    refine nextD_of_eq ?_
    rw [hphys]
    dsimp only
    rw [hjob]
  · change execQueueEntryDrain l s = _
    refine nextD_of_eq ?_
    rw [hphys]
    dsimp only
    rw [hjob]
  · change execLadderMove l s = _
    refine nextD_of_eq ?_
    rw [hended]
    dsimp only
    rw [hrun, hreported, if_neg (by decide), if_pos rfl]
  · have hmove : exec (.ladderMove l) s = .next (s.settled (if q.cur = 0 then ((s.d.unitStands a q).endPart a.uid l).streams l
        else match (s.d.unitProfile a).bind fun p => nextRung p (decide (1 ≤ (tget (0, 0) s.d.ctl.storm (layerOf a.bytes)).1)) q.rung q.cur with
          | some r => s.d.repeatUnit a l r
          | none => ((s.d.reportPart a.uid l).endPart a.uid l).streams l)) := by
      change execLadderMove l s = _
      refine nextD_of_eq ?_
      rw [hended]
      dsimp only
      rw [hrun, hreported, if_neg (by decide), if_neg Bool.false_ne_true] <;> rfl
    refine ⟨fun p hcur hprofile hrung => hmove.trans ?_, fun hcur => hmove.trans ?_, fun p r hcur hprofile hrung => hmove.trans ?_⟩
    · rw [if_neg hcur, hprofile, Option.bind_some, hrung]
    · rw [if_pos hcur]
    · rw [if_neg hcur, hprofile, Option.bind_some, hrung]
  · refine ⟨fun hstage hg => ?_, ?_, fun hstage hg => ?_, fun hstage hg => ?_, fun hstage => ?_⟩
    · change execCheckComputation p fault s = _
      refine nextD_of_eq ((Dev.runCheck_computes hchecks hrun hbanks hrec hstage _).trans ?_)
      dsimp only
      rw [if_pos hg]
    · rintro e o hstage hg rfl hphys
      change execCheckComputation p fault s = _
      refine nextD_of_eq ((Dev.runCheck_computes hchecks hrun hbanks hrec hstage _).trans ?_)
      dsimp only
      rw [if_neg hg, hphys]
    · change execCheckRepeat p fault s = _
      refine nextD_of_eq ((Dev.runCheck_computes hchecks hrun hbanks hrec hstage _).trans ?_)
      dsimp only
      rw [if_pos hg]
    · change execCheckRepeat p fault s = _
      refine nextD_of_eq ((Dev.runCheck_computes hchecks hrun hbanks hrec hstage _).trans ?_)
      dsimp only
      rw [if_neg hg]
    · change execThirdComputation p fault s = _
      exact nextD_of_eq (Dev.runCheck_computes hchecks hrun hbanks hrec hstage _)

/-- Settles O32: with no load in flight a load or moult begins, and with nothing else in flight it runs. -/
theorem patternCommands : Obligations.PatternCommands := by
  refine ⟨?_, ?_⟩
  · rintro s l d hreadable hloading hstate rfl rfl hquiet
    change execPatternLoad s = _
    refine nextS_of_eq _ ?_
    rw [hreadable, if_neg (by decide), hloading]
    dsimp only
    rw [Dev.askLoad, if_pos hstate]
    exact State.runLoad_begun rfl rfl hquiet
  · rintro s x a d d1 l hloading hready hkind hin hquiesced hmapped hstart rfl rfl hquiet
    change execFenceMoult s = _
    refine nextS_of_eq _ ?_
    rw [hloading]
    dsimp only
    rw [Dev.issue_ready hready, Dev.moultHead, hkind, hin, hquiesced, if_neg (by decide), if_neg Bool.false_ne_true, if_neg (by decide)]
    dsimp only
    rw [hmapped, if_neg Bool.true_eq_false_eq_False, hstart]
    exact State.runMoult_begun rfl rfl hquiet
end

section
/-! SUPPORT. The lifeline commands (R343 to R355): drains, the mirror, restores and the images of wards. -/
namespace Sys2Proof.Machine
open Sys2Proof

variable {s : State} {d : Dev}

/-- A head of the control ring that reads nothing starts without a change of the peers or of the control plane. -/
theorem Dev.start_control (d : Dev) (x : Desc) : (d.start 0 x [] []).2.ctl = d.ctl ∧ (d.start 0 x [] []).2.peers = d.peers := by
  simp [Dev.start, isWork, isColony, Dev.noteHome, Dev.popHead, Dev.setRing]

/-- The drain that is found ends by its own rule: by the header's write for the host, by its acknowledgements for the buddy. -/
theorem lifelineDrainEnd_next {host : Bool} {x : Drain} (h : (s.d.ctl.drains.find? fun x => x.host == host) = some x) :
    execLifelineDrainEnd host s = .next (s.settled (if host then
        (if !s.d.hostReady || !s.d.host.waiting.isEmpty then s.d else (s.d.toHost (.write x.slotAddr (clean x.header) false)).endDrain x true)
      else if s.d.outstanding x.msgs then s.d else s.d.endDrain x true)) := by
  refine nextD_of_eq ?_
  rw [h]

/-- The module asks the buddy that is JOINED, and gives the restore up where there is none. -/
def Dev.askBuddy (d : Dev) (uid step address : Nat) : Dev :=
  match d.buddy with
  | some y => if (d.peer y).state = 3 then d.send y 4 0x93 step (natLE 2 address ++ zeros 6 ++ natLE 8 0 ++ natLE 8 0) [] (some uid) else d.restoreFails uid step
  | none => d.restoreFails uid step

theorem Dev.askBuddy_joined {uid step address y : Nat} (hbuddy : d.buddy = some y) (hpeer : (d.peer y).state = 3) :
    d.askBuddy uid step address = d.send y 4 0x93 step (natLE 2 address ++ zeros 6 ++ natLE 8 0 ++ natLE 8 0) [] (some uid) := by
  rw [Dev.askBuddy, hbuddy]
  exact if_pos hpeer

theorem Dev.askBuddy_gone {uid step address : Nat} (h : ∀ y, d.buddy = some y → (d.peer y).state ≠ 3) : d.askBuddy uid step address = d.restoreFails uid step := by
  unfold Dev.askBuddy
  split
  case h_1 y hy => exact if_neg (h y hy)
  case h_2 => rfl

/-- A restore at the head of the control ring asks the host or the buddy. -/
theorem lifelineRestore_next {x : Desc} {a : Active} {e : Dev} (hready : s.d.ready 0 0x0E false x = true) (hkind : byteAt x.bytes 16 = 0)
    (hdrains : s.d.ctl.drains = []) (hin : flagInput x.bytes = false) (hsource : byteAt x.bytes 17 ≤ 1) (htarget : byteAt x.bytes 18 ≤ 1)
    (hstart : s.d.start 0 x [] [] = (a, e)) :
    execLifelineRestore s = .next (s.settled (if byteAt x.bytes 17 = 1
      then (e.setCtl fun c => { c with restore := some (a.uid, [], false) }).askHost a.uid (field x.bytes 32 8) 0 (imageLength s.d.regions)
      else (e.setCtl fun c => { c with restore := some (a.uid, [], false) }).askBuddy a.uid (field x.bytes 24 8) s.d.ctl.address)) := by
  refine (issue_next hready _).trans ?_
  dsimp only
  rw [hkind, hdrains, hin, hstart, if_neg (by decide), if_neg (by decide), if_neg (by simp [hsource, htarget])]
  rfl

/-- A completion that the module waits for has the effect of its outcome. -/
theorem moduleRead_next {tag : Nat} {bytes : List Byte} {tlp : Tlp} {r : HostRead} {e : Dev} (hup : s.d.host.linkUp = true)
    (htake : s.d.takeRead tag = (some r, e)) (htlp : tlp ≠ .malformed) :
    execModuleReadCompletion tag bytes tlp s = .next (s.settled (
      if tlp != .good then (e.aer (if tlp == .ide then aerIde else aerPoisoned) 0).readLost r
      else if bytes.isEmpty || decide (r.len < bytes.length) then e.readLost r
      else
        match e.ctl.restore, e.act r.uid with
        | some x, some a =>
          if bytes.length < r.len then
            (e.keepImage r.uid (x.2.1 ++ clean bytes)).setHost fun h => { h with reads := { r with off := r.off + bytes.length, len := r.len - bytes.length } :: h.reads }
          else if (x.2.1 ++ clean bytes).length < imageLength e.regions then
            (e.keepImage r.uid (x.2.1 ++ clean bytes)).askHost r.uid (field a.bytes 32 8) (x.2.1 ++ clean bytes).length (imageLength e.regions)
          else e.restoreDone r.uid (x.2.1 ++ clean bytes)
        | _, _ => e)) := by
  refine nextD_of_eq ?_
  rw [hup, htake, if_neg (by decide), if_neg (by simpa using htlp)] <;> rfl

end Sys2Proof.Machine

open Sys2Proof Sys2Proof.Machine

/-- Settles O30: each drain, restore and image is the one that the command finds, and each message is in order. -/
theorem lifelineCommands : Obligations.LifelineCommands := by
  refine ⟨⟨fun s x hdrain hacked => ?_, fun s x hdrain hhost hwaiting => ?_, ?_, fun s x a d hready hkind hdrains hin hsource htarget hstart => ?_, ?_⟩,
    ?_, ?_, ?_, ?_, fun s m r hin hfetching => ?_, fun s tag bytes r d hup htake => ⟨?_, ?_, fun hmaster hd0 => ?_⟩⟩
  · refine (lifelineDrainEnd_next hdrain).trans ?_
    rw [if_neg Bool.false_ne_true, hacked, if_neg Bool.false_ne_true]
  · refine (lifelineDrainEnd_next hdrain).trans ?_
    rw [if_pos rfl, hhost, hwaiting, if_neg (by decide)]
  · rintro s x rest d v a hqueue hd rfl rfl
    have hring : d.rlogRing = s.d.rlogRing := by rw [hd]; rfl
    rw [hring, hd]
    refine ⟨fun hsize hup hroom => ?_, fun hskip => ?_⟩
    · change execMirrorRecordCopy s = _
      refine nextD_of_eq ?_
      rw [hqueue]
      dsimp only
      rw [if_neg (by simp [hsize, hup, hroom])]
    · change execMirrorRecordCopy s = _
      refine nextD_of_eq ?_
      rw [hqueue]
      dsimp only
      rw [if_pos hskip]
  · change execLifelineHostDrain s = _
    refine (issue_next hready _).trans ?_
    rw [hkind, hdrains, hin, hstart, if_neg (by decide), if_neg Bool.false_ne_true, if_neg (by simp [hsource, htarget])]
  · rintro s x a d0 d hready hkind hdrains hin hsource htarget hstart rfl
    have hnext := lifelineRestore_next hready hkind hdrains hin hsource htarget hstart
    obtain ⟨hctl, hpeers⟩ := s.d.start_control x
    rw [hstart] at hctl hpeers
    have hbuddy : (d0.setCtl fun c => { c with restore := some (a.uid, [], false) }).buddy = s.d.buddy := by
      simp only [Dev.buddy, Dev.setCtl]
      rw [hctl]
    have hpeer (y : Nat) : (d0.setCtl fun c => { c with restore := some (a.uid, [], false) }).peer y = s.d.peer y := by
      simp only [Dev.peer, Dev.setCtl]
      rw [hpeers]
    refine ⟨fun hhost => hnext.trans ?_, fun y hpeer' hy hjoined => hnext.trans ?_, fun hpeer' hgone => hnext.trans ?_⟩
    · rw [if_pos hhost]
    · rw [if_neg (by omega), Dev.askBuddy_joined (hbuddy.trans hy) ((congrArg Peer.state (hpeer y)).trans hjoined)]
    · rw [if_neg (by omega), Dev.askBuddy_gone fun y hy => by rw [hpeer]; exact hgone y (hbuddy.symm.trans hy)]
  · rintro s m d rfl hin
    refine ⟨fun r hr => ?_, fun hnone hward => ?_⟩
    · refine (accept_next hin _).trans ?_
      rw [hr]
    · refine (accept_next hin _).trans ?_
      rw [hnone]
      dsimp only
      rw [if_pos hward]
  · rintro s m d rfl hin
    refine ⟨fun r hr hplace => ?_, fun hnone hward => ?_⟩
    · refine (accept_next hin _).trans ?_
      rw [hr]
      dsimp only
      rw [if_pos hplace]
    · refine (accept_next hin _).trans ?_
      rw [hnone]
      dsimp only
      rw [if_pos hward]
  · rintro s m d rfl hin
    refine ⟨fun r hr hgood hplace hdigest => ?_, fun hnone hward => ?_⟩
    · refine (accept_next hin _).trans ?_
      rw [hr]
      dsimp only
      rw [if_neg (by simp [hgood, hplace, hdigest])]
    · refine (accept_next hin _).trans ?_
      rw [hnone]
      dsimp only
      rw [if_pos hward]
  · rintro s m d rfl hin
    refine ⟨fun hnone => ?_, ?_⟩
    · refine (accept_next hin _).trans ?_
      dsimp only
      rw [hnone]
    · rintro base h len v hheld rfl rfl
      refine ⟨fun hwhole => ?_, fun hpart => ?_⟩
      · refine (accept_next hin _).trans ?_
        dsimp only
        rw [hheld]
        dsimp only
        rw [if_pos hwhole, if_pos hwhole]
      · refine (accept_next hin _).trans ?_
        dsimp only
        rw [hheld]
        dsimp only
        rw [if_neg hpart, if_neg hpart]
  · refine (accept_next hin _).trans ?_
    rw [hfetching]
  · rintro x a image hsome hrestore hact rfl
    have hnext := moduleRead_next (bytes := bytes) hup htake (by decide : Tlp.good ≠ .malformed)
    rw [if_neg (by decide), hrestore, hact] at hnext
    dsimp only at hnext
    refine ⟨fun hpart => hnext.trans ?_, fun hlen hmore => hnext.trans ?_, fun hlen hall => hnext.trans ?_⟩
    · rw [if_neg (by simp [hsome, hpart.le]), if_pos hpart]
    · rw [if_neg (by simp [hsome, hlen]), if_neg (by omega), if_pos hmore]
    · rw [if_neg (by simp [hsome, hlen]), if_neg (by omega), if_neg (not_lt.mpr hall)]
  · exact moduleRead_next hup htake (by decide)
  · change execCompletionTimeout tag s = _
    refine nextD_of_eq ?_
    rw [hmaster, hd0, htake, if_neg (by decide)]
end

section
/-! SUPPORT. The commands of a port (R226 to R263): the port is up, or is training, as the row says. -/
namespace Sys2Proof.Machine
open Sys2Proof

variable {d : Dev} {p : Nat}

theorem Dev.replay_again (hup : d.up p = true) (hsome : (d.port p).replay ≠ []) (hfew : (d.port p).replay.any (fun f => decide (16 ≤ f.replays)) = false) :
    d.replay p = (d.setPort p replayPort).health 1 := by
  unfold Dev.replay
  rw [if_neg (by simp [hup, hsome]), hfew, if_neg Bool.false_ne_true]

/-- A width request on a port with none of its own is accepted; in HOLD x2 alone. -/
theorem Dev.widthAsked_accepts {w g q : Nat} (hup : d.up p = true) (hnone : (d.port p).widthReq = none) (hhold : d.ctl.state = 7 → w = 2) :
    d.widthAsked p w g q = d.setPort p fun x => settleWidth { (controlFrame 3 w g q x) with link := 3, widthAcc := some (w, g, q) } := by
  unfold Dev.widthAsked
  rw [if_neg, hnone]
  simpa [hup] using hhold

theorem Dev.widthTaken_starts {w g q : Nat} (hup : d.up p = true) (hreq : (d.port p).widthReq = some (w, g, q)) :
    d.widthTaken p w g q = (d.setPort p fun x => settleWidth { x with link := 3, widthReq := none, widthPeer := some (w, g, q) }).pump p := by
  unfold Dev.widthTaken
  rw [if_pos (by simp [hup, hreq])]

end Sys2Proof.Machine

open Sys2Proof Sys2Proof.Machine

/-- Settles O19: each command finds its port up, or training, and the module as its row says. -/
theorem portCommands : Obligations.PortCommands := by
  refine ⟨fun s p bytes hup => ?_, fun s p hup => ⟨fun harmed => ?_, fun hsome hfew => ?_, fun w g q hnone hhold => ?_, fun w g q hreq => ?_,
    fun w hreq => ⟨fun hback => ?_, fun hback => ?_⟩, fun cause => rfl⟩, fun s p => ⟨fun hp hboot hdead henable hheld hstate => ?_, fun hlink => ⟨?_, fun t => ?_⟩,
    fun t w g hlink henable hheld hchoice => ?_⟩⟩
  · change execFrameReceive p bytes s = _
    refine nextD_of_eq ?_
    rw [hup, if_neg (by decide)]
    cases readFrame bytes with
    | ok slot chunks n => rfl
    | uncorrectable n => rfl
    | badCrc n => rfl
  · change execNakRepeatTimer p s = _
    exact nextD_of_eq (if_pos (by rw [harmed, hup]; rfl))
  · change execReplayTimeout p s = _
    exact nextD_of_eq (Dev.replay_again hup hsome hfew)
  · change execWidthRequest p w g q s = _
    exact nextD_of_eq (Dev.widthAsked_accepts hup hnone hhold)
  · change execWidthAccept p w g q s = _
    exact nextD_of_eq (Dev.widthTaken_starts hup hreq)
  · change execWidthRequestTimeout p s = _
    refine nextD_of_eq ?_
    rw [hreq, Option.isSome_some, if_pos rfl, Dev.widthFails, if_neg hback]
  · change execWidthRequestTimeout p s = _
    refine nextD_of_eq ?_
    rw [hreq, Option.isSome_some, if_pos rfl, Dev.widthFails, if_pos hback]
  · change execPortRetrain p s = _
    refine nextS_of_planes ?_
    have halive : s.readable (0x400004 + 0x4000 * p) = true := by
      have hr := s.readable_port hp (o := 4) (by decide)
      rw [State.dieAlive, hdead, decide_eq_true hboot] at hr
      rwa [show 0x400004 + 0x4000 * p = 0x400000 + 0x4000 * p + 4 by omega]
    rw [halive, if_pos rfl, Dev.train, if_pos (by simp [henable, hheld, hstate])]
  · change execTrainingRetryTimer p none s = _
    exact nextD_of_eq (if_pos hlink)
  · change execTrainingRetryTimer p (some t) s = _
    exact nextD_of_eq (if_pos hlink)
  · change execLinkUp p t s = _
    refine nextD_of_eq ?_
    dsimp only
    rw [hchoice]
    exact if_pos ⟨hlink, henable, hheld⟩
end
